-- ==== Sys2Proof/Word.lean ====
section
/-! DEFINITION. The word types of the AE-3 and the sparse tables that hold its stores (00_scope.md R14 to R16). -/

namespace Sys2Proof

/-- A byte of a packet, a record, an image or the park tier. -/
abbrev Byte := BitVec 8

/-- A 32-bit word: a configuration word, a sequence handle, a binary32 value. -/
abbrev Word := BitVec 32

/-- A 64-bit word: a counter, a local elapsed count, a prefix handle, a fabric address. -/
abbrev DWord := BitVec 64

/-- A store held sparsely: entries in ascending index, each index at most once. -/
abbrev Tbl (α : Type) := List (Nat × α)

end Sys2Proof
end

