-- ==== Sys2Proof/Machine/Bits.lean ====
section
/-! DEFINITION. Bit fields, byte order and integer helpers (00_scope.md R14 to R16). -/

namespace Sys2Proof

/-- The field [hi:lo] of `x` (R14). -/
def fld (x hi lo : Nat) : Nat := x / 2 ^ lo % 2 ^ (hi + 1 - lo)

/-- Bit `n` of `x` (R14). -/
def bit (x n : Nat) : Bool := x.testBit n

/-- A Boolean field as a number. -/
def b01 (b : Bool) : Nat := if b then 1 else 0

/-- A layout put together from (lsb, width, value) triples; each value is cut to its width. -/
def pack (fs : List (Nat × Nat × Nat)) : Nat :=
  fs.foldl (fun a f => a + f.2.2 % 2 ^ f.2.1 * 2 ^ f.1) 0

/-- The low `n` bytes of `x`, little-endian: byte 0 first (R15). -/
def leBytes (n x : Nat) : List Byte :=
  (List.range n).map fun i => BitVec.ofNat 8 (x / 2 ^ (8 * i))

/-- The little-endian number that a byte string spells (R15). -/
def ofLe (bs : List Byte) : Nat := bs.foldr (fun b a => b.toNat + 256 * a) 0

/-- The big-endian number that a byte string spells (for the AES blocks of NIST SP 800-38B). -/
def ofBe (bs : List Byte) : Nat := bs.foldl (fun a b => a * 256 + b.toNat) 0

/-- The low `n` bytes of `x`, most significant first. -/
def beBytes (n x : Nat) : List Byte := (leBytes n x).reverse

/-- `x / y` rounded up; 0 for `y = 0`. -/
def ceilDiv (x y : Nat) : Nat := if y = 0 then 0 else (x + y - 1) / y

/-- `x` rounded up to a multiple of `y`. -/
def upTo (y x : Nat) : Nat := ceilDiv x y * y

/-- A value held within `lo` to `hi`. -/
def clampTo (lo hi x : Nat) : Nat := if x < lo then lo else if x > hi then hi else x

/-- `x` replaced in field [hi:lo] by `v`. -/
def setFld (x hi lo v : Nat) : Nat :=
  x - fld x hi lo * 2 ^ lo + v % 2 ^ (hi + 1 - lo) * 2 ^ lo

/-- `n` bytes of `l` from offset `i`. -/
def slice (l : List Byte) (i n : Nat) : List Byte := (l.drop i).take n

/-- The pieces of `n` bytes of `l`, in order; the last may be shorter. `fuel` bounds the count. -/
def chunks {α : Type} (n fuel : Nat) (l : List α) : List (List α) :=
  match fuel with
  | 0 => []
  | k + 1 => if l.isEmpty then [] else l.take n :: chunks n k (l.drop n)

/-- The largest element of a list of numbers, 0 for none. -/
def maxOf (l : List Nat) : Nat := l.foldl Nat.max 0

/-- The smallest element of a list, `d` for none. -/
def minOf (d : Nat) (l : List Nat) : Nat :=
  match l with
  | [] => d
  | a :: r => r.foldl Nat.min a

/-- The sum of a list of numbers. -/
def sumOf (l : List Nat) : Nat := l.foldl (· + ·) 0

/-- A rational rounded up to a natural number, 0 below 0. -/
def ratCeil (r : Rat) : Nat := r.ceil.toNat

/-- A rational rounded down to a natural number, 0 below 0. -/
def ratFloor (r : Rat) : Nat := r.floor.toNat

end Sys2Proof
end

