-- ==== Sys2Proof/Records.lean ====
section
/-! DEFINITION. Packets, replies and the other records that commands carry into the block or that leave it. -/

namespace Sys2Proof

/-- A command packet as the host port delivers it whole (R90): the header fields besides OPCODE and LEN, and the body.
LEN follows from the body (R91). `mac` holds bytes 56 to 63, byte 56 in bits [7:0] (R97). -/
structure Packet where
  /-- CONTEXT: the sending context. -/
  ctx : BitVec 8
  /-- CSEQ: the context sequence number. -/
  cseq : Word
  /-- CLIENT_TAG. -/
  tag : DWord
  /-- HANDLE. -/
  handle : DWord
  /-- OPFIELDS, header bits [447:192]. -/
  op : BitVec 256
  /-- MAC. -/
  mac : DWord
  /-- The body, a whole number of 16-byte units. -/
  body : List Byte
deriving DecidableEq, Repr

/-- Header bits [hi:lo] of OPFIELDS, numbered as in the header table of R90. -/
def Packet.opf (p : Packet) (hi lo : Nat) : Nat := p.op.toNat / 2 ^ (lo - 192) % 2 ^ (hi + 1 - lo)

/-- A reply or notice of R120. -/
structure Reply where
  opcode : Nat := 0
  ctx : Nat := 0
  status : Nat := 0
  cseq : Nat := 0
  tag : Nat := 0
  obj : Nat := 0
  /-- KIND: 0 a reply, 1 a notice. -/
  kind : Nat := 0
  vclass : Nat := 0
  result : Nat := 0
deriving DecidableEq, Repr

/-- A ring record of R532. -/
structure RingRec where
  seq : Nat := 0
  pos : Nat := 0
  /-- KIND: 0 TOKEN, 1 FINAL, 2 NOTICE. -/
  kind : Nat := 0
  code : Nat := 0
  token : Nat := 0
  outcome : Nat := 0
  timeDegraded : Bool := false
  drafted : Bool := false
  fallback : Bool := false
  deep : Nat := 0
  replayed : Bool := false
  notAccepting : Bool := false
  endToken : Bool := false
  logprob : Nat := 0
  elapsed : Nat := 0
  count : Nat := 0
  format : Nat := 0
  vpool : Nat := 0
  addr : Nat := 0
deriving DecidableEq, Repr

/-- What a failing read of an on-die store held (the rows of R865). -/
inductive EccObj where
  /-- A request-table entry; the flag says that the owner-array copy of R864 fails as well. -/
  | rqt (slot : Nat) (ownerToo : Bool)
  /-- A page-list chunk of a sequence's own pages. -/
  | ownPages (slot : Nat)
  /-- A fork segment or a residency. -/
  | segment (seg : Nat)
  /-- A free-list chunk of a pool, with the free pages it named. -/
  | freeChunk (pool : Nat) (pages : List Nat)
  /-- The staged count table of the sequence in a slot. -/
  | countStage (slot : Nat)
  /-- A mask image. -/
  | maskImage (id : Nat)
  /-- A sketch or route buffer of a pool. -/
  | buffer (pool : Nat)
  /-- A counter, by its configuration offset. -/
  | counter (off : Nat)
  /-- An event record, by ring and slot of the ring. -/
  | eventRec (ring slot : Nat)
  /-- Pool step state, configuration fields or other fabric-side state. -/
  | fsState
  /-- Host-side state of one context. -/
  | hsCtx (ctx : Nat)
  /-- Other host-side state. -/
  | hsState
deriving DecidableEq, Repr

/-- A SECDED report met by a read (R863 to R865). -/
structure EccEvent where
  /-- What was read. -/
  obj : EccObj
  /-- Whether the SECDED code corrected the word (R863); otherwise the read is uncorrectable. -/
  corrected : Bool
  /-- The store, coded by the order of the store table (R835). -/
  store : Nat
  /-- The endpoint of the unit that read (R818). -/
  unit : Nat
deriving DecidableEq, Repr

/-- A message as it arrives at the receiving half of the message gate (R715, R716). -/
structure GateMsg where
  /-- True for host side to fabric side. -/
  toFabric : Bool
  /-- Type code: 0 COMMAND, 1 CREDIT, 2 HS_STATUS; 0 REPLY, 1 FREEZE, 2 NOTICE, 3 RING, 4 HS_WRITE. -/
  typ : Nat
  /-- Context field. -/
  ctx : Nat
  /-- Whether the length field is the type's length. -/
  lenOk : Bool
  /-- The bytes that the CRC covers. -/
  bytes : List Byte
  /-- The CRC-32C that came with the message. -/
  crc : Word
deriving DecidableEq, Repr

/-- What a fabric load brought back (R661, R196, R204): the bytes, or a failure. -/
inductive Fetch where
  /-- Every load was answered. -/
  | bytes (bs : List Byte)
  /-- A load failed after LOAD_TRIES issues. -/
  | failed
deriving DecidableEq, Repr

/-- A candidate slot of a router-candidate record (R394). -/
structure RouteCand where
  expert : Nat
  valid : Bool
  /-- Gate score, bfloat16. -/
  score : Nat
deriving DecidableEq, Repr

/-- A router-candidate part (R393, R394): the header and its records of eight slots each. -/
structure RouterPart where
  step : Nat
  epoch : Nat
  pool : Nat
  model : Nat
  mb : Nat
  interposed : Bool
  layer : Nat
  first : Nat
  count : Nat
  tokens : Nat
  retAddr : Nat
  retBytes : Nat
  records : List (List RouteCand)
deriving DecidableEq, Repr

/-- A completion record (R675) besides its CKIND, which the command names. -/
structure Completion where
  step : Nat
  epoch : Nat
  pool : Nat
  interposed : Bool
  /-- CKIND as written. -/
  ckind : Nat
  engine : Nat
  saved : Nat := 0
deriving DecidableEq, Repr

/-- An energy report (R639). -/
structure EnergyReport where
  step : Nat
  epoch : Nat
  pool : Nat
  interposed : Bool
  engine : Nat
  energy : Nat
  peak : Nat := 0
deriving DecidableEq, Repr

/-- A keep-list record (R602). -/
structure KeepList where
  seq : Nat
  num : Nat
  /-- FIRST and COUNT of each range. -/
  ranges : List (Nat × Nat)
deriving DecidableEq, Repr

/-- A sketch part or an embed record (R422, R423); COUNT is the number of entries. -/
structure SketchPart where
  step : Nat
  epoch : Nat
  pool : Nat
  interposed : Bool
  pkind : Nat
  seq : Nat
  index : Nat
  shard : Nat := 0
  shards : Nat := 0
  format : Nat
  fullFormat : Nat := 0
  dims : Nat := 0
  vpool : Nat := 0
  tailLse : Nat := 0xFF800000
  addr : Nat
  /-- TOKEN and LOGIT of each candidate entry. -/
  entries : List (Nat × Nat) := []
deriving DecidableEq, Repr

/-- A draft list (R507); NODES is the number of entries. -/
structure DraftList where
  step : Nat
  epoch : Nat
  pool : Nat
  seq : Nat
  /-- TOKEN and PARENT of each node. -/
  nodes : List (Nat × Nat)
deriving DecidableEq, Repr

/-- An operation of an atomic on a word (R687). -/
inductive AtomicOp where
  | cas (compare new : DWord)
  | fetchAdd (addend : DWord)
  | swap (new : DWord)
deriving DecidableEq, Repr

/-- The status of an atomic's answer (R688). -/
inductive AtomicStatus where
  | applied | replayed | expired | refused
deriving DecidableEq, Repr

end Sys2Proof
end

