-- ==== Sys2Proof/Machine/FabState.lean ====
section
/-! DEFINITION. The state of the admission unit, the request table, the page manager, the step composer, the deadline
monitor, the park tier controller, the accounting unit and the energy governor. -/

namespace Sys2Proof.Machine

/-- STATE of a request-table entry (R225). -/
inductive SeqState where
  | free | queued | prefilling | decoding | parked | draining | done
deriving DecidableEq, Repr

/-- The code of a state (R225). -/
def SeqState.code (s : SeqState) : Nat :=
  match s with
  | .free => 0 | .queued => 1 | .prefilling => 2 | .decoding => 3 | .parked => 4 | .draining => 5 | .done => 6

/-- Live: from admission to the FINAL (R226). -/
def SeqState.live (s : SeqState) : Bool :=
  match s with
  | .queued | .prefilling | .decoding | .parked => true
  | .free | .draining | .done => false

/-- KIND of a request (R158). -/
inductive Kind where
  | generate | score | embed
deriving DecidableEq, Repr

/-- The code of a kind (R158). -/
def Kind.code (k : Kind) : Nat :=
  match k with
  | .generate => 0 | .score => 1 | .embed => 2

/-- The sampling and streaming parameters of a request after clamping (R224). -/
structure Params where
  seed : Nat := 0
  temperature : Nat := 0
  topP : Nat := 0
  minP : Nat := 0
  topK : Nat := 0
  repPen : Nat := 0
  presPen : Nat := 0
  freqPen : Nat := 0
  specDepth : Nat := 0
  ringDepth : Nat := 0
  /-- STOP0 to STOP3, 32 bits each. -/
  stop0 : Nat := 0
  stop1 : Nat := 0
  stop2 : Nat := 0
  stop3 : Nat := 0
deriving DecidableEq, Repr

/-- The flags of a request-table entry (R224). -/
structure RqtFlags where
  lc : Bool := false
  fallbackOk : Bool := false
  fbActive : Bool := false
  promptCounts : Bool := false
  awaitAppend : Bool := false
  pausePending : Bool := false
  displaced : Bool := false
  issued : Bool := false
  bound : Bool := false
  stencilEn : Bool := false
deriving DecidableEq, Repr

/-- A request-table entry (R224). PL_HEAD and PEN_STAGE, PEN_STAGED, PL_CHUNKS and PARK_REF are read from the lists that
they describe (`Seq`). -/
structure RqtEntry where
  st : SeqState := .free
  outcome : Nat := 0
  gen : Nat := 0
  ctx : Nat := 0
  fl : RqtFlags := {}
  kind : Kind := .generate
  promptForm : Nat := 0
  embedPool : Nat := 0
  n : Nat := 0
  fork : Nat := 0
  pool : Nat := 0
  length : Nat := 0
  promptLen : Nat := 0
  maxTokens : Nat := 0
  emitted : Nat := 0
  scoreSplit : Nat := 0
  model : Nat := 0
  variant : Nat := 0
  priority : Nat := 0
  admitAt : Nat := 0
  deadline : Nat := 0
  maskState : Nat := 0
  stencil : Nat := 0
  par : Params := {}
  acctRec : Nat := 0
  reqHandle : Nat := 0
  nextSib : Nat := 0
  ttft : Nat := 0
  lastEmitAt : Nat := 0
  parkTtl : Nat := 0
deriving DecidableEq, Repr

/-- A prompt item (R160). -/
inductive PItem where
  | tok (t : Nat)
  | emb (addr positions format pool : Nat)
deriving DecidableEq, Repr

/-- The positions of a prompt item (R163). -/
def PItem.positions (i : PItem) : Nat :=
  match i with
  | .tok _ => 1
  | .emb _ n _ _ => n

/-- A run of a sequence's page list that lies in a segment: entries `start` to `start + len - 1` of it (R279). -/
structure SegSlice where
  seg : Nat
  start : Nat
  len : Nat
deriving DecidableEq, Repr

/-- Where a park copy stands (R592 to R617). -/
inductive CopyState where
  /-- Waiting for a keep-list, request `num` at `engine`, acknowledged at the given count when it is (R601, R603). -/
  | keepList (engine num : Nat) (acked : Option Nat)
  /-- Waiting for extents (R617). -/
  | waitSpace
  /-- Extents charged, pages being read and written (R590's steps 4 and 5). -/
  | copying
  /-- Written here; the twin's write is acknowledged with frame `fseq` (R742). -/
  | mirroring (fseq : Nat)
  /-- Its bytes are on their way to another member (R777). -/
  | migrating
  | done
deriving DecidableEq, Repr

/-- Where a restore stands (R596 to R600). -/
inductive RestoreState where
  | none
  /-- Pages reserved on `pool`; the extents are being read from another member (R778). -/
  | fetching (pool : Nat)
  /-- Pages reserved on `pool`, stores in flight (R597, R598). -/
  | storing (pool : Nat)
  /-- The last store acknowledged; the sequence is a joiner (R599). -/
  | done (pool : Nat)
deriving DecidableEq, Repr

/-- A park record (R583, R592 to R606). -/
structure ParkRec where
  condensed : Bool := false
  /-- Parked for a stall (R545, R596). -/
  stall : Bool := false
  /-- A RESUME has been admitted (R596). -/
  resumed : Bool := false
  /-- W: written positions (R592). -/
  written : Nat := 0
  /-- KV layout code, positions per page and the page bytes of the layout. -/
  layout : Nat := 0
  pagePos : Nat := 64
  /-- The pool whose pages were copied and its KV shards. -/
  pool : Nat := 0
  shards : Nat := 1
  /-- List entries of the named residency: the first own page is entry `firstOwn` (R594). -/
  firstOwn : Nat := 0
  /-- KEEP_MAX of the keep request (R601). -/
  keepMax : Nat := 0
  /-- Kept positions of a condensed record, ascending (R604); empty ranges are (first, count). -/
  keep : List (Nat × Nat) := []
  extents : List Nat := []
  /-- The record's bytes once copied (R593, R606). -/
  bytes : List Byte := []
  copy : CopyState := .copying
  restore : RestoreState := .none
  /-- LCL_ELAPSED_FS at the parking commit (R610). -/
  at_ : Nat := 0
  /-- Counted once in PKC_WAIT_SPACE (R617). -/
  waited : Bool := false
  /-- The sequence still holds the pages that the copy was taken from (R298, R616). -/
  held : Bool := true
  /-- The member that holds, or is to hold, the extents of a migrated copy (R777, R778). -/
  away : Option Nat := none
  /-- The copy was opened because the pool is degraded (R859). -/
  degraded : Bool := false
deriving DecidableEq, Repr

/-- A token being appended at a step's commit: what the sampler decided for one output (R461 to R464, R524). -/
structure OutTok where
  token : Nat
  logprob : Nat
  drafted : Bool := false
  deep : Nat := 0
  /-- Sequence position of the record (R532, R536). -/
  pos : Nat
  /-- MASK_STATE after the token. -/
  mask : Nat := 0
deriving DecidableEq, Repr

/-- What one plan entry's sampling has produced for a sequence, awaiting its append group (R263, R541). -/
structure Group where
  toks : List OutTok := []
  /-- EMBED_REF: address, dims, format, pool (R466). -/
  embed : Option (Nat × Nat × Nat × Nat) := none
  /-- The committed length that the step leaves when the group is appended. -/
  newLength : Nat := 0
  /-- The entry was committed short for want of credit (R542). -/
  short : Bool := false
  /-- An end decision that the draw made instead of a token: GRAMMAR_DEAD, or FAILED with CODE 5 (R460). -/
  dead : Option (Nat × Nat) := none
  /-- Accepted node indices in path order (R525), and draft nodes accepted and spoiled (R524). -/
  path : List Nat := []
  accepted : Nat := 0
  spoiled : Nat := 0
deriving DecidableEq, Repr

/-- What the units keep for the sequence in a slot beside its entry. -/
structure Seq where
  /-- Assigned pool of a joiner (R347). -/
  assigned : Option Nat := none
  /-- Segments referenced, in list order (R279). -/
  shared : List SegSlice := []
  /-- Own pages in list order, and the pool that they lie on. -/
  own : List Nat := []
  ownPool : Nat := 0
  /-- The segment references stay until FREE (R318). -/
  refs : List Nat := []
  /-- The handle copy that the prompt starts from, and its positions (R307, R163). -/
  handle : Option Nat := none
  hPos : Nat := 0
  /-- The SUBMIT named that copy by a shared handle, whose traffic is that of context 0 (R628). -/
  viaShared : Bool := false
  /-- Prompt items received after the handle's positions (R160). -/
  items : List PItem := []
  /-- Positions from 0 on whose KV stands, in pages, in the park record or in the handle: the next prefill chunk starts
  here. -/
  kv : Nat := 0
  /-- Tokens appended so far, oldest first. -/
  tokens : List Nat := []
  /-- The prompt form of APPENDs in progress is that of a RESUME (R172). -/
  resuming : Bool := false
  /-- Ring credits for TOKEN and NOTICE records (R537). -/
  credits : Nat := 0
  /-- When the stall timer started; whether its expiry has won (R544, R545). -/
  stallAt : Option Nat := none
  stallWon : Bool := false
  /-- Strike count (R558). -/
  strikes : Nat := 0
  /-- A RESUME has been admitted and nothing appended since (R262): the next gap is not measured (R557). -/
  skipGap : Bool := false
  /-- Extents of the replay record, when there is one (R568). -/
  replay : Option (List Nat) := none
  /-- Records appended and not credited back (R551). -/
  unreturned : List RingRec := []
  port : Nat := 0
  ttftPred : Nat := 0
  /-- Prompt outputs of a score sequence appended so far (R464). -/
  scored : Nat := 0
  /-- Count table: token and count, in first-seen order (R445). -/
  counts : List (Nat × Nat) := []
  /-- The count table is staged on die, at a staging index of the AE-3's own choice (R448). -/
  staged : Option Nat := none
  park : Option ParkRec := none
  /-- Waiting for the placement of a residency of its handle on a pool (R313). -/
  placing : Option Nat := none
  /-- The TTL of the last PAUSE accepted; 0 selects the default (R610). -/
  pauseTtl : Nat := 0
  /-- Parked at the next commit for growth (R298). -/
  marked : Bool := false
  /-- The request of the sequence that held the FREE slot last, by which CANCEL still finds it (R175 to R177). -/
  wasOf : Option Nat := none
  /-- A re-route awaits the commit of a plan that names the sequence, or the next one of the pool that it is bound to; the model
  slot that it leaves, under which those plans run (R34, R571). -/
  unbind : Bool := false
  wasModel : Nat := 0
  /-- The append group of the step being committed. -/
  group : Option Group := none
  /-- Handover source: pool and list whose pages are held until the copying step commits (R304, R306). -/
  moveFrom : Option (Nat × List Nat × List SegSlice) := none
  /-- The copying step has committed: the source pages go in the next phase 1 (R306). -/
  moved : Bool := false
  /-- The sequence has been placed on its pool, in a plan composed or delivered (R301). -/
  joined : Bool := false
  /-- Own pages on pools that the sequence has left, each list until that pool's next phase 1 (R275, R298, R571). -/
  left : List (Nat × List Nat) := []
  /-- The fork whose own pages stand for this one's prompt pages until the steps that fill them commit (R253, R294). -/
  follows : Option Nat := none
  /-- The prompt is a replay record (R572). -/
  replayed : Bool := false
  /-- LCL_ELAPSED_FS when DEADLINE was set (R87). -/
  deadlineFrom : Nat := 0
  /-- The forwarding member and the forward number, for a forwarded sequence (R771). -/
  home : Option (Nat × Nat) := none
deriving DecidableEq, Repr

/-- A segment entry (R278): a residency of a handle copy, or a fork segment. -/
structure Seg where
  pool : Nat
  /-- The handle copy of a residency; none for a fork segment. -/
  copy : Option Nat
  pages : List Nat
  /-- Segments whose pages it includes (R311). -/
  bases : List Nat := []
  /-- Placement in flight: the last extent is not yet acknowledged (R313). -/
  placing : Bool := false
  /-- Count of the last reference to it, for the age order of R295. -/
  lastRef : Nat := 0
  /-- A placement that is given up: its pages go in the pool's next phase 1 (R277, R316). -/
  dropped : Bool := false
deriving DecidableEq, Repr

/-- The park-tier copy that prefix handles name (R309, R320). -/
structure HandleCopy where
  /-- The prefix handle that PREFIX_PUT created it for, and the shared handles that have named it since. -/
  handle : Nat
  names : List Nat := []
  owner : Nat
  model : Nat
  variant : Nat
  q : Nat
  layout : Nat
  pagePos : Nat
  /-- One entry per position: token in [19:0], bit 31 for an embedding position (R309). -/
  tokens : List Nat
  extents : List Nat := []
  bytes : List Byte := []
  done : Bool := false
  /-- Written here; the twin's write is acknowledged with this frame (R742). -/
  mirrorAt : Option Nat := none
deriving DecidableEq, Repr

/-- A handle record (R309). -/
structure HandleRec where
  copy : Nat
  /-- Expiry as a LCL_ELAPSED_FS value; none for a shared handle (R321). -/
  expiry : Option Nat
  /-- LCL_ELAPSED_FS when the expiry was set (R87). -/
  setAt : Nat := 0
  /-- Grants of a shared handle, a context bitmap (R202). -/
  grants : BitVec 256 := 0
deriving DecidableEq, Repr

/-- The settings that TENANT_SET puts in force, besides the key (R210). -/
structure Tenant where
  sqDepth : Nat := 64
  prioCeil : Nat := 0
  parkMode : Nat := 0
  maxBudget : Nat := 0
  defBudget : Nat := 0
  modelGrant : Nat := 0
  maxTtl : Nat := 0
  defTtl : Nat := 0
  resPrefill : Nat := 0
  resDecode : Nat := 0
  resShared : Nat := 0
  limPrefill : Nat := 0
  limDecode : Nat := 0
  limShared : Nat := 0
  resPark : Nat := 0
  limPark : Nat := 0
  maxSeqs : Nat := 0
deriving DecidableEq, Repr

/-- The fabric-side state of one context. -/
structure FsCtx where
  tenant : Tenant := {}
  /-- Sequences of the context not yet FREE (R240, R246). -/
  seqs : Nat := 0
  /-- CTX_PARK_USED (R584). -/
  parkUsed : Nat := 0
  /-- Group quota shares given away or received (GQ_SLICE, R766). -/
  gqSlice : Nat := 0
  gqParkSlice : Nat := 0
deriving DecidableEq, Repr

/-- An engine descriptor as parsed (R329). -/
structure Desc where
  version : Nat
  kvLayout : Nat
  modelServe : Nat
  vocabShard : Nat
  vocabShards : Nat
  kvShard : Nat
  kvShards : Nat
  tileTime : Nat
  discardLimit : Nat
  completionTimeout : Nat
  ctrlAddr : Nat
  saveAddr : Nat
  saveBytes : Nat
  planAddr : Nat
  planBytes : Nat
  cStep : Nat
  cDec : Nat
  cPre : Nat
  cAtt : Nat
  cMb : Nat
  cSwap : Nat
  eStep : Nat
  ePos : Nat
  eAtt : Nat
deriving DecidableEq, Repr

/-- What a store to an engine is, by which its acknowledgement is told from others. -/
inductive StoreWhy where
  /-- The header of a plan, a mailbox command, the header of a route return, a keep request (R341, R376, R417, R603). -/
  | plan | mailbox | route | keep
  /-- A restore of a slot, the placement of a residency (R598, R313). -/
  | restore (slot : Nat)
  | place (seg : Nat)
  /-- A body, or a control block. -/
  | other
deriving DecidableEq, Repr

/-- A store that its engine has not acknowledged, with the count at which it was issued (R660). -/
structure StoreOut where
  why : StoreWhy
  at_ : Nat
deriving DecidableEq, Repr

/-- An attached engine. -/
structure Engine where
  pool : Nat
  desc : Desc
  frozen : Bool := false
  /-- Detached from further plans; its last step is still executing (R206). -/
  leaving : Bool := false
  /-- Newly attached or thawed: the next plan that includes it carries every page (R288). -/
  fresh : Bool := true
  /-- MBOX_STEP, MBOX_NUM and MBOX_CMD as last written (R332). -/
  mboxStep : Nat := 0
  mboxNum : Nat := 0
  mboxCmd : Nat := 0
  /-- Malformed records within the executing step (R139). -/
  bad : Nat := 0
  /-- Those within the step that is held, while it is (R139, R376). -/
  badHeld : Nat := 0
  /-- NUM of the last keep request (R601). -/
  keepNum : Nat := 0
  /-- Positions taken in each record ring, and body units stored and not yet taken (R670, R672). -/
  ringPos : Tbl Nat := []
  body : Tbl (List Byte) := []
  /-- The atomic outstanding: ASEQ, issues made, when last issued (R691). -/
  atomic : Option (Nat × Nat × Nat) := none
  nextAseq : Nat := 0
  /-- Stores not acknowledged, oldest first (R660, R666). -/
  stores : List StoreOut := []
deriving DecidableEq, Repr

/-- ETYPE of a plan entry (R339). -/
inductive EType where
  | decode | prefill | final | score | embed | forkTail
deriving DecidableEq, Repr

/-- The code of an entry type (R339). -/
def EType.code (e : EType) : Nat :=
  match e with
  | .decode => 0 | .prefill => 1 | .final => 2 | .score => 3 | .embed => 4 | .forkTail => 5

/-- A sequence entry of a plan (R338), with the composer's reads that the step relies on. -/
structure PlanEntry where
  slot : Nat
  /-- SEQ. -/
  seq : Nat
  pos : Nat
  etype : EType
  model : Nat
  variant : Nat
  npos : Nat
  mb : Nat := 0
  draft : Nat := 0
  plLen : Nat := 0
  /-- Committed length at the composer's read (L_r of R290). -/
  lRead : Nat := 0
  ctx : Nat := 0
  lc : Bool := false
deriving DecidableEq, Repr

/-- A page-list delta record (R282). -/
structure Delta where
  seq : Nat
  /-- OP: 1 APPEND, 2 TRUNCATE, 3 DROP. -/
  op : Nat
  index : Nat := 0
  page : Nat := 0
  src : Option Nat := none
deriving DecidableEq, Repr

/-- A segment record (R340). -/
structure SegRec where
  layer : Nat
  operator : Nat
  model : Nat
  mb : Nat
  /-- SKIND: 0 compute, 1 route exchange, 2 sketch exchange. -/
  skind : Nat
  offset : Nat
  dur : Nat
deriving DecidableEq, Repr

/-- A route descriptor of one mixture-of-experts layer (R382). -/
structure RouteDesc where
  layer : Nat
  /-- E: experts. -/
  experts : Nat
  /-- G: expert groups. -/
  groups : Nat
  /-- Groups chosen per token, 1 or 2. -/
  groupTop : Nat
  /-- K: experts per token. -/
  k : Nat
deriving DecidableEq, Repr

/-- The settings of a model slot as they stood when a composition began (R44, R386, R442, R506). -/
structure ModeSet where
  model : Nat
  /-- MODEL_SAMPLE, MODEL_DRAFT and MODEL_ROUTE. -/
  sample : Nat
  draft : Nat
  route : Nat
  /-- Private-expert ranges by variant: layer, first, last. -/
  priv : List (Nat × List (Nat × Nat × Nat)) := []
  /-- The route descriptors, from which the capacity of a step's expert buffers follows (R390). -/
  descs : List RouteDesc := []
deriving DecidableEq, Repr

/-- A plan (R337 to R340). -/
structure Plan where
  step : Nat
  epoch : Nat
  pool : Nat
  typ : Nat
  interposed : Bool := false
  entries : List PlanEntry
  deltas : List Delta := []
  segs : List SegRec := []
  mbSplit : Nat := 1
  dur : Nat := 0
  index : Nat := 0
  /-- Engines that the plan includes, ascending. -/
  engines : List Nat
  /-- Planned energy of each engine before EGV_RATIO, and that of the plan after it, µJ (R644). -/
  energy : List (Nat × Rat) := []
  energyK : Rat := 0
  /-- The plan is over its envelope (R648). -/
  beyond : Bool := false
  /-- The plan's cost exceeds the step limit because of pass 1 (R355). -/
  overrun : Bool := false
  /-- The settings at the start of the composition, with UNIT_SHARE. -/
  modes : List ModeSet := []
  unitShare : Nat := 4
  /-- DIGEST_EN and the LAYER and OPERATOR filters at the start of the composition (R810). -/
  digest : Bool := false
  filter : Nat × Nat := (0xFFFF, 0xFFFF)
  /-- Growth marks made in this composition (R298). -/
  marks : List Nat := []
  /-- Slots that this composition placed on the pool (R301). -/
  joins : List Nat := []
  /-- The residencies whose placement this composition began (R313, R369). -/
  places : List Nat := []
  /-- The pages that this composition reserved for the growth of each continuing sequence, by slot (R369). -/
  grown : List (Nat × List Nat) := []
  /-- The pool's energy mode when the composition began, with whether an envelope of 0 W held deliveries then (R44,
  R650). -/
  envMode : Nat := 0
  noWatts : Bool := false
  /-- PLANNED_DUR, or the paced period under CAP_HARD (R649, R651). -/
  period : Nat := 0
deriving DecidableEq, Repr

/-- A delivered step (R35). -/
structure Step where
  plan : Plan
  /-- LCL_ELAPSED_FS at the delivery; none until the header is acknowledged everywhere (R341). -/
  deliveredAt : Option Nat := none
  /-- Engines whose header store is acknowledged, with the count that their completion timer runs from (R679, R376). -/
  acked : Tbl Nat := []
  /-- Engines that have completed (R678) or yielded (R373). -/
  done : List Nat := []
  yielded : List Nat := []
  /-- The step has failed, with the STEP_FAILED cause of R817; STEP_FAIL tears it down. -/
  failed : Option Nat := none
  /-- Entries whose append group has been appended or discarded (R36). -/
  appended : List Nat := []
  /-- Interposition already made or tried in this step (R371). -/
  interposedOnce : Bool := false
  /-- Sum of held intervals, and the start of the present one (R633). -/
  heldFor : Nat := 0
  heldAt : Option Nat := none
  /-- Fabric bytes stored or loaded for the plan as a whole (R634). -/
  bytes : Nat := 0
  /-- Fabric bytes charged whole to a sequence, by slot (R634). -/
  ownBytes : Tbl Nat := []
deriving DecidableEq, Repr

/-- The yield in progress on a pool (R373 to R377). -/
inductive Yield where
  | none
  /-- YIELD stored, mailbox acknowledgements awaited from these engines. -/
  | asked (waiting : List Nat)
  /-- The YIELD timer runs from this count. -/
  | timing (at_ : Nat)
  /-- Step held; the interposed plan runs. -/
  | held
  /-- RESUME stored, acknowledgements awaited. -/
  | resuming (waiting : List Nat)
  /-- The yield failed; the interposed plan waits for the commit (R377). -/
  | failed
deriving DecidableEq, Repr

/-- A step whose energy is not yet closed (R641). -/
structure EnergyWait where
  step : Nat
  epoch : Nat
  interposed : Bool
  /-- Planned energy of each engine of the plan (R644). -/
  planned : List (Nat × Rat)
  reported : List (Nat × Nat) := []
  at_ : Nat
  failed : Bool
  /-- Entries: SEQ, context, class, weight (R632). -/
  shares : List (Nat × Nat × Bool × Rat)
deriving DecidableEq, Repr

/-- A pool. -/
structure Pool where
  typ : Nat
  epoch : Nat := 1
  pages : Nat := 0
  /-- Pages never yet handed out begin here; then the returned ones in return order (R276). -/
  freshPage : Nat := 0
  returned : List Nat := []
  withheld : Nat := 0
  kvLayout : Nat
  vocabShards : Nat
  kvShards : Nat
  /-- The KV layout entry in force for the pool (R619): ELEM, KV_OFFSET, PAGE_BYTES, POS_BYTES, KEEPQ_OFFSET. -/
  elem : Nat := 0
  kvOffset : Nat := 0
  pageBytes : Nat := 0
  posBytes : Nat := 0
  keepqOffset : Nat := 0
  unitShare : Nat := 4
  /-- STEP of the last plan delivered, and of the last plan stored. -/
  step : Nat := 0
  stepNo : Nat := 0
  exec : Option Step := none
  /-- Step k while it is held (R376); `exec` is then the interposed step. -/
  held : Option Step := none
  next : Option Plan := none
  interp : Option Plan := none
  yield : Yield := .none
  /-- Pages that each sequence's mirror holds, by SEQ (R282). -/
  mirror : Tbl (List Nat) := []
  /-- By SEQ, the fewest list entries that trimming has left of its list since the last plan delivered (R285, R369). -/
  cuts : Tbl Nat := []
  /-- SEQs that the last delivered plan named (R285). -/
  named : List Nat := []
  /-- PLANNED_DUR, or the paced period, of the last plan delivered that is not interposed (R562, R651). -/
  lastDur : Option Nat := none
  /-- Earliest delivery under pacing (R649), and the commit that the wait is measured from. -/
  paceUntil : Option Nat := none
  committedAt : Nat := 0
  degraded : Bool := false
  closing : List EnergyWait := []
  /-- Pages that a failed step's trimming returns once the recomposed plan is delivered (R369). -/
  lateReturn : List Nat := []
  /-- An idle composition has placed nothing, so that pages which engines' lists still name can be handed out. -/
  unbarred : Bool := false
  /-- Composition k+1 has finished with nothing to place while step k executes (R291). -/
  composedEmpty : Bool := false
  /-- Trimming owed: the commit of step k and composition k+1 are both done (R291). -/
  trimDue : Bool := false
  /-- Growth pages reserved by the composition in progress (R241). -/
  reserved : Nat := 0
  /-- Outcome records waiting for the next token return (R680). -/
  outcomes : List (List Nat) := []
  /-- Those that the latest plan's token return carried (R752). -/
  sentOutcomes : List (List Nat) := []
  /-- Reduction and atomic windows (R683, R687). -/
  redWin : Tbl DWord := []
  redSat : List Nat := []
  atomWin : Tbl DWord := []
deriving DecidableEq, Repr

/-- A loaded model image (R196, R266, R340, R382). -/
structure ModelImage where
  /-- S: positions per page. -/
  s : Nat
  vocab : Nat
  eos : Nat
  vocabTag : Nat
  routes : List RouteDesc
  /-- Segment template: LAYER, OPERATOR, SKIND. -/
  template : List (Nat × Nat × Nat)
deriving DecidableEq, Repr

/-- A route descriptor as its 64 bits lie in a model image (R382). -/
def routeDescOf (v : BitVec 64) : RouteDesc :=
  { layer := fld v.toNat 15 0, experts := fld v.toNat 27 16 + 1, groups := fld v.toNat 35 28 + 1
    groupTop := fld v.toNat 36 36 + 1, k := fld v.toNat 39 37 + 1 }

/-- What a fetched model image holds: its route descriptors as 64-bit words, the rest of it parsed. -/
structure ImageIn where
  s : Nat
  vocab : Nat
  eos : Nat
  vocabTag : Nat
  routes : List (BitVec 64)
  /-- Segment template: LAYER, OPERATOR, SKIND. -/
  template : List (Nat × Nat × Nat)
deriving DecidableEq, Repr

/-- The image as its slot holds it. -/
def ImageIn.parsed (i : ImageIn) : ModelImage :=
  { s := i.s, vocab := i.vocab, eos := i.eos, vocabTag := i.vocabTag, routes := i.routes.map routeDescOf, template := i.template }

/-- A variant of a model slot (R200, R909). -/
structure Variant where
  enabled : Bool
  grants : BitVec 256
  /-- Private-expert ranges: layer, first, last. -/
  ranges : List (Nat × Nat × Nat)
deriving DecidableEq, Repr

/-- A setting whose write takes force only once the reply to it is released: what stays in force until then (R44, R386,
R506, R810). -/
inductive Setting where
  /-- A configuration word. -/
  | word (off old : Nat)
  /-- The private-expert ranges of a variant. -/
  | ranges (model variant : Nat) (old : List (Nat × Nat × Nat))
  /-- DIGEST_EN, OPCOUNT_EN, LAYER and OPERATOR. -/
  | trace (digest opcount : Bool) (layer operator : Nat)
deriving DecidableEq, Repr

/-- A write by a packet of context 0 whose reply is not yet released. -/
structure Latch where
  cseq : Word
  held : Setting
deriving DecidableEq, Repr

/-- A model slot. -/
structure ModelSlot where
  image : Option ModelImage := none
  fallback : Option Nat := none
  /-- Variants named by VARIANT_SET since the load, by number (R909). -/
  variants : Tbl Variant := []
deriving DecidableEq, Repr

end Sys2Proof.Machine
end

