-- ==== Sys2Proof/Machine/HostState.lean ====
section
/-! DEFINITION. The state of the host side: ports, contexts, submission queues, reply streams, fault state (R31). -/

namespace Sys2Proof.Machine

/-- A packet in a submission queue (R113), with its receipt note (R82). -/
structure QItem where
  port : Nat
  opcode : Nat
  pkt : Packet
  /-- LCL_ELAPSED_HS when the last beat entered the entry FIFO (R82). -/
  noted : Nat
  /-- The reply, where the host side has it already: DUPLICATE, CREDIT and the answers of R837. -/
  answer : Option Reply := none
  /-- The answer is a DUPLICATE, which took no credit (R115). -/
  dup : Bool := false
  /-- SECDED reports that meet this packet's reads (R863 to R865). -/
  ecc : List EccEvent := []
deriving DecidableEq, Repr

/-- What a packet being acted on waits for before its reply. -/
inductive Wait where
  /-- The descriptor of POOL_ATTACH (R204). -/
  | descriptor
  /-- The image of MODEL_LOAD or STENCIL_LOAD (R196). -/
  | image
  /-- The last step that includes the detached engines (R206), by pool, engines and step. -/
  | detach (pool : Nat) (engines : List Nat)
  /-- The end of cut `n` (R214). -/
  | cut (n : Nat)
  /-- The answer to FORWARD `num` to member `dest` (R771). -/
  | forward (dest num : Nat)
  /-- The end of TWIN_ATTACH, begun at fabric-side count `t` (R744, R217). -/
  | attach (t : Nat)
  /-- The end of a takeover (R752). -/
  | takeover
  /-- The park-tier copy of a source handle (R320). -/
  | handleCopy (copy : Nat)
  /-- The release of the replies of packets of context `ctx` being acted on (TENANT_RESET, step 2). -/
  | reset (ctx : Nat)
deriving DecidableEq, Repr

/-- What happens when a stream item is released. -/
inductive OnRelease where
  | nothing
  /-- The KEY_GRACE of context `ctx` starts, where its key is still the one installed by replacement `num` (R101). -/
  | graceStart (ctx num : Nat)
  /-- The relayed record is acknowledged to the home, member `member`, forward `num` (R775). -/
  | relayTaken (member num : Nat)
deriving DecidableEq, Repr

/-- One message of a reply stream (R122, R123, R547). -/
inductive StreamMsg where
  | reply (r : Reply)
  | ring (r : RingRec)
deriving DecidableEq, Repr

/-- A message waiting in a reply stream with what its release needs. -/
structure StreamItem where
  port : Nat
  msg : StreamMsg
  /-- The FSEQ that the twin must have acknowledged first (R550, R733); 0 for none. -/
  need : Nat := 0
  /-- Whether the item's packet still holds a submission credit (R114, R116). -/
  credit : Bool := false
  after : OnRelease := .nothing
deriving DecidableEq, Repr

/-- The host-side state of one context (R31, R144). -/
structure HsCtx where
  /-- The key; a context without one is not provisioned (R99, R100). -/
  key : Option (BitVec 128) := none
  /-- The previous key of R101. -/
  prevKey : Option (BitVec 128) := none
  /-- LCL_ELAPSED_HS when KEY_GRACE began; none until the TENANT_SET reply is released. -/
  graceAt : Option Nat := none
  /-- Replacements of the key so far: whose release starts the grace of the present previous key (R101). -/
  keyNum : Nat := 0
  /-- Packets accepted under the current key, held at 2^31 (R102 to R104). -/
  accepted : Nat := 0
  /-- Packets accepted under the previous key. -/
  acceptedPrev : Nat := 0
  frozen : Bool := false
  keyAged : Bool := false
  keyExpired : Bool := false
  lastVclass : Nat := 0
  lastVseq : Word := 0
  hiSeq : Word := 0
  /-- MAC of the packet that set HI_SEQ (R109). -/
  hiMac : Option DWord := none
  sqDepth : Nat := 64
  /-- An SQ_DEPTH waiting for the next TENANT_RESET (R119). -/
  nextDepth : Option Nat := none
  queue : List QItem := []
  acting : Option (QItem × Wait) := none
  stream : List StreamItem := []
  /-- The port of the last accepted packet (R712). -/
  lastPort : Option Nat := none
  /-- Between steps 1 and 7 of a TENANT_RESET (R629). -/
  resetting : Bool := false
  /-- An F2 fault's tear-down awaits step 2 of a TENANT_RESET (R867). -/
  f2 : Bool := false
deriving DecidableEq, Repr

/-- The host side. -/
structure HostSide where
  /-- Out of reset and powered. -/
  up : Bool := true
  /-- HS_BOOT (R848). -/
  bootDone : Bool := false
  bootFail : Bool := false
  /-- HS_TIME_DEGRADED_SEEN (R77). -/
  degradedSeen : Bool := false
  /-- GATE_CFG KEY_GRACE in hns (R144). -/
  keyGrace : Nat := 10000
  /-- SVC_KEY0 to SVC_KEY3, SVC_KEY0 in bits [31:0] (R840). -/
  svcKey : BitVec 128 := 0
  /-- SVC_ADDR, the last SVC_DATA and SVC_STATUS (R891). -/
  svcAddr : Word := 0
  svcData : Word := 0
  svcBusy : Bool := false
  svcDenied : Bool := false
  svcSideDown : Bool := false
  /-- HS_FAULT_LAST (R872). -/
  faultLast : DWord := 0
  /-- Contexts, by number; absent ones are as reset. -/
  ctxs : Tbl HsCtx := []
  /-- Ports that discard beats up to the next first-beat marker (R94). -/
  skipping : List Nat := []
  /-- Times that the message in flight in each direction has been refused (R716). -/
  refusedToFs : Nat := 0
  refusedToHs : Nat := 0
  /-- Ports on which a half-filled beat left, with LCL_ELAPSED_HS then (R710, R711). -/
  halfBeats : Tbl Nat := []
  /-- HS_STATUS messages kept for the fabric side while it is held (R718), at most 4,096. -/
  keptForFs : Nat := 0
deriving DecidableEq, Repr

end Sys2Proof.Machine
end

