-- ==== Sys2Proof/Machine/UnitState.lean ====
section
/-! DEFINITION. The state of the route unit, the mask unit, the memory and fabric ports, the pairing and peer units,
the observation unit's settings, the horn and the bring-up of the fabric side. -/

namespace Sys2Proof.Machine

/-- PHASE of BOOT_STATUS (R834). -/
inductive Phase where
  | selfTest | waitStart | calibrate | train | clear | ready | drain | shut | failed
deriving DecidableEq, Repr

/-- The code of a phase (R834). -/
def Phase.code (p : Phase) : Nat :=
  match p with
  | .selfTest => 0 | .waitStart => 1 | .calibrate => 2 | .train => 3 | .clear => 4 | .ready => 5 | .drain => 6
  | .shut => 7 | .failed => 15

/-- Bring-up of the fabric side (R848). -/
structure Boot where
  up : Bool := true
  phase : Phase := .selfTest
  failStore : Nat := 0
  shutDone : Bool := false
  peerSeen : Bool := false
  peerMatch : Bool := false
  toReady : Nat := 0
  /-- START has been written; CALIBRATE begins once the side is not on delay-line time (R834). -/
  startAsked : Bool := false
  /-- DATA_RATE in force: its value when TRAIN began (R721). -/
  rate : Nat := 3
deriving DecidableEq, Repr

/-- The speed index, TIME_STATUS and the junction temperature (R65, R77, R902). -/
structure Speed where
  idx : Nat := 0x1000
  meas : Nat := 0x1000
  /-- Recomputations of the last 20 µs: count and value (R53). -/
  recent : List (Nat × Nat) := []
  tgl : Bool := false
  degradedSeen : Bool := false
  freqBad : Bool := false
  underrunSeen : Bool := false
  underrunHold : Bool := false
  /-- Count of the last underrun (R55). -/
  underrunAt : Nat := 0
  calDone : Bool := false
  therm : Nat := 0
  thermTgl : Bool := false
  /-- An F4 fault has been raised since the fabric-side reset (R903). -/
  f4 : Bool := false
deriving DecidableEq, Repr

/-- A run entry of a mask image (R478). -/
structure MaskRun where
  lo : Nat
  hi : Nat
  next : Nat
deriving DecidableEq, Repr

/-- A state record of a mask image (R477). -/
structure MaskStateRec where
  base : Nat
  count : Nat
  accept : Bool
  dead : Bool
deriving DecidableEq, Repr

/-- A mask image in the store (R476). -/
structure MaskImage where
  vocab : Nat
  vocabTag : Nat
  start : Nat
  states : List MaskStateRec
  runs : List MaskRun
  blocks : Nat
  /-- The partition that it was loaded into (R497). -/
  part : Nat
  grants : BitVec 256
  withdrawn : Bool := false
  users : Nat := 0
deriving DecidableEq, Repr

/-- A partition of the mask store as in force (R495, R498). -/
structure MaskPart where
  firstId : Nat := 0
  idCount : Nat := 0
  blocks : Nat := 0
  /-- A request awaits an empty partition (R497). -/
  pending : Bool := false
deriving DecidableEq, Repr

/-- The mask store. -/
structure MaskStore where
  images : Tbl MaskImage := []
  parts : Tbl MaskPart := []
deriving DecidableEq, Repr

/-- A park copy that another member has migrated here: the member, its sequence handle, the context charged, the extents
and their bytes (R777, R778). -/
structure Guest where
  member : Nat
  seq : Nat
  ctx : Nat
  extents : List Nat
  bytes : List Byte
deriving DecidableEq, Repr

/-- The park tier's space (R578 to R586). -/
structure Park where
  /-- PARK_GIB_PORT. -/
  gib : Nat := 0
  /-- Extents in use, and extents marked lost (R707). -/
  used : Tbl Unit := []
  lost : Tbl Unit := []
  /-- The port that received the latest allocation (R581). -/
  lastPort : Nat := 0
  /-- Copies migrated here from other members (R778). -/
  guests : List Guest := []
deriving DecidableEq, Repr

/-- A read in retry on a memory port (R706): block address and retries made. -/
structure MemRetry where
  addr : Nat
  tries : Nat
deriving DecidableEq, Repr

/-- A class of memory-port accesses (R613). -/
inductive MemClass where
  | park | prefix_ | table | mirror | migrate
deriving DecidableEq, Repr

/-- The class's place in the table of R613. -/
def MemClass.code (c : MemClass) : Nat :=
  match c with
  | .park => 0 | .prefix_ => 1 | .table => 2 | .mirror => 3 | .migrate => 4

/-- What memory-port accesses are for. -/
inductive MemWhy where
  /-- A park copy of a slot, its restore, its bytes for the twin, its bytes for another member (R593, R597, R742, R777). -/
  | copy (slot : Nat)
  | restore (slot : Nat)
  | toTwin (slot : Nat)
  | toMember (slot : Nat)
  /-- The copy of a prefix handle, and the placement of a residency (R312, R313). -/
  | handle (copy : Nat)
  | placement (seg : Nat)
  /-- A copy that another member has migrated here (R777, R778). -/
  | guest (seq : Nat)
  /-- Handle records, count tables, replay records, the park directory. -/
  | tables
deriving DecidableEq, Repr

/-- Accesses of 256 bytes queued on a port for one purpose, in one extent or unit. -/
structure MemJob where
  cls : MemClass
  ctx : Nat
  left : Nat
  why : MemWhy
deriving DecidableEq, Repr

/-- A memory port (R721). -/
structure MemPort where
  trained : Bool := false
  failed : Bool := false
  refresh : Nat := 0
  lost : Nat := 0
  /-- Interleaved 4 KiB units marked lost (R702). -/
  lostUnits : Tbl Unit := []
  /-- Retraining failures in a row (R702), and the count of the last retraining. -/
  badRow : Nat := 0
  lastTrain : Nat := 0
  retries : List MemRetry := []
  /-- Accesses queued, oldest first (R614). -/
  jobs : List MemJob := []
  /-- By class, the context whose turn it is and the slots that its turn still has (R628). -/
  turns : Tbl (Nat × Nat) := []
  /-- Updates and PHY master requests that wait for the next round boundary, and those granted (R694). -/
  phyWaits : Nat := 0
  phyGrants : Nat := 0
deriving DecidableEq, Repr

/-- A route set being received or answered (R392, R415). -/
structure RouteSet where
  step : Nat
  interposed : Bool
  model : Nat
  mb : Nat
  layer : Nat
  retAddr : Nat
  retBytes : Nat
  /-- Token number and filtered candidates, for the tokens received. -/
  got : Tbl (List (Nat × Nat)) := []
  /-- Engines that the return header store was issued to and that have not yet acknowledged it; none until then. -/
  answering : Option (List Nat) := none
  /-- Answered and acknowledged: its slot is free, and its tokens stay known until the step ends (R398, R417). -/
  closed : Bool := false
deriving DecidableEq, Repr

/-- A part waiting in the flow control of its window (R672): the engine, with the record. -/
structure HeldPart where
  engine : Nat
  part : RouterPart
deriving DecidableEq, Repr

/-- A sketch part waiting in the flow control of its engine's sketch window (R441, R672). -/
structure HeldSketch where
  engine : Nat
  part : SketchPart
deriving DecidableEq, Repr

/-- A sketch candidate: token, raw logit as binary32 bits. -/
structure Cand where
  token : Nat
  logit : Nat
deriving DecidableEq, Repr

/-- A part taken for one shard of a position, after R436 and R440: its candidates, TAIL_LSE as binary32 bits, where the
shard's full logits are retained, and the engine that sent it. -/
structure SkPart where
  shard : Nat
  cands : List Cand
  lse : Nat
  addr : Nat
  /-- FULL_FORMAT. -/
  fullFormat : Nat
  engine : Nat
deriving DecidableEq, Repr

/-- A sketch position being collected (R437 to R441), or an embed record. -/
structure SketchPos where
  seq : Nat
  index : Nat
  interposed : Bool
  /-- Parts in ascending order of shard. -/
  parts : List SkPart := []
  /-- Embed record: address, dims, format, pool. -/
  embed : Option (Nat × Nat × Nat × Nat) := none
deriving DecidableEq, Repr

/-- A fetch of retained logits for one draw: cause (0 for FULL mode), shards asked, and the logits that have arrived, by
shard, as binary32 bits (R456, R467). -/
structure DeepFetch where
  cause : Nat
  shards : List Nat
  data : Tbl (List Nat) := []
deriving DecidableEq, Repr

/-- A position begun for one drawing sequence: its offset in the entry and its fetch. -/
structure DrawState where
  index : Nat
  deep : Option DeepFetch := none
deriving DecidableEq, Repr

/-- The sampling of an entry for one drawing sequence: G as read (R515, R541) and the positions begun. -/
structure EntrySample where
  slot : Nat
  interposed : Bool
  g : Nat
  draws : List DrawState := []
deriving DecidableEq, Repr

/-- Draft nodes taken for a decode entry (R511). -/
structure DraftNode where
  parent : Nat
  token : Nat
deriving DecidableEq, Repr

/-- A pool's route, sketch and draft stores. -/
structure UnitPool where
  sets : List RouteSet := []
  heldParts : List HeldPart := []
  sketches : List SketchPos := []
  /-- Parts for positions without a position slot, and what their engines have stored behind them (R441). -/
  heldSketches : List HeldSketch := []
  /-- Draft lists taken, by SEQ. -/
  drafts : Tbl (List DraftNode) := []
  samples : List EntrySample := []
deriving DecidableEq, Repr

/-- The route unit's and the sampler's stores by pool. -/
structure Units where
  pools : Tbl UnitPool := []
deriving DecidableEq, Repr

/-- The observation unit's settings and progress (R804 to R811). -/
structure Obu where
  budget : Nat := 10
  digestEn : Bool := false
  opcountEn : Bool := true
  layer : Nat := 0xFFFF
  operator : Nat := 0xFFFF
  eventEn : Nat := 0x1FFFF
  /-- BUDGET applied to the present interval (R810). -/
  budgetNow : Nat := 10
  left : Nat := 480000
  nextRecno : Nat := 1
  /-- Digest records waiting for the interval's stores (R809): RECNO and the 512 bits of the record. -/
  waiting : List (Nat × Nat) := []
  /-- A write to OBS_SINK_ADDR, OBS_SINK_CFG or OBS_EXPORT_ADDR awaits the next interval (R811). -/
  restart : Bool := false
  /-- What each export word has sent so far (R806), by its index. -/
  exported : Tbl DWord := []
  /-- Count of the latest export and of the interval's start. -/
  lastExport : Nat := 0
  intervalAt : Nat := 0
deriving DecidableEq, Repr

/-- An operation that left on a fabric port (R659). -/
inductive FabOp where
  | store (engine addr : Nat) (bytes : List Byte)
  /-- A multicast store in NATIVE mode, to a fabric group (R664). -/
  | mcast (group addr : Nat) (bytes : List Byte)
  | load (engine addr len : Nat)
  /-- A compare-and-swap of the AE-3, with its ASRC and ASEQ (R685). -/
  | cas (engine asrc aseq addr compare new : Nat)
  | reduce (addr value : Nat)
  /-- Digest records stored into the sink (R805). -/
  | sink (addr : Nat) (bytes : List Byte)
  /-- A reply to an engine's atomic, by its ASRC and ASEQ. -/
  | atomicReply (asrc aseq : Nat) (status : AtomicStatus) (result : DWord)
  /-- The zeros that answer a load of the aperture (R662). -/
  | zeros (engine : Nat)
deriving DecidableEq, Repr

/-- What a load outstanding at an engine is for (R661). -/
inductive LoadWhy where
  | descriptor (ctx : Nat)
  | image (ctx : Nat)
  | park (slot : Nat)
  | handleCopy (copy : Nat)
  /-- An EPOCH word whose present value is to be learned (R691). -/
  | epochWord
  /-- A deep fetch, with the STEP that asked for it (R469). -/
  | deep (pool step seq index shard : Nat)
deriving DecidableEq, Repr

/-- A load outstanding: engine, address, length, issues made, counts of the last and first issue (R661). -/
structure LoadOut where
  engine : Nat
  addr : Nat
  len : Nat
  issues : Nat
  at_ : Nat
  /-- Count of the first issue (R461). -/
  firstAt : Nat
  why : LoadWhy
deriving DecidableEq, Repr

/-- The replay window of an atomic source (R688): H and the results of the last 1,024. -/
structure AtomWindow where
  h : Nat := 0
  results : Tbl DWord := []
deriving DecidableEq, Repr

/-- The fabric ports' state. -/
structure Fab where
  loads : Tbl LoadOut := []
  nextLoad : Nat := 0
  windows : Tbl AtomWindow := []
deriving DecidableEq, Repr

/-- Pairing states (R722). -/
inductive TwinState where
  | unpaired | attachingA | attachingS | pairedA | pairedS | isolated | taking | detached
deriving DecidableEq, Repr

/-- The code of a pairing state (R722). -/
def TwinState.code (t : TwinState) : Nat :=
  match t with
  | .unpaired => 0 | .attachingA => 1 | .attachingS => 2 | .pairedA => 3 | .pairedS => 4 | .isolated => 5
  | .taking => 6 | .detached => 7

/-- The HEARTBEAT and HELLO body (R729, R761). -/
structure Heartbeat where
  state : Nat
  ready : Bool
  empty : Bool
  takeovers : Nat
  version : Nat
  config : Nat
  srcId : Nat
  fabBase : Nat
  parkGib : Nat
  /-- POS, in HELLO only. -/
  pos : Nat := 0
deriving DecidableEq, Repr

/-- A part of the state that the SHADOW mirrors, as it stands after a decision (R732, R740). A frame carries points in
time as durations (R735). -/
inductive Decision where
  /-- An entry and its sequence's state, with the hns since admission, the remaining budget and the hns since the last
  emission. -/
  | entry (slot : Nat) (e : RqtEntry) (x : Option Seq) (since remaining sinceEmit : Nat)
  | pool (n : Nat) (p : Option Pool)
  | engine (n : Nat) (e : Option Engine)
  | seg (n : Nat) (s : Option Seg)
  | copy (n : Nat) (c : Option HandleCopy)
  /-- A handle record, with the hns until its expiry. -/
  | handle (key : Nat) (h : Option HandleRec) (left : Nat)
  | model (slot : Nat) (s : ModelSlot)
  | mask (id : Nat) (i : Option MaskImage)
  | maskPart (n : Nat) (p : MaskPart)
  | ctx (n : Nat) (c : FsCtx)
  | cfg (off : Nat) (v : Option Word)
  /-- Extents in use, extents lost, the port of the latest allocation and the extents lent out. -/
  | park (used lost : Tbl Unit) (lastPort : Nat) (guests : List Guest)
  | slots (fresh : Nat) (free retired : List Nat)
  /-- The next segment and copy numbers, and the PAGES that destroyed pools keep charged. -/
  | ids (seg copy : Nat) (ghosts ratios : Tbl Nat)
  /-- An accounting or deadline counter (R740). -/
  | counter (off : Nat) (v : DWord)
  /-- A tenant context's host-side state: keys, HI_SEQ with its MAC, depth, freeze (R740). -/
  | hostCtx (n : Nat) (h : HsCtx)
  /-- A forwarded command has been decided, with its reply (R732). -/
  | decided (ctx : Nat) (cseq : Word) (port : Nat) (r : Reply)
  /-- The highest CSEQ whose reply has been released (R732). -/
  | released (ctx : Nat) (cseq : Word)
  /-- The outcome of an image load: its status and cause (R743). -/
  | imageOutcome (ctx : Nat) (cseq : Word) (status result : Nat)
  | fault (cls cause obj : Nat)
  /-- An extent marked lost on either twin (R742). -/
  | lost (extent : Nat)
  /-- A forwarded packet that a freeze or a reset has discarded without a reply (R131, R629, R732). -/
  | dropped (ctx : Nat) (cseq : Word)
  /-- GATE_CFG KEY_GRACE (R144, R732). -/
  | keyGrace (hns : Nat)
  /-- The settings of TRACE_SET and COUNTER_MODE: BUDGET, DIGEST_EN, OPCOUNT_EN, LAYER, OPERATOR, EVENT_EN, AE2_FREEZE
  (R732, R790, R810). -/
  | traceSet (budget : Nat) (digest opcount : Bool) (layer operator eventEn : Nat) (ae2 : Bool)
  /-- The twin mirror mode of the pair (R741). -/
  | mirror (mode : Nat)
deriving DecidableEq, Repr

/-- A QUOTA message (R767, R768). -/
inductive QuotaMsg where
  /-- A member's usage and slice of one quota of a context. -/
  | report (ctx : Nat) (park : Bool) (usage slice : Nat)
  /-- The coordinator's target for a member. -/
  | target (ctx : Nat) (park : Bool) (target : Nat)
  /-- A member's released amount. -/
  | released (ctx : Nat) (park : Bool) (amount : Nat)
  /-- A grant to a member. -/
  | grant (ctx : Nat) (park : Bool) (amount : Nat)
deriving DecidableEq, Repr

/-- A peer message (R761, R763). -/
inductive PeerMsg where
  /-- A forwarded SUBMIT with its number, host port and remaining budget (R771). -/
  | forward (num port : Nat) (p : Packet) (budget : Nat)
  | answer (num : Nat) (r : Reply)
  /-- A ring record of a sequence forwarded as `num` (R775), and its acknowledgement. -/
  | relay (num : Nat) (r : RingRec)
  | relayTaken (num count : Nat)
  | quota (m : QuotaMsg)
  /-- The extents of a migrated park copy (R777), and the destination's answer. -/
  | migData (ctx seq : Nat) (extents : Nat) (bytes : List Byte)
  | migTaken (seq : Nat) (ok : Bool)
  /-- Extents of a sequence returned to the destination; a restore's read of them, and the bytes (R778). -/
  | migReturn (seq : Nat)
  | migRead (seq : Nat)
  | migBytes (seq : Nat) (bytes : List Byte)
deriving DecidableEq, Repr

/-- The body of a frame on the pairing link or a peer link (R727, R730, R761). -/
inductive FrameBody where
  | heartbeat (h : Heartbeat)
  | command (port opcode : Nat) (p : Packet)
  | decision (d : Decision)
  | bulk (d : Decision)
  /-- Bytes of a park copy or, with `handle`, of a prefix handle's copy, from byte `off` on (R742). -/
  | parkData (n : Nat) (off : Nat) (bytes : List Byte) (handle : Bool)
  | hello (h : Heartbeat)
  /-- A peer message on its way from position `src` to position `dest` (R763). -/
  | peer (src dest : Nat) (m : PeerMsg)
  /-- A horn marker with the cut number and HOLD (R820). -/
  | marker (cut : Nat) (hold : Bool)
deriving DecidableEq, Repr

/-- A frame sent (R727): FCRC is that of the frame's own bytes. The bodies besides those of HEARTBEAT and HELLO are exchanged
by twins of one version alone (R730), so that the lengths and the FCRC of their frames are no part of the model (log entry
139). -/
structure Frame where
  fseq : Nat
  ackseq : Nat
  /-- FKIND. -/
  kind : Option Nat := none
  body : FrameBody
  /-- LCL_ELAPSED_FS when a frame that is kept was made, from which the durations in it run (R83); 0 in one that leaves. -/
  since : Nat := 0
  /-- It has left once at least; an ISOLATED ACTIVE only keeps what it makes (R749). -/
  sent : Bool := true
deriving DecidableEq, Repr

/-- What a link knows of a frame that arrives, besides its body: the link (0 pairing, 1 to 3 peer), FSEQ, ACKSEQ, and
whether its FCRC verifies. -/
structure FrameIn where
  link : Nat
  fseq : Nat
  ackseq : Nat
  crcOk : Bool
deriving DecidableEq, Repr

/-- The state of one frame link (R728, R761). -/
structure Link where
  nextSeq : Nat := 1
  /-- Highest FSEQ taken in order. -/
  taken : Nat := 0
  /-- ACKSEQ stays below this frame, whose image is still being fetched (R743). -/
  ackCap : Option Nat := none
  /-- Highest FSEQ of ours that the other side has acknowledged, and when it last advanced. -/
  acked : Nat := 0
  ackAt : Nat := 0
  unacked : List Frame := []
  /-- Count of the last valid frame; none before the first. -/
  lastValid : Option Nat := none
  up : Bool := false
  miswired : Bool := false
  /-- Count since which the link has been down, while it is. -/
  downAt : Nat := 0
  lastHello : Option Heartbeat := none
  lastSent : Option Nat := none
deriving DecidableEq, Repr

/-- A store that R733 holds until the twin has acknowledged frame `need`: the engines with their addresses. -/
structure HeldStore where
  need : Nat
  targets : List (Nat × Nat)
  bytes : List Byte
  why : StoreWhy
deriving DecidableEq, Repr

/-- The pairing unit (R722 to R758). -/
structure Twin where
  state : TwinState := .unpaired
  mirror : Nat := 0
  lost : Bool := false
  takeovers : Nat := 0
  link : Link := {}
  heartbeat : Option (Heartbeat × Nat) := none
  /-- Forwarded commands without a deciding frame, oldest first (R756's step 2). -/
  waiting : List QItem := []
  /-- Decided replies not yet released by the ACTIVE, with their host port, as the SHADOW holds them (step 8). -/
  replies : List (Nat × Reply) := []
  /-- Stores held under R733, in order. -/
  heldStores : List HeldStore := []
  /-- Records of forwarded sequences that await the twin: the FSEQ that it must have acknowledged, the member, the forward
  number (R550, R733). -/
  heldRelays : List (Nat × Nat × Nat × RingRec) := []
  /-- Forwarded image loads that a SHADOW still has to fetch, with their FSEQ (R743). -/
  images : List (QItem × Nat) := []
  /-- Outcomes of image loads at a SHADOW that await the other twin's: context, CSEQ, status, cause, and whether the
  outcome is this instance's own (R743). -/
  outcomes : List (Nat × Word × Nat × Nat × Bool) := []
  /-- CSEQs forwarded for each context, newest first, and not yet answered (R731, R732): no more of them wait than the
  submission queue and the packet being acted on hold. -/
  forwarded : Tbl (List Word) := []
  /-- The last 64 CSEQ and MAC pairs forwarded for each context (R756). -/
  recent : Tbl (List (Word × DWord)) := []
  /-- Highest CSEQ whose reply has been released, by context (R732). -/
  released : Tbl Word := []
  /-- End of TAKEOVER_GRACE: the count when the takeover ended (R756). -/
  graceAt : Option Nat := none
  /-- Takeover: engines whose fence is outstanding, and pools fenced. -/
  fencing : List Nat := []
  fenced : Nat := 0
  /-- Last FSEQ of the BULK and PARK_DATA of an attach (R744). -/
  bulkEnd : Nat := 0
deriving DecidableEq, Repr

/-- A FORWARD outstanding at the receiving member (R771, R773): its packet after clamps, the remaining budget at
`firstAt`, and the count of its latest sending. -/
structure Forward where
  dest : Nat
  num : Nat
  port : Nat
  pkt : Packet
  budget : Nat
  at_ : Nat
  firstAt : Nat
deriving DecidableEq, Repr

/-- A peer message that waits for a path, with the count since which it does (R763). -/
structure NoPath where
  src : Nat
  dest : Nat
  msg : PeerMsg
  at_ : Nat
deriving DecidableEq, Repr

/-- A migration that has not finished: the slot at the source, and the destination (R777 to R779). -/
structure Migration where
  slot : Nat
  dest : Nat
deriving DecidableEq, Repr

/-- A member's report of one quota of a context (R767). -/
structure QuotaReport where
  member : Nat
  ctx : Nat
  park : Bool
  usage : Nat
  slice : Nat
deriving DecidableEq, Repr

/-- The peer unit (R759 to R781). -/
structure Peer where
  links : Tbl Link := []
  /-- Next forward number by home, and forwards outstanding. -/
  nextForward : Tbl Nat := []
  forwards : List Forward := []
  /-- By sender: the highest forward number taken and the answers kept (R773). -/
  answers : Tbl (Nat × Tbl Reply) := []
  /-- Relayed records not yet acknowledged, with the member and the forward number (R775). -/
  relays : List (Nat × Nat × RingRec) := []
  /-- Forwarded SUBMITs of this member that were answered: home, forward number, host port and context (R775). -/
  relayPort : List (Nat × Nat × Nat × Nat) := []
  /-- Reports of the present interval at the coordinator (R767). -/
  reports : List QuotaReport := []
  /-- The last report of each quota of each member (R766). -/
  lastReports : List QuotaReport := []
  /-- What members lack to their targets, in ascending position order: `usage` is not used (R768). -/
  wants : List QuotaReport := []
  migrations : List Migration := []
  lastRebal : Nat := 0
  /-- Messages that have found no path, oldest first (R763). -/
  noPath : List NoPath := []
  /-- This member was the coordinator when the last command ended (R766). -/
  led : Bool := false
deriving DecidableEq, Repr

/-- The horn (R818, R819, R825). -/
structure Horn where
  held : Bool := false
  recording : Bool := false
  /-- The number of the latest cut. -/
  cut : Nat := 0
  /-- LCL_ELAPSED_FS when it started. -/
  start : Nat := 0
deriving DecidableEq, Repr

/-- FAULT_LAST (R872). -/
structure FaultLast where
  cls : Nat := 0
  unit : Nat := 0
  cause : Nat := 0
  obj : Nat := 0
  time : Nat := 0
deriving DecidableEq, Repr

end Sys2Proof.Machine
end

