-- ==== Sys2Proof/Machine/Whole.lean ====
section
/-! DEFINITION. The two sides put together, with the clocks, the observation unit's stores and the record of outputs. -/

namespace Sys2Proof.Machine

/-- What the carrier die and the straps fix (R3, R7, R759). -/
structure Identity where
  /-- AE-3 M; otherwise AE-3 L. -/
  isM : Bool := false
  /-- GRP_POS and PAIR_SIDE as read at the release of RST_FS_N. -/
  grpPos : Nat := 0
  pairSide : Nat := 0
deriving DecidableEq, Repr

/-- Memory ports of the configuration (R4). -/
def Identity.memPorts (i : Identity) : Nat := if i.isM then 12 else 24
/-- Fabric ports of the configuration (R4). -/
def Identity.fabPorts (i : Identity) : Nat := if i.isM then 8 else 16
/-- Host ports of the configuration (R4). -/
def Identity.hostPorts (i : Identity) : Nat := if i.isM then 2 else 4
/-- Request-table slots of the configuration (R4). -/
def Identity.slots (i : Identity) : Nat := if i.isM then 65536 else 262144

/-- The local elapsed counters and whether each side is on delay-line time (R72, R78). -/
structure Clock where
  /-- LCL_ELAPSED_HS. -/
  hs : DWord := 0
  /-- LCL_ELAPSED_FS. -/
  fs : DWord := 0
  hsDegraded : Bool := false
  fsDegraded : Bool := false
  /-- Each side's counter just before the present delay-line time, and the counts over which earlier ones ran: a timer
  that runs over estimated time waits longer (R87). -/
  hsFrom : Nat := 0
  fsFrom : Nat := 0
  hsEst : List (Nat × Nat) := []
  fsEst : List (Nat × Nat) := []
deriving DecidableEq, Repr

/-- The counts over which the fabric side has been on delay-line time since its reset. -/
def Clock.fsTimes (k : Clock) : List (Nat × Nat) := if k.fsDegraded then (k.fsFrom, k.fs.toNat) :: k.fsEst else k.fsEst
/-- The counts over which the host side has been on delay-line time since its reset. -/
def Clock.hsTimes (k : Clock) : List (Nat × Nat) := if k.hsDegraded then (k.hsFrom, k.hs.toNat) :: k.hsEst else k.hsEst

/-- The counts from `a` to `b` that were estimated. -/
def estimated (l : List (Nat × Nat)) (a b : Nat) : Nat := sumOf (l.map fun x => Nat.min x.2 b - Nat.max x.1 a)

/-- An event record of R813. -/
structure EventRec where
  time : DWord
  code : Nat
  ring : Nat
  afterCut : Bool
  evno : Nat
  arg0 : Nat
  arg1 : Nat
deriving DecidableEq, Repr

/-- A unit record of the cut window (R826). -/
structure CutUnit where
  unit : Nat
  run : Nat := 0
  waitCh : Nat := 0
  inflight : Nat := 0
  at_ : Nat := 0
  lastProgress : Nat := 0
  evno : Nat := 0
deriving DecidableEq, Repr

/-- A channel record of the cut window (R826). -/
structure CutChan where
  ch : Nat
  ord : Nat
  len : Nat
  head : List Byte
deriving DecidableEq, Repr

/-- The cut window (R826). -/
structure Cut where
  cut : Nat := 0
  held : Bool := false
  done : Bool := false
  overflow : Bool := false
  origin : Nat := 0
  start : Nat := 0
  doneAt : Nat := 0
  chDropped : Nat := 0
  units : List CutUnit := []
  chans : List CutChan := []
  /-- The counter image, by the counter's configuration offset (R889). -/
  image : Tbl DWord := []
deriving DecidableEq, Repr

/-- The observation unit's counters, event rings and cut, and AE2_FREEZE (R782 to R794, R812, R826). -/
structure Obs where
  /-- Counters by configuration offset; an absent one is 0. -/
  ctr : Tbl DWord := []
  /-- Counters whose SAT flag is set. -/
  sat : Tbl Unit := []
  /-- EVT_HEAD of each ring: its newest EVNO. -/
  head : Tbl Nat := []
  /-- Event records: ring times 256 plus slot. -/
  recs : Tbl EventRec := []
  /-- EVENT_EN as set by TRACE_SET. -/
  eventEn : BitVec 17 := 0x1FFFF
  /-- COUNTER_MODE: true for AE2_FREEZE. -/
  ae2 : Bool := false
  /-- Counters stopped since the given fabric-side count (R791). -/
  frozenAt : Option Nat := none
  /-- Epochs and bases by context; bases by context times 0x200 plus index (R787). -/
  epochs : Tbl Nat := []
  bases : Tbl DWord := []
  cut : Cut := {}
deriving DecidableEq, Repr

/-- A message that left on a host port (R710), in the record of outputs. -/
structure HostOut where
  port : Nat
  /-- The slot of its beat: 1 for a message that fills the beat of the one before it on the port (R711). -/
  slot : Nat := 0
  ctx : Nat
  msg : StreamMsg
deriving DecidableEq, Repr

/-- What left the block, oldest first. -/
structure Out where
  host : List HostOut := []
  fabric : List FabOp := []
  /-- Frames sent, with the link: 0 the pairing link, 1 to 3 the peer links. -/
  frames : List (Nat × Frame) := []
deriving DecidableEq, Repr

/-- The fabric side (R31). -/
structure FabricSide where
  boot : Boot := {}
  speed : Speed := {}
  /-- RW words of configuration space that differ from their defaults, by offset (R880). -/
  cfg : Tbl Word := []
  /-- Staging words of 64-bit RW fields, by the offset of the low word (R876). -/
  staging : Tbl Word := []
  rqt : Tbl RqtEntry := []
  seqs : Tbl Seq := []
  /-- FREE slots: those from here up have never been issued; then the returned ones in order (R230). -/
  freshSlot : Nat := 0
  freeSlots : List Nat := []
  /-- Retired slots (R865). -/
  retired : List Nat := []
  ctxs : Tbl FsCtx := []
  pools : Tbl Pool := []
  engines : Tbl Engine := []
  segs : Tbl Seg := []
  nextSeg : Nat := 0
  copies : Tbl HandleCopy := []
  nextCopy : Nat := 0
  /-- Handle records by prefix handle (R309). -/
  handles : Tbl HandleRec := []
  models : Tbl ModelSlot := []
  /-- Settings written and not yet in force, oldest first (R44). -/
  latches : List Latch := []
  /-- Destroyed pools whose PAGES stay charged until every residency on them is gone, by the numbers from 64 up under
  which those residencies now stand (R274). -/
  ghosts : Tbl Nat := []
  /-- EGV_RATIO by pool number, where it is not 0x1000 from reset on (R645, R655). -/
  ratios : Tbl Nat := []
  masks : MaskStore := {}
  park : Park := {}
  memPorts : Tbl MemPort := []
  units : Units := {}
  obu : Obu := {}
  fab : Fab := {}
  twin : Twin := {}
  peer : Peer := {}
  horn : Horn := {}
  fault : FaultLast := {}
  /-- Messages kept for the host side while it is held in reset (R718). -/
  kept : List StreamItem := []
deriving DecidableEq, Repr

/-- Both sides. -/
structure Machine where
  hs : HostSide := {}
  fs : FabricSide := {}
deriving DecidableEq, Repr

/-- An effect of a command on the observation unit's stores or on the outside. -/
inductive Fx where
  /-- Add `n` to the counter at a configuration offset (R783). -/
  | count (off n : Nat)
  /-- Log an event in a ring; `always` events ignore EVENT_EN (R816). -/
  | event (ring code : Nat) (always : Bool) (a0 a1 : Nat)
  /-- Clear a counter, as a clearing of R782 does. -/
  | clear (off : Nat)
  /-- A SHADOW takes a mirrored counter's value (R740). -/
  | setCtr (off : Nat) (v : DWord)
  /-- The counter failed (R865): it reads 2^64 - 1 with SAT. -/
  | spoilCtr (off : Nat)
  /-- The counter's SAT flag is set, with the event of R793 where it was not (R798). -/
  | markSat (off : Nat)
  /-- The event record failed (R865): rewritten as zero. -/
  | spoilEvent (ring slot : Nat)
  /-- The command-start reset of a context under AE2_FREEZE (R787). -/
  | latch (ctx : Nat)
  /-- COUNTER_MODE (R790, R792). -/
  | mode (ae2 : Bool)
  | eventEn (en : Nat)
  /-- A horn records every unit: cut number, held, origin (R818, R826). -/
  | cut (n : Nat) (held : Bool) (origin : Nat)
  /-- The cut is done, with the messages that were in flight on each channel (R818, R826). -/
  | cutDone (chans : List CutChan)
  /-- The hold ends (R825). -/
  | cutRelease
  | host (port slot ctx : Nat) (msg : StreamMsg)
  | fabric (op : FabOp)
  | frame (link : Nat) (f : Frame)
  /-- The fault state of a side failed: the side is reset as by its reset input (R871). -/
  | resetSide (fabric : Bool)
deriving DecidableEq, Repr

/-- A command in progress: what it may read of the clocks and the observation unit, the machine that it changes, and
its effects so far, newest first. -/
structure Work where
  idn : Identity
  clk : Clock
  obs : Obs
  m : Machine
  fx : List Fx := []
deriving DecidableEq, Repr

end Sys2Proof.Machine
end

