-- ==== Sys2Proof/Syntax.lean ====
section
/-! DEFINITION. The commands: one constructor for each row of the opcode table, with what it carries. Packets carry the
host port that they arrive on. -/

namespace Sys2Proof

open Machine

/-- A command to the AE-3, or an event at it. -/
inductive Instr where
  /-- A SUBMIT packet, with the SECDED reports that its reads meet (R154, R863). -/
  | submit (port : Nat) (p : Packet) (ecc : List EccEvent)
  /-- A APPEND packet. -/
  | append (port : Nat) (p : Packet)
  /-- A CANCEL packet. -/
  | cancel (port : Nat) (p : Packet)
  /-- A PAUSE packet. -/
  | pause (port : Nat) (p : Packet)
  /-- A RESUME packet. -/
  | resume (port : Nat) (p : Packet)
  /-- A CREDIT packet. -/
  | credit (port : Nat) (p : Packet)
  /-- A PREFIX_PUT packet. -/
  | prefixPut (port : Nat) (p : Packet)
  /-- A PREFIX_DROP packet. -/
  | prefixDrop (port : Nat) (p : Packet)
  /-- A QUERY packet. -/
  | query (port : Nat) (p : Packet)
  /-- A STATS_READ packet. -/
  | statsRead (port : Nat) (p : Packet)
  /-- A PING packet. -/
  | ping (port : Nat) (p : Packet)
  /-- A CFG_READ packet. -/
  | cfgRead (port : Nat) (p : Packet)
  /-- A CFG_WRITE packet. -/
  | cfgWrite (port : Nat) (p : Packet)
  /-- A MODEL_LOAD packet. -/
  | modelLoad (port : Nat) (p : Packet)
  /-- A VARIANT_SET packet with ENABLE 1. -/
  | variantSet (port : Nat) (p : Packet)
  /-- A VARIANT_SET packet with ENABLE 0. -/
  | variantWithdraw (port : Nat) (p : Packet)
  /-- A POOL_ATTACH packet. -/
  | poolAttach (port : Nat) (p : Packet)
  /-- A POOL_DETACH packet. -/
  | poolDetach (port : Nat) (p : Packet)
  /-- A ENGINE_FREEZE packet. -/
  | engineFreeze (port : Nat) (p : Packet)
  /-- A ENGINE_THAW packet. -/
  | engineThaw (port : Nat) (p : Packet)
  /-- A TENANT_SET packet. -/
  | tenantSet (port : Nat) (p : Packet)
  /-- A TENANT_THAW packet. -/
  | tenantThaw (port : Nat) (p : Packet)
  /-- A TENANT_RESET packet. -/
  | tenantReset (port : Nat) (p : Packet)
  /-- A STENCIL_LOAD packet. -/
  | stencilLoad (port : Nat) (p : Packet)
  /-- A STENCIL_DROP packet. -/
  | stencilDrop (port : Nat) (p : Packet)
  /-- A SHARED_HANDLE_GRANT packet of mode 0, or of the undefined mode 3. -/
  | sharedHandleCreate (port : Nat) (p : Packet)
  /-- A SHARED_HANDLE_GRANT packet of mode 1. -/
  | sharedHandleSetGrants (port : Nat) (p : Packet)
  /-- A SHARED_HANDLE_GRANT packet of mode 2. -/
  | sharedHandleDrop (port : Nat) (p : Packet)
  /-- A ENVELOPE_SET packet. -/
  | envelopeSet (port : Nat) (p : Packet)
  /-- A HORN packet. -/
  | horn (port : Nat) (p : Packet)
  /-- A HORN_RELEASE packet. -/
  | hornRelease (port : Nat) (p : Packet)
  /-- A COUNTER_MODE packet. -/
  | counterMode (port : Nat) (p : Packet)
  /-- A TRACE_SET packet. -/
  | traceSet (port : Nat) (p : Packet)
  /-- A TWIN_ATTACH packet. -/
  | twinAttach (port : Nat) (p : Packet)
  /-- A TWIN_DETACH packet. -/
  | twinDetach (port : Nat) (p : Packet)
  /-- A TAKEOVER packet. -/
  | takeover (port : Nat) (p : Packet)
  /-- A packet with a reserved or unassigned opcode (R146). -/
  | reservedOpcode (port opcode : Nat) (p : Packet)
  /-- Beats that frame no packet; `first` tells whether one of them carries HP_RX_FIRST (R93, R709). -/
  | framingDrop (port : Nat) (first : Bool) (beats : Nat)
  /-- The packet open on a port is incomplete after 10 µs; `beats` of it have arrived (R94). -/
  | partialPacketTimeout (port beats : Nat)
  /-- KEY_GRACE of a context ends (R101). -/
  | keyGraceExpiry (ctx : Nat)
  /-- A write of START (R842). -/
  | bootStart
  /-- A write of DRAIN (R844). -/
  | bootDrain
  /-- A write of SHUT (R846). -/
  | bootShut
  /-- A write of LOAD (R840). -/
  | svcKeyLoad
  /-- A write of 1 to STEWARD_THAW (R138). -/
  | stewardThaw
  /-- A write to PEER_MIGRATE: sequence handle and member (R777). -/
  | peerMigrateWrite (seq dest : Nat)
  /-- A capture of SVC_DATA, after a write of SVC_ADDR where one is given (R892). -/
  | svcDataCapture (addr : Option Word)
  /-- An update of SVC_DATA, after a write of SVC_ADDR where one is given (R892). -/
  | svcDataUpdate (addr : Option Word) (data : Word)
  /-- A message at the receiving half of the message gate (R716). -/
  | gateCrossing (g : GateMsg)
  /-- The next message of a context is a reply or notice, and its port takes it (R122, R733). -/
  | replyRelease (ctx : Nat)
  /-- The next message of a context is a ring record, and its port takes it (R547, R550). -/
  | ringRecordSend (ctx : Nat)
  /-- Composition of the next plan of a pool, with the SECDED reports that its reads meet (R368). -/
  | composePlan (pool : Nat) (ecc : List EccEvent)
  /-- Trimming of a pool (R291). -/
  | trim (pool : Nat)
  /-- Delivery of the composed plan of a pool (R37). -/
  | planDeliver (pool : Nat)
  /-- The header store is acknowledged at an engine (R341). -/
  | planHeaderAcked (pool engine : Nat)
  /-- Composition of an interposed plan (R372). -/
  | interposeCompose (pool : Nat)
  /-- A mailbox store is acknowledged at an engine (R376). -/
  | mailboxAcked (pool engine : Nat)
  /-- The YIELD timer of a pool fires (R377). -/
  | yieldTimeout (pool : Nat)
  /-- A DONE record that engine `src` stores at an address (R675). -/
  | completionDone (src addr : Nat) (r : Completion)
  /-- A YIELDED record that engine `src` stores at an address (R675). -/
  | completionYielded (src addr : Nat) (r : Completion)
  /-- A ABORT record that engine `src` stores at an address (R675). -/
  | completionAbort (src addr : Nat) (r : Completion)
  /-- An engine's completion timer fires (R679). -/
  | completionTimeout (engine : Nat)
  /-- Commit of the executing step of a pool (R36). -/
  | stepCommit (pool : Nat)
  /-- Tear-down of a failed step of a pool (R369). -/
  | stepFail (pool : Nat)
  /-- A router-candidate part (R397). -/
  | routerPart (src addr : Nat) (r : RouterPart)
  /-- The return header store of a pool's set, by its place in the order of arrival, is acknowledged at an engine (R417). -/
  | routeReturnAcked (pool set engine : Nat)
  /-- A sketch part or embed record, with the SECDED reports that the reads meet (R432). -/
  | sketchPart (src addr : Nat) (r : SketchPart) (ecc : List EccEvent)
  /-- A draft list, with the bytes of its record as they lie in the ring (R507, R511). -/
  | draftList (src addr : Nat) (bytes : List Byte)
  /-- The retained logits of a shard arrive (R457). -/
  | deepFetchData (seq index shard : Nat) (bs : List Byte)
  /-- The append group of a sequence (R263). -/
  | appendGroup (seq : Nat)
  /-- An energy report, with the 32 bytes of its record (R639, R640). -/
  | energyReport (src addr : Nat) (bytes : List Byte)
  /-- ENERGY_WAIT of the oldest unclosed step of a pool ends (R641). -/
  | energyWaitExpiry (pool : Nat)
  /-- A keep-list (R602). -/
  | keepList (src addr : Nat) (r : KeepList)
  /-- The keep-list of the sequence in a slot is missing (R603). -/
  | keepListTimeout (slot : Nat)
  /-- A reduction of `width` bytes (R683). -/
  | reduction (src addr width value : Nat)
  /-- A remote atomic with its ASEQ (R688). -/
  | atomicRequest (src aseq addr : Nat) (op : AtomicOp)
  /-- A load of the aperture (R662). -/
  | apertureLoad (src : Nat)
  /-- An inbound request is incomplete after 10 µs (R663). -/
  | fabricPartialTimeout
  /-- A store to an engine goes unacknowledged for ACK_TIMEOUT (R660). -/
  | storeAckTimeout (engine : Nat)
  /-- An outstanding load, by its number, goes unanswered for ACK_TIMEOUT (R661). -/
  | loadRetry (load : Nat)
  /-- An engine's answer to an atomic of the AE-3 (R691). -/
  | atomicReply (engine aseq : Nat) (status : AtomicStatus) (value : Nat)
  /-- The answer to an atomic of the AE-3 is missing (R691). -/
  | atomicRetry (engine : Nat)
  /-- The descriptor of the POOL_ATTACH being acted on has been fetched (R204). -/
  | descriptorFetchDone (f : Fetch)
  /-- The image of the load being acted on has been fetched, with the model image that its bytes decode to (R196). -/
  | imageFetchDone (f : Fetch) (img : Option ImageIn)
  /-- The pages of a park copy have been read and its last extent is written (R298). -/
  | parkCopyDone (slot : Nat) (pages : List Byte)
  /-- A copy that waits for extents is tried again (R617). -/
  | parkCopyRetry (slot : Nat)
  /-- The last restore store is acknowledged (R598). -/
  | restoreDone (slot : Nat)
  /-- The last extent of a placement of a prefix handle is acknowledged (R313). -/
  | placementDone (pool handle : Nat)
  /-- The pages of a new prefix handle have been read and its park-tier copy is written (R312). -/
  | handleCopyDone (handle : Nat) (pages : List Byte)
  /-- A block returns on a memory port with its CRC word (R706). -/
  | memReadReturn (port addr : Nat) (data : List Byte) (crc : Word)
  /-- A memory port retrains (R700). -/
  | memRetrain (port : Nat) (ok : Bool) (rate : Nat)
  /-- A memory port refreshes and reads its refresh-rate status (R701). -/
  | memRefresh (port rate : Nat)
  /-- A PHY-initiated update or PHY master request (R694). -/
  | dfiPhyRequest (port : Nat)
  /-- A deadline timer fires (R574). -/
  | deadlineExpiry (slot : Nat)
  /-- A stall timer fires (R545). -/
  | stallExpiry (slot : Nat)
  /-- A park TTL elapses (R259). -/
  | parkTtlExpiry (slot : Nat)
  /-- A prefix handle expires (R317). -/
  | handleExpiry (handle : Nat)
  /-- A pending partition request meets an empty partition (R497). -/
  | maskPartitionApply (part : Nat)
  /-- The 16 replica-path readings (R52). -/
  | speedRecompute (readings : List Nat)
  /-- 100 µs without an underrun (R55). -/
  | underrunHoldClear
  /-- The 12 junction sensors (R902). -/
  | thermUpdate (codes : List Nat)
  /-- A side loses TREF, or finds it off frequency; `estimate` edges are estimated since the last valid edge (R78, R79). -/
  | delayLineEnter (fabric freq : Bool) (estimate : Nat)
  /-- A side has seen 10 µs of valid TREF edges (R81). -/
  | delayLineLeave (fabric : Bool)
  /-- The heartbeat interval (R729). -/
  | heartbeatSend
  /-- A HEARTBEAT on the pairing link with its FCRC (R750). -/
  | heartbeatRx (ackseq : Nat) (fcrc : Word) (h : Heartbeat)
  /-- A COMMAND frame (R731). -/
  | twinCommandFrame (f : FrameIn) (port opcode : Nat) (p : Packet)
  /-- A DECISION frame (R734). -/
  | twinDecisionFrame (f : FrameIn) (d : Decision)
  /-- A BULK frame (R744). -/
  | twinBulkFrame (f : FrameIn) (d : Decision)
  /-- A PARK_DATA frame (R742). -/
  | twinParkDataFrame (f : FrameIn) (n off : Nat) (bytes : List Byte) (handle : Bool)
  /-- The last BULK or PARK_DATA frame is acknowledged (R744). -/
  | twinAttachDone
  /-- 20 µs without progress of ACKSEQ on a link (R728). -/
  | frameResend (link : Nat)
  /-- HB_LOSS without a valid frame at an ACTIVE (R749). -/
  | twinLossActive
  /-- 2 × HB_LOSS without a valid frame at a SHADOW (R751). -/
  | twinLossShadow
  /-- Every pool is fenced (R752). -/
  | takeoverDone
  /-- TAKEOVER_GRACE ends (R756). -/
  | takeoverGraceExpiry
  /-- The HELLO interval (R761). -/
  | helloSend
  /-- A HELLO on a peer link, 1 to 3, with its FCRC (R762). -/
  | helloRx (link ackseq : Nat) (fcrc : Word) (h : Heartbeat)
  /-- PEER_LOSS without a valid frame on a peer link (R762). -/
  | peerLinkLoss (link : Nat)
  /-- A FORWARD (R771). -/
  | peerForward (f : FrameIn) (src dest num port : Nat) (p : Packet) (budget : Nat)
  /-- An ANSWER (R774). -/
  | peerAnswer (f : FrameIn) (src dest num : Nat) (r : Reply)
  /-- A FORWARD goes unanswered for 50 µs (R773). -/
  | forwardRetry (dest num : Nat)
  /-- A FORWARD goes unanswered for 2 × PEER_LOSS (R776). -/
  | forwardLost (dest num : Nat)
  /-- A forwarding member is undeliverable (R776). -/
  | forwardPathLost (pos : Nat)
  /-- A RELAY of a ring record, or the acknowledgement of one (R775). -/
  | peerRelay (f : FrameIn) (src dest num : Nat) (r : Option RingRec)
  /-- The rebalancing interval (R767). -/
  | quotaRebalance
  /-- A QUOTA message (R768). -/
  | quotaMessage (f : FrameIn) (src dest : Nat) (m : QuotaMsg)
  /-- A message of a migration: data, an answer to data, or the bytes that a restore reads (R777 to R779). -/
  | migDataFrame (f : FrameIn) (src dest : Nat) (m : PeerMsg)
  /-- A migration's destination is undeliverable (R780). -/
  | migrationDestLost (pos : Nat)
  /-- A rising edge on HORN_TRIG (R819). -/
  | hornTrig
  /-- A horn marker on a link (R820). -/
  | hornLinkMarker (f : FrameIn) (cut : Nat) (hold : Bool)
  /-- Every marker has arrived; the messages that the channels held (R818, R826). -/
  | hornCutDone (chans : List CutChan)
  /-- The export interval (R806). -/
  | counterExport
  /-- The observation interval (R808). -/
  | obsBudgetInterval
  /-- The host side's reset is taken (R839). -/
  | resetHs
  /-- The fabric side's reset is taken (R838). -/
  | resetFs
  /-- RST_HS_N is released (R835). -/
  | resetHsRelease
  /-- RST_FS_N is released, and the straps are read (R834, R759). -/
  | resetFsRelease (grpPos pairSide : Nat)
  /-- The host-side self-test ends (R835). -/
  | hsSelfTestDone (ok : Bool)
  /-- The fabric-side self-test ends, with the store that failed (R835). -/
  | selfTestDone (failStore : Option Nat)
  /-- Calibration ends with the 16 readings (R836). -/
  | calibrateDone (readings : List Nat)
  /-- Training ends: the capacity that each port reads, in GiB, or none where it failed (R699). -/
  | trainDone (results : List (Option Nat))
  /-- The fixed regions are cleared (R834). -/
  | clearDone
  /-- A TREF edge passes a side's glitch filter (R72). -/
  | trefEdge (fabric : Bool)
  /-- A body store into a record ring (R672). -/
  | ringBodyStore (src addr : Nat) (bytes : List Byte)
  /-- A keep-request store is acknowledged at an engine (R603). -/
  | keepRequestAcked (engine : Nat)
  /-- A deep-fetch load goes unanswered for the engine's COMPLETION_TIMEOUT (R461). -/
  | deepFetchTimeout (seq index shard : Nat)
  /-- A peer message for another addressee (R763). -/
  | peerMessageTransit (f : FrameIn) (src dest : Nat) (m : PeerMsg)
  /-- A restore's read of migrated extents (R778). -/
  | migratedExtentRead (f : FrameIn) (src dest seq : Nat)
  /-- The return of migrated extents (R778). -/
  | migratedExtentsReturn (f : FrameIn) (src dest seq : Nat)
deriving DecidableEq, Repr

end Sys2Proof
end

