-- ==== Sys2Proof/Config.lean ====
section
/-! DEFINITION. The free values: what the spec leaves open, as constants that nothing can evaluate. Each is named in
the assumption log. -/

namespace Sys2Proof.Config

/-- PL_HEAD: the index of a list's first chunk is the AE-3's own choice (R224), by slot and generation. -/
opaque plHead : Nat → Nat → BitVec 21

/-- PEN_STAGE: the staging index within the pool's partition is the AE-3's own choice (R224), by slot and staging. -/
opaque penStage : Nat → Nat → BitVec 14

/-- Whether the sampler's exponential gives the upper of the two neighbours of the exact value (R431), by the operand's
binary32 bits. -/
opaque expUp : BitVec 32 → Bool

/-- Whether the sampler's logarithm gives the upper of the two neighbours of the exact value (R431). -/
opaque lnUp : BitVec 32 → Bool

/-- RUN, WAIT_CH and INFLIGHT of a unit record (R826): what the unit was doing inside when it recorded, by cut and
unit. -/
opaque cutRun : Nat → Nat → BitVec 2
opaque cutWaitCh : Nat → Nat → BitVec 16
opaque cutInflight : Nat → Nat → BitVec 32

/-- LAST_PROGRESS of a unit record (R826): the count at the unit's last completed operation, by cut and unit. -/
opaque cutProgress : Nat → Nat → BitVec 64

/-- The common offset under which a position's weights are computed (R450, R463), less the highest value of the
position, in units of 1/4,096; by the highest value's binary32 bits. -/
opaque weightOffset : BitVec 32 → BitVec 16

/-- The enabled fabric port, counted from the lowest, that carries observation traffic to an address (R805, R806). -/
opaque obsPort : Nat → Nat

/-- The engine whose memory holds an address from which an image is fetched (R196, R658). -/
opaque imageHome : Nat → Nat

/-- Whether a planned start or duration that is no whole number of hns is rounded up: the spec states no rounding for
OFFSET and DUR of a segment record (R340, R364), by STEP and layer. -/
opaque segUp : Nat → Nat → Bool

/-- OFFSET and DUR of a segment record where a layer's planned time covers more than one, which the spec does not divide
(R340, R364): by STEP, layer, place in the layer's template segments and micro-batch. -/
opaque segPart : Nat → Nat → Nat → Nat → Nat × Nat

/-- A byte of a record ring that no store has written since the record which lay there was taken (R671), by engine and
offset in its block. -/
opaque ringByte : Nat → Nat → Byte

end Sys2Proof.Config
end

