-- ==== Sys2Proof/Machine/Tbl.lean ====
section
/-! DEFINITION. Operations on sparse tables: look up, write, erase, in ascending index order. -/

namespace Sys2Proof.Tbl

variable {α β : Type}

/-- The entry at index `k`, if the table lists one. -/
def get? (t : Tbl α) (k : Nat) : Option α :=
  match t with
  | [] => none
  | (i, a) :: r => if i = k then some a else get? r k

/-- The entry at index `k`, or `d` where the table lists none. -/
def getD (t : Tbl α) (k : Nat) (d : α) : α := (get? t k).getD d

/-- Whether the table lists index `k`. -/
def has (t : Tbl α) (k : Nat) : Bool := (get? t k).isSome

/-- Write `a` at index `k`, keeping the indices ascending. -/
def set (t : Tbl α) (k : Nat) (a : α) : Tbl α :=
  match t with
  | [] => [(k, a)]
  | (i, b) :: r =>
    if k < i then (k, a) :: (i, b) :: r
    else if i = k then (k, a) :: r
    else (i, b) :: set r k a

/-- Take index `k` out of the table. -/
def erase (t : Tbl α) (k : Nat) : Tbl α :=
  match t with
  | [] => []
  | (i, b) :: r => if i = k then erase r k else (i, b) :: erase r k

/-- Change the entry at `k` (taken as `d` where none is listed). -/
def modD (t : Tbl α) (k : Nat) (d : α) (f : α → α) : Tbl α := set t k (f (getD t k d))

/-- Change the entry at `k` where one is listed. -/
def mod (t : Tbl α) (k : Nat) (f : α → α) : Tbl α :=
  match get? t k with
  | some a => set t k (f a)
  | none => t

/-- Change every listed entry. -/
def mapV (t : Tbl α) (f : Nat → α → β) : Tbl β := t.map fun (i, a) => (i, f i a)

/-- The listed entries that satisfy `p`. -/
def filterV (t : Tbl α) (p : Nat → α → Bool) : Tbl α := t.filter fun (i, a) => p i a

/-- The first listed entry that satisfies `p`, with its index. -/
def find (t : Tbl α) (p : Nat → α → Bool) : Option (Nat × α) :=
  match t with
  | [] => none
  | (i, a) :: r => if p i a then some (i, a) else find r p

/-- Whether some listed entry satisfies `p`. -/
def some? (t : Tbl α) (p : Nat → α → Bool) : Bool := (find t p).isSome

/-- The indices of the listed entries that satisfy `p`. -/
def keys (t : Tbl α) (p : Nat → α → Bool) : List Nat := (filterV t p).map (·.1)

/-- The entries of two tables in one, those of the first where both list an index; `fuel` bounds their number. -/
def merge (fuel : Nat) (a b : Tbl α) : Tbl α :=
  match fuel with
  | 0 => []
  | n + 1 =>
    match a, b with
    | [], b => b
    | a, [] => a
    | (i, x) :: r, (j, y) :: t =>
      if i < j then (i, x) :: merge n r ((j, y) :: t)
      else if i = j then (i, x) :: merge n r t
      else (j, y) :: merge n ((i, x) :: r) t

/-- The indices, strictly ascending. -/
def wf (t : Tbl α) : Bool :=
  match t with
  | [] => true
  | [_] => true
  | (i, _) :: (j, b) :: r => i < j && wf ((j, b) :: r)

end Sys2Proof.Tbl
end

