-- ==== Sys2Proof/Machine/Regs.lean ====
section
/-! DEFINITION. The map of configuration space (R880 to R888): regions, counter offsets, and the RW words with their
defaults, writable bits and clamps. -/

namespace Sys2Proof.Machine

/-- A region of configuration space with the block index and the offset in the block (R880). -/
inductive Region where
  | inst (o : Nat)
  | hostInst (o : Nat)
  | hostPort (i o : Nat)
  | hostCtx (c o : Nat)
  | fabCtx (c o : Nat)
  | pool (p o : Nat)
  | model (s o : Nat)
  | kvl (i o : Nat)
  | maskPart (i o : Nat)
  | memPort (i o : Nat)
  | fabPort (i o : Nat)
  | engine (e o : Nat)
  | image (i : Nat)
  | event (ring o : Nat)
  | cut (o : Nat)
  | ctrImage (o : Nat)
  | satMap (o : Nat)
  | rqt (slot o : Nat)
  | hole
deriving DecidableEq, Repr

/-- The region of a word offset (R880); bits [1:0] are ignored (R873). An index at or beyond the configuration's count
is a hole (R874). -/
def regionOf (isM : Bool) (a : Nat) : Region :=
  let off := a / 4 * 4
  let blk (base stride n : Nat) (mk : Nat → Nat → Region) : Region :=
    if (off - base) / stride < n then mk ((off - base) / stride) ((off - base) % stride) else .hole
  if off < 0x10000 then .inst off
  else if off < 0x20000 then .hostInst (off - 0x10000)
  else if off < 0x30000 then blk 0x20000 0x100 (if isM then 2 else 4) .hostPort
  else if off < 0x40000 then blk 0x30000 0x100 256 .hostCtx
  else if off < 0x80000 then blk 0x40000 0x400 256 .fabCtx
  else if off < 0xC0000 then blk 0x80000 0x1000 64 .pool
  else if off < 0xD0000 then blk 0xC0000 0x800 32 .model
  else if off < 0xD1000 then blk 0xD0000 0x40 16 .kvl
  else if off < 0xD2000 then blk 0xD1000 0x40 16 .maskPart
  else if off < 0xD3000 then blk 0xD2000 0x80 (if isM then 12 else 24) .memPort
  else if off < 0xE0000 then blk 0xD3000 0x40 (if isM then 8 else 16) .fabPort
  else if off < 0xF0000 then blk 0xE0000 0x40 1024 .engine
  else if off < 0x100000 then blk 0xF0000 0x4 4096 (fun i _ => .image i)
  else if off < 0x124000 then blk 0x100000 0x2000 18 .event
  else if off < 0x1000000 then .hole
  else if off < 0x2000000 then .cut (off - 0x1000000)
  else if off < 0x4000000 then .ctrImage (off - 0x2000000)
  else if off < 0x10000000 then .satMap (off - 0x4000000)
  else blk 0x10000000 0x80 (if isM then 65536 else 262144) .rqt

/-- Held on the host side: the host-side regions of R880, and ring 17. -/
def Region.isHost (r : Region) : Bool :=
  match r with
  | .hostInst _ | .hostPort _ _ | .hostCtx _ _ => true
  | .event 17 _ => true
  | _ => false

/-! Offsets of counters (R883 to R888). -/

/-- Instance block counters. -/
def cPgmPlacements : Nat := 0x0310
def cStuRecords : Nat := 0x0408
def cStuDiscarded : Nat := 0x0410
def cStuNoCredit : Nat := 0x0418
def cStuStallPark : Nat := 0x0420
def cStuReplayed : Nat := 0x0428
def cParksFull : Nat := 0x0520
def cParksCondensed : Nat := 0x0528
def cRestores : Nat := 0x0530
def cReclaim : Nat := 0x0538
def cWaitSpace : Nat := 0x0540
def cModeDown : Nat := 0x0548
def cKeepTimeout : Nat := 0x0550
def cKeepBad : Nat := 0x0558
def cCdnNonfinite : Nat := 0x0560
def cFabLoadRetry : Nat := 0x0720
def cFabAtomicRetry : Nat := 0x0728
def cAtomApplied : Nat := 0x0730
def cAtomReplayed : Nat := 0x0738
def cAtomExpired : Nat := 0x0740
def cAtomRefused : Nat := 0x0748
def cApertureLoad : Nat := 0x0750
def cUnknownSrc : Nat := 0x0758
def cFabPartial : Nat := 0x0760
def cComplStale : Nat := 0x0768
def cComplDup : Nat := 0x0770
def cComplBad : Nat := 0x0778
def cTwinFramesTx : Nat := 0x0910
def cTwinResends : Nat := 0x0918
def cTwinFrameBad : Nat := 0x0920
def cTwinFenced : Nat := 0x0928
def cTwinDupReply : Nat := 0x0930
def cPeerFwdOut : Nat := 0x0A20
def cPeerFwdIn : Nat := 0x0A28
def cPeerFwdLost : Nat := 0x0A30
def cPeerRelayed : Nat := 0x0A38
def cPeerQuotaMoves : Nat := 0x0A40
def cPeerMigrated : Nat := 0x0A48
def cPeerMigAbandon : Nat := 0x0A50
def cObuRecords : Nat := 0x0B40
def cObuDropped : Nat := 0x0B48
def cObuExports : Nat := 0x0B50
def cObuFrozenHns : Nat := 0x0B58
def cObuTrigIgnored : Nat := 0x0B60
def cFault (cls : Nat) : Nat := if cls = 0 then 0x0C20 else if cls = 1 then 0x0C28 else if cls = 3 then 0x0C30 else 0x0C38
def cMkuLookups : Nat := 0x0D00
def cMkuExpansions : Nat := 0x0D08
def cMkuAdvances : Nat := 0x0D10
def cMkuDeadEnd : Nat := 0x0D18
def cMkuUnaccepted : Nat := 0x0D20
/-- Host-side counters. -/
def cGateRetry : Nat := 0x10030
def cHsFaultF2 : Nat := 0x10038
def cTwinShadowDrop : Nat := 0x10048
def cAuthFail (port : Nat) : Nat := 0x20000 + port * 0x100
def cFramingDrop (port : Nat) : Nat := cAuthFail port + 0x08
def cPartialDrop (port : Nat) : Nat := cAuthFail port + 0x10
def cRxBeats (port : Nat) : Nat := cAuthFail port + 0x18
def cTxBeats (port : Nat) : Nat := cAuthFail port + 0x20
def hctxBase (c : Nat) : Nat := 0x30000 + c * 0x100
def cClamp (c : Nat) : Nat := hctxBase c + 0x10
def cFrozenDrop (c : Nat) : Nat := hctxBase c + 0x18
def cDuplicate (c : Nat) : Nat := hctxBase c + 0x20
def cStaleKey (c : Nat) : Nat := hctxBase c + 0x28
def cViolFrozen (c : Nat) : Nat := hctxBase c + 0x30
/-- Fabric context counters. -/
def fctxBase (c : Nat) : Nat := 0x40000 + c * 0x400
def cTokenFiltered (c : Nat) : Nat := fctxBase c + 0x68
def cTtftSum (c : Nat) : Nat := fctxBase c + 0x80
def cTtftCount (c : Nat) : Nat := fctxBase c + 0x88
def cTtftLate (c : Nat) : Nat := fctxBase c + 0x90
def cTbtStrike (c : Nat) : Nat := fctxBase c + 0x98
def cDlmMiss (c : Nat) : Nat := fctxBase c + 0xA0
def cFbAdmit (c : Nat) : Nat := fctxBase c + 0xA8
def cFbReroute (c : Nat) : Nat := fctxBase c + 0xB0
/-- The accounting counter of index `0x0100 + i` of a context (R642). -/
def cAcct (c i : Nat) : Nat := fctxBase c + 0x100 + 8 * i
/-- Pool counters. -/
def poolBase (p : Nat) : Nat := 0x80000 + p * 0x1000
def cParkedGrowth (p : Nat) : Nat := poolBase p + 0x100
def cTrimmed (p : Nat) : Nat := poolBase p + 0x108
def cResReleased (p : Nat) : Nat := poolBase p + 0x110
def cHandoffPages (p : Nat) : Nat := poolBase p + 0x118
def cPlans (p : Nat) : Nat := poolBase p + 0x120
def cInterposed (p : Nat) : Nat := poolBase p + 0x128
def cYieldLost (p : Nat) : Nat := poolBase p + 0x130
def cYieldTimeout (p : Nat) : Nat := poolBase p + 0x138
def cOverrun (p : Nat) : Nat := poolBase p + 0x140
def cRouteSets (p : Nat) : Nat := poolBase p + 0x180
def cRoutings (p : Nat) : Nat := poolBase p + 0x188
def cRouteSpill (p : Nat) : Nat := poolBase p + 0x190
def cRouteShort (p : Nat) : Nat := poolBase p + 0x198
def cRouteDrop (p : Nat) : Nat := poolBase p + 0x1A0
def cRouteBadSlot (p : Nat) : Nat := poolBase p + 0x1A8
def cRouteNotAllowed (p : Nat) : Nat := poolBase p + 0x1B0
def cRouteStale (p : Nat) : Nat := poolBase p + 0x1B8
def cSampledPos (p : Nat) : Nat := poolBase p + 0x200
/-- POOL_DEEP_TAIL to POOL_DEEP_SCORE by cause 1 to 5. -/
def cDeep (p cause : Nat) : Nat := poolBase p + 0x200 + 8 * cause
def cSketchStale (p : Nat) : Nat := poolBase p + 0x230
def cSketchBadEntry (p : Nat) : Nat := poolBase p + 0x238
def cSketchDup (p : Nat) : Nat := poolBase p + 0x240
def cSketchFolded (p : Nat) : Nat := poolBase p + 0x248
def cSketchNonfinite (p : Nat) : Nat := poolBase p + 0x250
def cSketchInconsistent (p : Nat) : Nat := poolBase p + 0x258
def cPenEvict (p : Nat) : Nat := poolBase p + 0x260
def cSketchMissing (p : Nat) : Nat := poolBase p + 0x268
def cDraftLists (p : Nat) : Nat := poolBase p + 0x280
def cDraftNodes (p : Nat) : Nat := poolBase p + 0x288
def cDraftAccepted (p : Nat) : Nat := poolBase p + 0x290
def cDraftSpoiled (p : Nat) : Nat := poolBase p + 0x298
def cDraftBadNode (p : Nat) : Nat := poolBase p + 0x2A0
def cDraftStale (p : Nat) : Nat := poolBase p + 0x2A8
def cDraftDup (p : Nat) : Nat := poolBase p + 0x2B0
def cEgvPlanned (p : Nat) : Nat := poolBase p + 0x300
def cEgvReported (p : Nat) : Nat := poolBase p + 0x308
def cEgvShed (p : Nat) : Nat := poolBase p + 0x310
def cEgvOver (p : Nat) : Nat := poolBase p + 0x318
def cEgvPaced (p : Nat) : Nat := poolBase p + 0x320
def cEgvStale (p : Nat) : Nat := poolBase p + 0x328
def cUncharged (p : Nat) : Nat := poolBase p + 0x330
def cSkParts (p : Nat) : Nat := poolBase p + 0x380
def cSkKept (p : Nat) : Nat := poolBase p + 0x388
def cSkTail (p i : Nat) : Nat := poolBase p + 0x390 + 8 * i
def cPoolOps (p i : Nat) : Nat := poolBase p + 0x400 + 8 * i
def modelBase (s : Nat) : Nat := 0xC0000 + s * 0x800
def cModelOps (s i : Nat) : Nat := modelBase s + 0x400 + 8 * i
def memPortBase (i : Nat) : Nat := 0xD2000 + i * 0x80
def cMemRetry (i : Nat) : Nat := memPortBase i + 0x08
def cMemLost (i : Nat) : Nat := memPortBase i + 0x10
def cMemRetrains (i : Nat) : Nat := memPortBase i + 0x18
def cFabTx (i : Nat) : Nat := 0xD3000 + i * 0x40
def cFabRx (i : Nat) : Nat := 0xD3000 + i * 0x40 + 8
def engineBase (e : Nat) : Nat := 0xE0000 + e * 0x40
def cIgnoredWrites (e : Nat) : Nat := engineBase e + 0x18

/-- Whether an offset, 8-byte aligned, holds a counter (R880, R883 to R888). -/
def isCounter (isM : Bool) (a : Nat) : Bool :=
  let within (o lo n : Nat) : Bool := lo ≤ o && o < lo + 8 * n
  a % 8 = 0 && match regionOf isM a with
  | .inst o => o = 0x310 || within o 0x408 5 || within o 0x520 9 || within o 0x720 12 || within o 0x910 5 ||
      within o 0xA20 7 || within o 0xB40 5 || within o 0xC20 4 || within o 0xD00 5
  | .hostInst o => o = 0x30 || o = 0x38 || o = 0x48
  | .hostPort _ o => within o 0 5
  | .hostCtx _ o => within o 0x10 5
  | .fabCtx c o => o = 0x68 || within o 0x80 7 && 0 < c || within o 0x100 12
  | .pool _ o => within o 0x100 9 || within o 0x180 8 || within o 0x200 14 || within o 0x280 7 || within o 0x300 7 ||
      within o 0x380 10 || within o 0x400 128
  | .model _ o => within o 0x400 128
  | .memPort _ o => within o 0x08 3
  | .fabPort _ o => within o 0 2
  | .engine _ o => o = 0x18
  | _ => false

/-- The index of the block that a counter lies in, for COUNTER_SAT (R817). -/
def blockIndex (isM : Bool) (a : Nat) : Nat :=
  match regionOf isM a with
  | .hostPort i _ | .hostCtx i _ | .fabCtx i _ | .pool i _ | .model i _ | .memPort i _ | .fabPort i _
  | .engine i _ => i
  | _ => 0

/-! Offsets of RW words. -/

def rSpeedCtrl : Nat := 0x104
def rTimeCfg : Nat := 0x108
def rRingCfg : Nat := 0x400
def rPkcClass : Nat := 0x510
def rPkcKeep : Nat := 0x518
def rAcuCfg : Nat := 0x600
def rFabBase : Nat := 0x700
def rFabCfg : Nat := 0x708
def rFabSrc : Nat := 0x70C
def rFabTiming : Nat := 0x710
def rFabAtomic : Nat := 0x714
def rMemCfg : Nat := 0x800
def rMemRetrain : Nat := 0x804
def rTwinCfg : Nat := 0x900
def rTwinGrace : Nat := 0x904
def rGroupCfg : Nat := 0xA00
def rGroupTiming : Nat := 0xA04
def rHornCfg : Nat := 0xB10
def rSinkAddr : Nat := 0xB18
def rSinkCfg : Nat := 0xB20
def rExportAddr : Nat := 0xB28
def rExportCfg : Nat := 0xB30
def rDlmCfg (c : Nat) : Nat := fctxBase c + 0x40
def rDlmCfg2 (c : Nat) : Nat := fctxBase c + 0x44
def rPortWeight (c : Nat) : Nat := fctxBase c + 0x4C
def rGqCfg (c : Nat) : Nat := fctxBase c + 0x58
def rPageCfg (p : Nat) : Nat := poolBase p
def rStepCfg (p : Nat) : Nat := poolBase p + 0x10
def rSched (p : Nat) : Nat := poolBase p + 0x14
def rSched2 (p : Nat) : Nat := poolBase p + 0x18
def rVarAff (p : Nat) : Nat := poolBase p + 0x20
def rPoolEnv (p : Nat) : Nat := poolBase p + 0x40
def rPoolMcast (p : Nat) : Nat := poolBase p + 0x48
def rModelRoute (s : Nat) : Nat := modelBase s + 0x04
def rModelSample (s : Nat) : Nat := modelBase s + 0x0C
def rModelDraft (s : Nat) : Nat := modelBase s + 0x20
def kvlBase (i : Nat) : Nat := 0xD0000 + i * 0x40
def maskPartBase (i : Nat) : Nat := 0xD1000 + i * 0x40
def rEngEnv (e : Nat) : Nat := engineBase e + 0x10

/-- How an RW word behaves: its default, its writable bits, the clamp of a merged value, and whether it is the low or
the high word of a 64-bit field (R876, R877). -/
structure RwWord where
  dflt : Nat
  mask : Nat
  clamp : Nat → Nat := id
  /-- 0 a 32-bit field; 1 the low word, 2 the high word of a 64-bit field. -/
  half : Nat := 0
  /-- A value that the field takes as another one, which is no clamp: PROFILE and SHAPE 0b11 are taken as 0b10. -/
  taken : Nat → Nat := id

/-- A field [hi:lo] of a word clamped by `f`. -/
def clampFld (hi lo : Nat) (f : Nat → Nat) (v : Nat) : Nat := setFld v hi lo (f (fld v hi lo))

/-- SKETCH_K: a write outside 256 to 4,096 is clamped to the nearer limit (R470). -/
def clampSketchK (k : Nat) : Nat := clampTo 256 4096 k

/-- The RW words of configuration space, with the defaults and clamps of the chapters' field tables. -/
def rwWord (isM : Bool) (a : Nat) : Option RwWord :=
  match regionOf isM a with
  | .inst o =>
    if o = 0x104 then some ⟨0x2000, 0xFFFF, fun v => if v < 0x1000 then 0x1000 else v, 0, id⟩
    else if o = 0x108 then some ⟨0x186A0, 0x3FFFF, clampTo 10000 200000, 0, id⟩
    else if o = 0x400 then some ⟨200000, 0xFFFFFFFF, clampTo 10000 100000000, 0, id⟩
    else if o = 0x510 then some ⟨0x04081020, 0xFFFFFFFF,
      fun v => [(7, 0), (15, 8), (23, 16), (31, 24)].foldl (fun a f => clampFld f.1 f.2 (Nat.max 1) a) v, 1, id⟩
    else if o = 0x514 then some ⟨4, 0xFF, Nat.max 1, 2, id⟩
    else if o = 0x518 then some ⟨64, 0xFF, Nat.max 8, 0, id⟩
    else if o = 0x600 then some ⟨10000, 0xFFFFFFFF, clampTo 100 1000000, 0, id⟩
    else if o = 0x700 then some ⟨0, 0, id, 1, id⟩
    else if o = 0x704 then some ⟨0, 0xFFFFFFFF, id, 2, id⟩
    else if o = 0x708 then
      (if isM then some ⟨0x00FF, 0x100FF, id, 0, id⟩ else some ⟨0xFFFF, 0x1FFFF, id, 0, id⟩)
    else if o = 0x70C then some ⟨0, 0xFFFF, id, 0, id⟩
    else if o = 0x710 then some ⟨50 + 4 * 65536, 0xFFFFF,
      fun v => clampFld 19 16 (Nat.max 1) (clampFld 15 0 (clampTo 10 10000) v), 0, id⟩
    else if o = 0x714 then some ⟨50 + 8 * 65536, 0xFFFFF,
      fun v => clampFld 19 16 (Nat.max 1) (clampFld 15 0 (clampTo 10 10000) v), 0, id⟩
    else if o = 0x800 then some ⟨3 + 2 * 256, 0x707,
      fun v => clampFld 10 8 (Nat.max 1) (clampFld 2 0 (Nat.min 3) v), 0, id⟩
    else if o = 0x804 then some ⟨100000, 0xFFFFFFFF, clampTo 10000 10000000, 0, id⟩
    else if o = 0x900 then some ⟨400 + 65536, 0x1FFFF, clampFld 15 0 (clampTo 200 10000), 0, id⟩
    else if o = 0x904 then some ⟨10000000, 0xFFFFFFFF, clampTo 100000 100000000, 0, id⟩
    else if o = 0xA00 then some ⟨0, 0xFF01, id, 0, id⟩
    else if o = 0xA04 then some ⟨400 + 10000 * 65536, 0xFFFFFFFF,
      fun v => clampFld 31 16 (Nat.max 1000) (clampFld 15 0 (clampTo 200 10000) v), 0, id⟩
    else if o = 0xB10 then some ⟨0, 3, id, 0, id⟩
    else if o = 0xB18 then some ⟨0, 0xFFFFF000, id, 1, id⟩
    else if o = 0xB1C then some ⟨0, 0xFFFFFFFF, id, 2, id⟩
    else if o = 0xB20 then some ⟨16, 0x1F, clampTo 16 30, 0, id⟩
    else if o = 0xB28 then some ⟨0, 0xFFFFF000, id, 1, id⟩
    else if o = 0xB2C then some ⟨0, 0xFFFFFFFF, id, 2, id⟩
    else if o = 0xB30 then some ⟨100000, 0xFFFFFFFF, clampTo 1000 10000000, 0, id⟩
    else none
  | .fabCtx c o =>
    if o = 0x4C then some ⟨1, 0xFF, Nat.max 1, 0, id⟩
    else if c = 0 then none
    else if o = 0x40 then some ⟨0, 0xFFFFFFFF, Nat.min 10000000, 0, id⟩
    else if o = 0x44 then some ⟨3, 0xF, Nat.max 1, 0, id⟩
    else if o = 0x58 then some ⟨0, 0xFFFFFFFF, id, 1, id⟩
    else if o = 0x5C then some ⟨0, 0xFFFFFFFF, id, 2, id⟩
    else none
  | .pool _ o =>
    if o = 0x00 then some ⟨0, 0x3FFFFFF, id, 0, id⟩
    else if o = 0x10 then some ⟨10000, 0xFFFFFFFF, clampTo 100 1000000, 0, id⟩
    else if o = 0x14 then some ⟨1 + 4 + 4 * 256 + 2048 * 131072, 0x7FFFFF07,
      fun v => clampFld 30 17 (clampTo 256 8192) (clampFld 16 8 (clampTo 1 256) v), 0, clampFld 1 0 (Nat.min 2)⟩
    else if o = 0x18 then some ⟨256 + 4 * 65536, 0xFFFFFF,
      fun v => clampFld 23 16 (Nat.min 128) (clampFld 15 0 (clampTo 16 16384) v), 0, id⟩
    else if 0x20 ≤ o ∧ o < 0x30 then some ⟨0, 0xFF3FFF3F, id, 0, id⟩
    else if o = 0x40 then some ⟨8000, 0xFFFF, clampFld 13 0 (Nat.min 8000), 0, id⟩
    else if o = 0x48 then some ⟨0, 0xFFFF, id, 0, id⟩
    else none
  | .model _ o =>
    if o = 0x04 then some ⟨0x14000000, 0xFFFF0001, clampFld 31 16 (clampTo 0x1000 0x8000), 0, id⟩
    else if o = 0x0C then some ⟨1024 * 65536, 0x1FFF0001, clampFld 28 16 clampSketchK, 0, id⟩
    else if o = 0x20 then some ⟨16 * 4, 0x1FF, clampFld 8 2 (clampTo 1 64), 0,
      clampFld 1 0 (Nat.min 2)⟩
    else none
  | .kvl _ o =>
    if o = 0x00 then some ⟨0, 0x1FFFFF, id, 0, id⟩
    else if o = 0x08 || o = 0x18 then some ⟨0, 0xFFFFFFFF, id, 1, id⟩
    else if o = 0x0C || o = 0x1C then some ⟨0, 0xFFFFFFFF, id, 2, id⟩
    else if o = 0x10 || o = 0x14 then some ⟨0, 0xFFFFFFFF, id, 0, id⟩
    else none
  | .maskPart i o =>
    if o = 0x00 then some ⟨if i = 0 then 4096 * 4096 else 0, 0x1FFFFFF,
      fun v => setFld v 24 12 (Nat.min (fld v 24 12) (4096 - fld v 11 0)), 0, id⟩
    else if o = 0x04 then some ⟨if i = 0 then 768 else 0, 0x3FF, id, 0, id⟩
    else none
  | .engine _ o => if o = 0x10 then some ⟨8000, 0x3FFF, Nat.min 8000, 0, id⟩ else none
  | _ => none

end Sys2Proof.Machine
end

