-- ==== Sys2Proof/Machine/Ops.lean ====
section
/-! DEFINITION. The named operations that the meanings share: the parts of a command in progress, time, configuration
words, request-table entries, counters, events, faults, freezes, notices and replies. -/

namespace Sys2Proof.Machine

namespace Work

/-! Parts. -/

/-- The fabric side. -/
def fs (w : Work) : FabricSide := w.m.fs
/-- The host side. -/
def hs (w : Work) : HostSide := w.m.hs
/-- Change the fabric side. -/
def modFs (w : Work) (f : FabricSide → FabricSide) : Work := { w with m := { w.m with fs := f w.m.fs } }
/-- Change the host side. -/
def modHs (w : Work) (f : HostSide → HostSide) : Work := { w with m := { w.m with hs := f w.m.hs } }
/-- Append an effect. -/
def eff (w : Work) (e : Fx) : Work := { w with fx := e :: w.fx }
/-- Add `n` to a counter (R783). -/
def count (w : Work) (off : Nat) (n : Nat := 1) : Work := if n = 0 then w else w.eff (.count off n)
/-- Log an event (R812). -/
def event (w : Work) (ring code : Nat) (always : Bool) (a0 a1 : Nat) : Work := w.eff (.event ring code always a0 a1)
/-- Apply `f` for each element of a list, in order. -/
def each {α : Type} (w : Work) (l : List α) (f : Work → α → Work) : Work := l.foldl f w
/-- Apply `f` where `c` holds. -/
def whenDo (w : Work) (c : Bool) (f : Work → Work) : Work := if c then f w else w

/-! Time (R72 to R88). -/

/-- LCL_ELAPSED_FS. -/
def now (w : Work) : Nat := w.clk.fs.toNat
/-- LCL_ELAPSED_HS. -/
def hsNow (w : Work) : Nat := w.clk.hs.toNat

end Work

/-- The value of an RW word (R21): as last written, else its default. -/
def FabricSide.reg (f : FabricSide) (isM : Bool) (off : Nat) : Nat :=
  match f.cfg.get? off with
  | some v => v.toNat
  | none => match rwWord isM off with | some r => r.dflt | none => 0

namespace Work

/-- The value of an RW word as last written: what a read of configuration space finds (R21). -/
def raw (w : Work) (off : Nat) : Nat := w.fs.reg w.idn.isM off
/-- The value of an RW word in force: while the reply to a write of a word of R44 is unreleased, the one that it had
before the oldest such write. -/
def reg (w : Work) (off : Nat) : Nat :=
  match w.fs.latches.findSome? fun l => match l.held with | .word o v => if o = off then some v else none | _ => none with
  | some v => v
  | none => w.raw off
/-- The private-expert ranges of a variant in force (R386). -/
def rangesOf (w : Work) (m v : Nat) (r : List (Nat × Nat × Nat)) : List (Nat × Nat × Nat) :=
  (w.fs.latches.findSome? fun l => match l.held with | .ranges a b o => if a = m ∧ b = v then some o else none | _ => none).getD r
/-- DIGEST_EN, OPCOUNT_EN, LAYER and OPERATOR in force (R810). -/
def traceNow (w : Work) : Bool × Bool × Nat × Nat :=
  (w.fs.latches.findSome? fun l => match l.held with | .trace d o a b => some (d, o, a, b) | _ => none).getD
    (w.fs.obu.digestEn, w.fs.obu.opcountEn, w.fs.obu.layer, w.fs.obu.operator)
/-- A setting stays in force until the reply to packet `c` is released (R44). -/
def latch (w : Work) (c : Word) (s : Setting) : Work :=
  w.modFs fun f => { f with latches := f.latches ++ [{ cseq := c, held := s }] }
/-- The reply to packet `c` is released: what it wrote is in force (R44). -/
def unlatch (w : Work) (c : Word) : Work := w.modFs fun f => { f with latches := f.latches.filter (·.cseq ≠ c) }
/-- The value of a 64-bit RW field. -/
def reg64 (w : Work) (off : Nat) : Nat := w.reg off + w.reg (off + 4) * 2 ^ 32
/-- Set an RW word, keeping the list of words canonical. -/
def setReg (w : Work) (off v : Nat) : Work :=
  let dflt := match rwWord w.idn.isM off with | some r => r.dflt | none => 0
  w.modFs fun f => { f with cfg := if v = dflt then f.cfg.erase off else f.cfg.set off (BitVec.ofNat 32 v) }

/-- TREF_KHZ (R77). -/
def khz (w : Work) : Nat := w.reg rTimeCfg
/-- A count difference as hns, truncated (R75, R26). -/
def hnsDown (w : Work) (n : Nat) : Nat := n * 10000 / w.khz
/-- A count difference as hns, rounded up (R75). -/
def hnsUp (w : Work) (n : Nat) : Nat := ceilDiv (n * 10000) w.khz
/-- A duration as a count difference: the first at which that time has passed (R86). -/
def edges (w : Work) (t : Nat) : Nat := ceilDiv (t * w.khz) 10000
/-- Whether a timer of `t` hns that runs from count `start` has fired by count `at_`: of the counts in between, those of
the delay-line times `l` count for 0.85 each, so that a timer that runs wholly over estimated time waits for T / 0.85 and
none fires before T of true time (R86, R87). -/
def firedAt (w : Work) (l : List (Nat × Nat)) (start at_ t : Nat) : Bool :=
  t * w.khz * 100 ≤ (100 * (at_ - start) - 15 * estimated l start at_) * 10000
/-- A fabric-side timer has fired. -/
def fired (w : Work) (start t : Nat) : Bool := w.firedAt w.clk.fsTimes start w.now t
/-- A host-side timer has fired. -/
def hsFired (w : Work) (start t : Nat) : Bool := w.firedAt w.clk.hsTimes start w.hsNow t
/-- A fabric-side timer has fired before something that it guards arrives: the edge that brought the counter to the firing
value came first, so that the arrival has lost, whether the expiry's own command has come or not (R88). -/
def lapsed (w : Work) (start t : Nat) : Bool := start < w.now && w.fired start t
/-- A timer that was set at count `from_` to fire at count `target` has fired, the longer wait of R87 included. -/
def reached (w : Work) (from_ target : Nat) : Bool :=
  100 * target + 15 * estimated w.clk.fsTimes from_ w.now ≤ 100 * w.now

/-! Counters as a command sees them. -/

/-- The value of a counter at this point of the command: stored, with the command's own additions so far. -/
def ctrNow (w : Work) (off : Nat) : Nat :=
  let stored := (w.obs.ctr.getD off 0).toNat
  if w.obs.frozenAt.isSome ∧ off ≠ cObuFrozenHns then stored
  else
    let live := if off = cObuFrozenHns then
        (match w.obs.frozenAt with | some t => w.hnsDown (w.now - t) | none => 0) else 0
    Nat.min (2 ^ 64 - 1) (w.fx.foldr (fun e v =>
      match e with
      | .count o n => if o = off then v + n else v
      | .clear o => if o = off then 0 else v
      | .spoilCtr o => if o = off then 2 ^ 64 - 1 else v
      | .setCtr o n => if o = off then n.toNat else v
      | _ => v) (stored + live))

/-- The SAT flag of a counter at this point of the command (R794). -/
def satNow (w : Work) (off : Nat) : Bool :=
  w.obs.sat.has off || w.fx.any fun e => match e with | .spoilCtr o | .markSat o => o = off | _ => false

/-! Entries and sequences. -/

/-- The entry of a slot. -/
def entry (w : Work) (s : Nat) : RqtEntry := w.fs.rqt.getD s {}
/-- The state kept beside the entry of a slot. -/
def seq (w : Work) (s : Nat) : Seq := w.fs.seqs.getD s {}
/-- The entry of a slot as the plans that name its sequence see it: those composed before a re-route run as they would without
it (R571). -/
def asNamed (w : Work) (s : Nat) : RqtEntry :=
  if (w.seq s).unbind then { w.entry s with model := (w.seq s).wasModel } else w.entry s
/-- Write an entry (R227). -/
def setEntry (w : Work) (s : Nat) (e : RqtEntry) : Work := w.modFs fun f => { f with rqt := f.rqt.set s e }
/-- Write a sequence's state. -/
def setSeq (w : Work) (s : Nat) (x : Seq) : Work := w.modFs fun f => { f with seqs := f.seqs.set s x }
/-- Change an entry. -/
def modEntry (w : Work) (s : Nat) (g : RqtEntry → RqtEntry) : Work := w.setEntry s (g (w.entry s))
/-- Change a sequence's state. -/
def modSeq (w : Work) (s : Nat) (g : Seq → Seq) : Work := w.setSeq s (g (w.seq s))

end Work

/-- The sequence handle of a slot's present issue: slot [17:0], generation [31:18]. -/
def seqHandle (s : Nat) (e : RqtEntry) : Nat := s + e.gen * 2 ^ 18

/-- The slot field of a sequence handle. -/
def handleSlot (h : Nat) : Nat := h % 2 ^ 18
/-- The generation field of a sequence handle. -/
def handleGen (h : Nat) : Nat := h / 2 ^ 18 % 2 ^ 14

namespace Work

/-- The listed slots whose entries satisfy `p`, ascending. -/
def slotsWhere (w : Work) (p : Nat → RqtEntry → Bool) : List Nat := (w.fs.rqt.filterV p).map (·.1)
/-- The pool, where it exists. -/
def pool? (w : Work) (p : Nat) : Option Pool := w.fs.pools.get? p
/-- Change a pool that exists. -/
def modPool (w : Work) (p : Nat) (g : Pool → Pool) : Work := w.modFs fun f => { f with pools := f.pools.mod p g }
/-- The engine, where it is attached. -/
def engine? (w : Work) (e : Nat) : Option Engine := w.fs.engines.get? e
/-- Change an attached engine. -/
def modEngine (w : Work) (e : Nat) (g : Engine → Engine) : Work := w.modFs fun f => { f with engines := f.engines.mod e g }
/-- The attached engines of a pool, ascending, with those leaving it. -/
def poolEngines (w : Work) (p : Nat) : List (Nat × Engine) := w.fs.engines.filter fun (_, e) => e.pool = p
/-- The engines of a pool that further plans include: attached, not frozen, not leaving. -/
def liveEngines (w : Work) (p : Nat) : List (Nat × Engine) :=
  (w.poolEngines p).filter fun (_, e) => !e.frozen && !e.leaving
/-- The fabric-side state of a context. -/
def fctx (w : Work) (c : Nat) : FsCtx := w.fs.ctxs.getD c {}
/-- Change the fabric-side state of a context. -/
def modFctx (w : Work) (c : Nat) (g : FsCtx → FsCtx) : Work := w.modFs fun f => { f with ctxs := f.ctxs.modD c {} g }
/-- The slots whose count tables are staged for a pool, those of joiners included (R448, R471). -/
def stagedOn (w : Work) (p : Nat) : List Nat :=
  (w.fs.seqs.filter fun (s, x) => x.staged.isSome &&
    if (w.entry s).fl.bound then (w.entry s).pool = p else x.assigned = some p).map (·.1)
end Work

/-- The state of a context at reset: context 0's SQ_DEPTH is 256 (R113, R144). -/
def HsCtx.initial (c : Nat) : HsCtx := { sqDepth := if c = 0 then 256 else 64 }

namespace Work
/-- The host-side state of a context. -/
def hctx (w : Work) (c : Nat) : HsCtx := w.hs.ctxs.getD c (HsCtx.initial c)
/-- Change the host-side state of a context. -/
def modHctx (w : Work) (c : Nat) (g : HsCtx → HsCtx) : Work :=
  w.modHs fun h => { h with ctxs := h.ctxs.modD c (HsCtx.initial c) g }
/-- The model slot. -/
def slot (w : Work) (s : Nat) : ModelSlot := w.fs.models.getD s {}
/-- The loaded image of a model slot. -/
def image? (w : Work) (s : Nat) : Option ModelImage := (w.slot s).image
/-- S of a model slot; 64 where no image is loaded (MODEL_GEOM reads 0b00). -/
def pagePos (w : Work) (s : Nat) : Nat := match w.image? s with | some i => i.s | none => 64

/-! What either side can do. -/

/-- The fabric side acts on gate messages: out of reset, SELF_TEST ended, not shut down (R836, R837, R846). -/
def fsTakes (w : Work) : Bool :=
  w.fs.boot.up && w.fs.boot.phase ≠ .selfTest && !w.fs.boot.shutDone
/-- READY in the sense of R837. -/
def ready (w : Work) : Bool :=
  w.fs.boot.up && (w.fs.boot.phase = .ready || w.fs.boot.phase = .drain) && w.hs.bootDone && !w.hs.bootFail
/-- The pairing state. -/
def twinState (w : Work) : TwinState := w.fs.twin.state
/-- Whether the block may issue on its fabric ports (R734, R748, R749). -/
def mayIssue (w : Work) : Bool :=
  match w.twinState with
  | .unpaired | .attachingA | .pairedA => true
  | _ => false
/-- The instance is, or is becoming, a SHADOW (R734). -/
def follows (w : Work) : Bool := w.twinState = .pairedS || w.twinState = .attachingS
/-- Whether commands and decisions go to the twin (R731, R732). In ISOLATED they wait in the frames to be resent
(R749, R750). -/
def mirrors (w : Work) : Bool :=
  match w.twinState with
  | .attachingA | .pairedA | .isolated => true
  | _ => false
/-- Whether R733 holds items back: in a pair, and in ISOLATED (R749). -/
def holdsItems (w : Work) : Bool := w.twinState = .pairedA || w.twinState = .isolated

/-! Outputs. -/

/-- The fabric port of an engine (R658). -/
def fabPort (w : Work) (e : Nat) : Option Nat :=
  let ports := (List.range w.idn.fabPorts).filter fun i => bit (w.reg rFabCfg) i
  if ports.isEmpty then none else ports[e % ports.length]?
/-- Flits of a transfer of `n` bytes, at least one. -/
def flits (n : Nat) : Nat := Nat.max 1 (ceilDiv n 256)
/-- An operation toward engine `e` that carries `n` bytes out and `r` bytes back leaves (R659, R692). -/
def emit (w : Work) (e : Nat) (op : FabOp) (n r : Nat) : Work :=
  let w := w.eff (.fabric op)
  match w.fabPort e with
  | some p => (w.count (cFabTx p) (256 * flits n)).count (cFabRx p) (256 * r)
  | none => w
/-- Issue an operation where the block may (R734, R748, R749). -/
def issue (w : Work) (e : Nat) (op : FabOp) (n r : Nat) : Work := if w.mayIssue then w.emit e op n r else w
/-- A store to engine `e` awaits its acknowledgement from now on (R660). -/
def awaitAck (w : Work) (e : Nat) (why : StoreWhy) : Work :=
  let x : StoreOut := { why := why, at_ := w.now }
  w.modEngine e fun g => if g.frozen || g.stores.getLast? = some x then g else { g with stores := g.stores ++ [x] }
/-- The stores of a restore or a placement are acknowledged at every engine of the pool (R598, R313). -/
def acknowledgeAll (w : Work) (why : StoreWhy) : Work :=
  w.modFs fun f => { f with engines := f.engines.mapV fun _ g => { g with stores := g.stores.filter fun x => x.why ≠ why } }
/-- A store to an engine. -/
def store (w : Work) (e addr : Nat) (bytes : List Byte) (why : StoreWhy := .other) : Work :=
  if w.mayIssue then (w.emit e (.store e addr bytes) bytes.length 0).awaitAck e why else w
/-- The same store to each of several engines, at each engine's own address: in NATIVE mode one store to the pool's
group, where every attached engine that is not frozen is a member at the same address; expanded otherwise (R664,
R665). -/
def multicast (w : Work) (es : List (Nat × Nat)) (bytes : List Byte) (why : StoreWhy := .other) : Work :=
  let expand (w : Work) : Work := w.each es fun w ea => w.store ea.1 ea.2 bytes why
  match es with
  | [] => w
  | (e, a) :: r =>
    match w.engine? e with
    | none => expand w
    | some g =>
      let all := (w.liveEngines g.pool).all fun x => es.any fun y => y.1 = x.1
      if bit (w.reg rFabCfg) 16 && all && r.all (fun y => y.2 = a) then
        let w := w.issue (match w.poolEngines g.pool with | (l, _) :: _ => l | [] => e)
          (.mcast (w.reg (rPoolMcast g.pool)) a bytes) bytes.length 0
        if w.mayIssue then w.each es fun w ea => w.awaitAck ea.1 why else w
      else expand w
/-- A plan header is a multicast store; a mailbox command and a keep request are plain stores (R659). -/
def sendStore (w : Work) (es : List (Nat × Nat)) (bytes : List Byte) (why : StoreWhy) : Work :=
  if why = .plan then w.multicast es bytes why else w.each es fun w ea => w.store ea.1 ea.2 bytes why
/-- A plan header, a mailbox command or a keep request: in a pair it waits for the twin's acknowledgement of every frame
sent before (R733). -/
def storeHeld (w : Work) (es : List (Nat × Nat)) (bytes : List Byte) (why : StoreWhy) : Work :=
  if w.holdsItems then
    w.modFs fun f => { f with twin := { f.twin with
      heldStores := f.twin.heldStores ++ [{ need := f.twin.link.nextSeq, targets := es, bytes := bytes, why := why }] } }
  else w.sendStore es bytes why
/-- Flits received from an engine (R692). -/
def recv (w : Work) (e n : Nat) : Work :=
  match w.fabPort e with
  | some p => w.count (cFabRx p) (256 * flits n)
  | none => w
/-- A load that is issued becomes outstanding (R661). -/
def openLoad (w : Work) (e addr len : Nat) (why : LoadWhy) : Work :=
  let id := w.fs.fab.nextLoad
  w.modFs fun f => { f with fab := { f.fab with
    nextLoad := id + 1
    loads := f.fab.loads.set id { engine := e, addr := addr, len := len, issues := 1, at_ := w.now, firstAt := w.now, why := why } } }
/-- Open a load of an engine's memory (R659, R661). -/
def load (w : Work) (e addr len : Nat) (why : LoadWhy) : Work := (w.issue e (.load e addr len) 32 0).openLoad e addr len why
/-- The data of the loads outstanding that `p` picks has arrived: it is counted, and they are closed (R692). -/
def recvLoads (w : Work) (p : LoadOut → Bool) : Work :=
  let mine := w.fs.fab.loads.filter fun (_, l) => p l
  let w := w.each mine fun w (_, l) => w.recv l.engine l.len
  w.modFs fun f => { f with fab := { f.fab with loads := f.fab.loads.filterV fun _ l => !p l } }
/-- Close the loads outstanding that `p` picks. -/
def closeLoads (w : Work) (p : LoadOut → Bool) : Work :=
  w.modFs fun f => { f with fab := { f.fab with loads := f.fab.loads.filterV fun _ l => !p l } }

/-! Reply streams (R122, R123, R547). -/

/-- The units of the fabric side are stopped: by a held horn (R823), or because the gate keeps 4,096 messages for a host side
that is held in reset (R718). The command that brings it there keeps all of its own messages (DESIGN CHOICE, log entry
124). -/
def halted (w : Work) : Bool := w.fs.horn.held || decide (4096 ≤ w.fs.kept.length)
/-- Put a message on a context's reply stream; while the host side is held it is kept in the gate (R718). -/
def stream (w : Work) (c : Nat) (i : StreamItem) : Work :=
  let i := { i with need := if w.mirrors then w.fs.twin.link.nextSeq else 0 }
  if w.hs.up then w.modHctx c fun h => { h with stream := h.stream ++ [i] }
  else w.modFs fun f => { f with kept := f.kept ++ [i] }
/-- A notice to a context, not tied to a packet (R120, R712). -/
def notice (w : Work) (c : Nat) (r : Reply) : Work :=
  w.stream c { port := (w.hctx c).lastPort.getD 0, msg := .reply { r with ctx := c, kind := 1 } }

end Work

/-! Status codes (R124). -/

def stOk : Nat := 0x0000
def stTooLate : Nat := 0x0001
def stDuplicate : Nat := 0x0002
def stNotLive : Nat := 0x0003
def stBadState : Nat := 0x0004
def stNoShare : Nat := 0x0010
def stNoPages : Nat := 0x0011
def stInfeasible : Nat := 0x0012
def stTableFull : Nat := 0x0013
def stNotGranted : Nat := 0x0014
def stNoPrefix : Nat := 0x0015
def stNotReady : Nat := 0x0016
def stFrozen : Nat := 0x8000
def stThawed : Nat := 0x8001
def stResetDone : Nat := 0x8002
def stKeyAge : Nat := 0x8003
def stTimeDegraded : Nat := 0x8004
def stFault : Nat := 0x8005
def stKeyExpired : Nat := 0x8006

/-- The causes of BAD_STATE (R152). -/
inductive Cause where
  | inUse | imageCheck | noRoom | fabricRead | overReserved | targetSteward | encoding | empty | notAwaiting
  | position | tooLong | notRunning | notParked | exists_ | noCounter | hornState | poolType | notAttached
  | twinState | notFrozen
deriving DecidableEq, Repr

/-- The code of a cause (R152). -/
def Cause.code (c : Cause) : Nat :=
  match c with
  | .inUse => 0x01 | .imageCheck => 0x02 | .noRoom => 0x03 | .fabricRead => 0x04 | .overReserved => 0x05
  | .targetSteward => 0x06 | .encoding => 0x07 | .empty => 0x08 | .notAwaiting => 0x09 | .position => 0x0A
  | .tooLong => 0x0B | .notRunning => 0x0C | .notParked => 0x0D | .exists_ => 0x0E | .noCounter => 0x0F
  | .hornState => 0x10 | .poolType => 0x11 | .notAttached => 0x12 | .twinState => 0x13 | .notFrozen => 0x14

/-- What the acting units answer a packet with: status, OBJ and RESULT. -/
structure Ans where
  status : Nat := stOk
  obj : Nat := 0
  result : Nat := 0
deriving DecidableEq, Repr

/-- BAD_STATE with a cause in RESULT [7:0] (R152). -/
def Ans.bad (c : Cause) : Ans := { status := stBadState, result := c.code }
/-- A refusal with a status alone. -/
def Ans.refuse (s : Nat) : Ans := { status := s }

namespace Work

/-! Freezes of a context (R131 to R133). -/

/-- A packet with CSEQ `a` comes before one with CSEQ `b` in the order of R32. -/
def comesBefore (a b : Word) : Bool := 1 ≤ (b - a).toNat && (b - a).toNat < 2 ^ 31

/-- Packets that `p` picks leave the queue and are counted; answers already made stay (R131). -/
def dropFrom (w : Work) (c : Nat) (p : QItem → Bool) : Work :=
  let gone (i : QItem) : Bool := i.answer.isNone && p i
  (w.modHctx c fun h => { h with queue := h.queue.filter fun i => !gone i }).count (cFrozenDrop c)
    ((w.hctx c).queue.filter gone).length

/-- Every packet of a context that waits leaves its queue (R629). -/
def dropQueue (w : Work) (c : Nat) : Work := w.dropFrom c fun _ => true

/-- Freeze a context for a violation by packet `cseq`: the packets that come after it leave the queue (R130, R131). A
packet that came before an earlier violating one and a CREDIT under a freeze only count (R131, R133). The notice is not tied to a
packet in the sense of R120, so that its OPCODE is 0x00 (DESIGN CHOICE, log entry 88). CTX_LAST_VSEQ is the packet of the
freeze, as LAST_VCLASS is its class (DEDUCED, log entry 121). -/
def freezeCtx (w : Work) (c vclass : Nat) (cseq : Word) : Work :=
  if (w.hctx c).frozen then w.count (cViolFrozen c)
  else
    let w := w.modHctx c fun h => { h with frozen := true, lastVclass := vclass, lastVseq := cseq }
    let w := w.dropFrom c fun i => !comesBefore i.pkt.cseq cseq
    let w := w.event 17 0x0010 true (c + vclass * 256) cseq.toNat
    w.notice c { status := stFrozen, cseq := cseq.toNat, vclass := vclass }

/-! Faults (R849 to R854). -/

/-- The notice of R853. -/
def faultNotice (w : Work) (cls unit cause obj vclass pool store : Nat) (degraded : Bool) : Work :=
  let res := pack [(0, 3, cls), (3, 5, unit), (8, 8, cause), (16, 6, pool), (22, 1, b01 degraded), (32, 32, store)]
  let w := if w.hs.up then w.modHs fun h => { h with faultLast := BitVec.ofNat 64 res } else w
  w.notice 0 { status := stFault, obj := obj, vclass := vclass, result := res }

/-- Raise a fabric-side fault: FAULT event, FAULT_LAST, FAULT_COUNT of its class, and the notice of classes F2 to F4
(R849, R853, R872). -/
def fault (w : Work) (cls unit cause obj : Nat) (vclass pool store : Nat := 0) (degraded : Bool := false) : Work :=
  let w := w.event unit 0x0050 true cls (if cls = 0 then 0 else obj)
  let w := w.whenDo (cls ≠ 2) fun w =>
    w.modFs fun f => { f with fault := { cls := cls, unit := unit, cause := cause, obj := obj, time := w.now } }
  let w := w.whenDo (cls = 4) fun w => w.modFs fun f => { f with speed := { f.speed with f4 := true } }
  let w := if cls = 2 then w.count cHsFaultF2 else w.count (cFault cls)
  if cls ≥ 2 then w.faultNotice cls unit cause obj vclass pool store degraded else w

/-- Change the frame that each message of every context waits for. -/
def setNeeds (w : Work) (g : StreamItem → Nat) : Work :=
  w.modHs fun h => { h with
    ctxs := h.ctxs.mapV fun _ x => { x with stream := x.stream.map fun i => { i with need := g i } } }

/-- What R733 holds back is discarded, at an instance that becomes DETACHED and is inert from then on: its twin releases what
was not released (R722, R748; DESIGN CHOICE, log entry 135). -/
def dropHeld (w : Work) : Work :=
  let w := w.modFs fun f => { f with twin := { f.twin with heldStores := [], heldRelays := [], mirror := 0 } }
  w.modHs fun h => { h with ctxs := h.ctxs.mapV fun _ x => { x with stream := x.stream.filter fun i => i.need = 0 } }

/-- Enter a pairing state, with its event (R722, R817). -/
def enterTwin (w : Work) (t : TwinState) : Work :=
  let old := w.twinState
  if old = t then w
  else
    let w := w.modFs fun f => { f with twin := { f.twin with state := t } }
    (w.whenDo (t = .detached) dropHeld).event 14 0x0070 true old.code t.code

/-- An F4 fault at this instance, on the fabric or the host side: DETACHED in a pair (R869), the failed side's reset
otherwise (R871). -/
def faultF4 (w : Work) (fabric : Bool) (unit cause store : Nat) : Work :=
  let w := w.modFs fun f => { f with speed := { f.speed with f4 := true } }
  let w := if fabric then w.fault 4 unit cause 0 0 0 store
    else (w.event unit 0x0050 true 4 0).faultNotice 4 unit cause 0 0 0 store false
  match w.twinState with
  | .unpaired => w.eff (.resetSide fabric)
  | .detached | .taking => w
  | _ => w.enterTwin .detached

end Work

end Sys2Proof.Machine
end

