-- ==== Sys2Proof/Machine/Effects.lean ====
section
/-! DEFINITION. What an effect does to the observation unit's stores: counters with their ceiling, event rings, AE2_FREEZE
bases, the cut (R782 to R794, R812 to R818, R826, R827, R865). -/

namespace Sys2Proof.Machine

/-- The configuration offset of the counter with a STATS_READ index (R190, R642). -/
def statsOff (c idx : Nat) : Option Nat :=
  if idx ≤ 4 then some (hctxBase c + 0x10 + 8 * idx)
  else if idx = 5 then some (cTokenFiltered c)
  else if 0x100 ≤ idx ∧ idx ≤ 0x10B then some (cAcct c (idx - 0x100))
  else none

/-- The indices of the command-latched set (R784). -/
def statsIndices : List Nat := List.range 6 ++ (List.range 12).map (· + 0x100)

namespace Work

/-- Log an event in a ring, whatever EVENT_EN says (R812 to R814). -/
def logEvent (w : Work) (o : Obs) (ring code a0 a1 : Nat) : Obs :=
  let n := (o.head.getD ring 0 + 1) % 2 ^ 32
  let n := if n = 0 then 1 else n
  let r : EventRec := {
    time := if ring = 17 then w.clk.hs else w.clk.fs, code := code, ring := ring, afterCut := 0 < o.cut.cut, evno := n
    arg0 := a0, arg1 := a1 }
  { o with head := o.head.set ring n, recs := o.recs.set (ring * 256 + n % 256) r }

/-- Whether EVENT_EN has a ring's unit log its other events (R816): unit 0 governs rings 0 and 17. -/
def eventOn (o : Obs) (ring : Nat) : Bool := o.eventEn.getLsbD (if ring = 17 then 0 else ring)

/-- Set a counter's SAT flag, with COUNTER_SAT where it was not set (R793). -/
def satCtr (w : Work) (o : Obs) (off : Nat) : Obs :=
  if o.sat.has off then o
  else w.logEvent { o with sat := o.sat.set off () } 16 0x0060 off (blockIndex w.idn.isM off)

/-- One addition to a counter (R783, R791, R793). -/
def addCtr (w : Work) (o : Obs) (off n : Nat) : Obs :=
  if o.frozenAt.isSome then o
  else
    let v := (o.ctr.getD off 0).toNat + n
    if v < 2 ^ 64 then { o with ctr := o.ctr.set off (BitVec.ofNat 64 v) }
    else w.satCtr { o with ctr := o.ctr.set off (BitVec.ofNat 64 (2 ^ 64 - 1)) } off

/-- Add the frozen time up to now to OBU_FROZEN_HNS, and let the counters go on (R791, R792). -/
def liftFreeze (w : Work) (o : Obs) : Obs :=
  match o.frozenAt with
  | none => o
  | some t => w.addCtr { o with frozenAt := none } cObuFrozenHns (w.hnsDown (w.now - t))

end Work

/-- The next epoch (R787). -/
def nextEpoch (n : Nat) : Nat := if (n + 1) % 2 ^ 16 = 0 then 1 else (n + 1) % 2 ^ 16

/-- Latch the bases of a context to the counters' present values (R787). -/
def latchBases (o : Obs) (c : Nat) : Obs :=
  { o with bases := statsIndices.foldl (fun t idx =>
      match statsOff c idx with
      | some off => (match o.ctr.get? off with
        | some v => t.set (c * 0x200 + idx) v
        | none => t.erase (c * 0x200 + idx))
      | none => t) o.bases }

/-- Latch every base, every context's epoch becoming `f` of what it was (R790). -/
def latchAll (o : Obs) (f : Nat → Nat) : Obs :=
  let o := (List.range 256).foldl latchBases o
  { o with epochs := (List.range 256).map fun c => (c, f (o.epochs.getD c 0)) }

namespace Work

/-- What an effect does to the observation unit's stores. -/
def applyObs (w : Work) (e : Fx) (o : Obs) : Obs :=
  match e with
  | .count off n => w.addCtr o off n
  | .event ring code always a0 a1 => if always || eventOn o ring then w.logEvent o ring code a0 a1 else o
  | .clear off => { o with ctr := o.ctr.erase off, sat := o.sat.erase off }
  | .setCtr off v => { o with ctr := o.ctr.set off v }
  | .spoilCtr off => { o with ctr := o.ctr.set off (BitVec.ofNat 64 (2 ^ 64 - 1)), sat := o.sat.set off () }
  | .markSat off => if o.frozenAt.isSome then o else w.satCtr o off
  | .spoilEvent ring slot => { o with recs := o.recs.erase (ring * 256 + slot) }
  | .latch c =>
    if o.ae2 && o.frozenAt.isNone then
      let o := latchBases o c
      { o with epochs := o.epochs.set c (nextEpoch (o.epochs.getD c 0)) }
    else o
  | .mode ae2 =>
    let o := w.liftFreeze o
    if ae2 then latchAll { o with ae2 := true } (fun n => if o.ae2 then nextEpoch n else 1)
    else { o with ae2 := false, bases := [], epochs := [] }
  | .eventEn en => { o with eventEn := BitVec.ofNat 17 en }
  | .cut n held origin =>
    let rec1 (u : Nat) : CutUnit := {
      unit := u, run := (Config.cutRun n u).toNat, waitCh := (Config.cutWaitCh n u).toNat
      inflight := (Config.cutInflight n u).toNat, at_ := if u = 17 then w.hsNow else w.now
      lastProgress := (Config.cutProgress n u).toNat, evno := o.head.getD u 0 }
    let c : Cut := {
      cut := n, held := held, origin := origin, start := w.now, units := (List.range 18).map rec1, image := o.ctr }
    { o with cut := c, frozenAt := if o.ae2 then some (o.frozenAt.getD w.now) else none }
  | .cutDone chans =>
    { o with cut := { o.cut with
        done := true, doneAt := w.now, chans := chans.take 65536, chDropped := chans.length - 65536
        overflow := decide (65536 < chans.length) } }
  | .cutRelease => { o with cut := { o.cut with held := false } }
  | .host _ _ _ _ | .fabric _ | .frame _ _ | .resetSide _ => o

/-- The observation unit's stores after a list of effects, newest first. -/
def applyAll (w : Work) (l : List Fx) (o : Obs) : Obs := l.foldr w.applyObs o

/-- The observation unit's stores at this point of the command. -/
def obsNow (w : Work) : Obs := w.applyAll w.fx w.obs

end Work

/-- What an effect adds to the record of outputs. -/
def applyOut (e : Fx) (o : Out) : Out :=
  match e with
  | .host port slot c m => { o with host := o.host ++ [{ port := port, slot := slot, ctx := c, msg := m }] }
  | .fabric op => { o with fabric := o.fabric ++ [op] }
  | .frame k f => { o with frames := o.frames ++ [(k, f)] }
  | _ => o

end Sys2Proof.Machine
end

