-- ==== Sys2Proof/Machine/Flags.lean ====
section
/-! DEFINITION. The status words: every read-only word of configuration space that the block's state determines
(R881 to R890), and the bits of records that carry flags. -/

namespace Sys2Proof.Machine

/-- Word `k` of a layout. -/
def wordAt (x k : Nat) : Nat := x / 2 ^ (32 * k) % 2 ^ 32

/-- The 1,024 bits of a request-table entry (R224). `tables` is the size of its pool's partition of the count-staging
store, in which PEN_STAGE lies (R448). -/
def rqtBits (slot : Nat) (e : RqtEntry) (x : Seq) (tables : Nat) : Nat :=
  pack [(0, 4, e.st.code), (4, 4, e.outcome), (8, 14, e.gen), (22, 8, e.ctx), (30, 1, b01 e.fl.lc),
    (31, 1, b01 e.fl.fallbackOk), (32, 1, b01 e.fl.fbActive), (33, 1, b01 e.fl.promptCounts),
    (34, 1, b01 e.fl.awaitAppend), (35, 1, b01 e.fl.pausePending), (36, 1, b01 e.fl.displaced),
    (37, 1, b01 e.fl.issued), (38, 2, e.kind.code), (40, 2, e.promptForm), (42, 1, e.embedPool), (43, 5, e.n),
    (48, 4, e.fork), (52, 6, e.pool), (58, 1, b01 e.fl.bound), (64, 21, e.length), (85, 21, e.promptLen),
    (106, 21, e.maxTokens), (128, 21, e.emitted), (149, 21, e.scoreSplit), (170, 5, e.model), (175, 8, e.variant),
    (183, 8, e.priority), (192, 64, e.admitAt), (256, 64, e.deadline),
    (320, 21, if e.fl.issued then (Config.plHead slot e.gen).toNat % 1310720 else 0), (341, 11, ceilDiv x.own.length 16),
    (352, 32, if x.park.isSome then slot + 1 else 0), (384, 22, e.maskState), (406, 12, e.stencil),
    (418, 1, b01 e.fl.stencilEn), (419, 1, b01 x.staged.isSome),
    (420, 14, match x.staged with | some n => (Config.penStage slot n).toNat % Nat.max 1 tables | none => 0), (434, 7, e.par.ringDepth),
    (448, 64, e.par.seed), (512, 16, e.par.temperature), (528, 16, e.par.topP), (544, 16, e.par.minP),
    (560, 13, e.par.topK), (576, 16, e.par.repPen), (592, 16, e.par.presPen), (608, 16, e.par.freqPen),
    (624, 4, e.par.specDepth), (640, 32, e.par.stop0), (672, 32, e.par.stop1), (704, 32, e.par.stop2),
    (736, 32, e.par.stop3), (768, 32, e.acctRec), (800, 32, e.reqHandle), (832, 18, e.nextSib), (864, 32, e.ttft),
    (896, 64, e.lastEmitAt), (960, 32, e.parkTtl)]

/-- The 512 bits of CTX_TENANT; the KEY bits read zero (R210, R622). -/
def tenantBits (t : Tenant) : Nat :=
  pack [(128, 13, t.sqDepth), (144, 8, t.prioCeil), (152, 1, t.parkMode), (160, 32, t.maxBudget),
    (192, 32, t.defBudget), (224, 32, t.modelGrant), (256, 32, t.maxTtl), (288, 32, t.defTtl), (320, 16, t.resPrefill),
    (336, 16, t.resDecode), (352, 16, t.resShared), (368, 16, t.limPrefill), (384, 16, t.limDecode),
    (400, 16, t.limShared), (416, 32, t.resPark), (448, 32, t.limPark), (480, 20, t.maxSeqs)]

/-- The 256 bits of an event record (R813). -/
def eventBits (r : EventRec) : Nat :=
  pack [(0, 64, r.time.toNat), (64, 16, r.code), (80, 5, r.ring), (85, 1, b01 r.afterCut), (96, 32, r.evno),
    (128, 64, r.arg0), (192, 64, r.arg1)]

/-- The 512 bits of the cut header (R826). -/
def cutHeaderBits (c : Cut) : Nat :=
  pack [(0, 32, c.cut), (32, 1, b01 c.held), (33, 1, b01 c.done), (34, 1, b01 c.overflow), (35, 2, c.origin),
    (64, 64, c.start), (128, 64, c.doneAt), (192, 32, c.chans.length), (224, 32, c.chDropped)]

/-- The 512 bits of a unit record of the cut (R826). -/
def cutUnitBits (u : CutUnit) : Nat :=
  pack [(0, 5, u.unit), (8, 2, u.run), (16, 16, u.waitCh), (32, 32, u.inflight), (64, 64, u.at_),
    (128, 64, u.lastProgress), (192, 32, u.evno)]

/-- The 512 bits of a channel record of the cut (R826). -/
def cutChanBits (c : CutChan) : Nat :=
  pack [(0, 16, c.ch), (16, 16, c.ord), (32, 16, c.len), (128, 384, ofLe (c.head.take 48))]

/-- The 256 bits of a reply or notice (R120). -/
def replyBits (r : Reply) : Nat :=
  pack [(0, 8, r.opcode), (8, 8, r.ctx), (16, 16, r.status), (32, 32, r.cseq), (64, 64, r.tag), (128, 32, r.obj),
    (160, 8, r.kind), (168, 8, r.vclass), (192, 64, r.result)]

/-- The 256 bits of a ring record (R532). -/
def ringBits (r : RingRec) : Nat :=
  pack [(0, 32, r.seq), (32, 21, r.pos), (53, 2, r.kind), (56, 8, r.code), (64, 20, r.token), (84, 4, r.outcome),
    (88, 1, b01 r.timeDegraded), (89, 1, b01 r.drafted), (90, 1, b01 r.fallback), (91, 3, r.deep),
    (94, 1, b01 r.replayed), (95, 1, b01 r.notAccepting), (96, 1, b01 r.endToken), (112, 16, r.logprob),
    (128, 32, r.elapsed), (160, 21, r.count), (181, 4, r.format), (185, 6, r.vpool), (192, 64, r.addr)]

/-- MODEL_SERVE common to every attached engine of a pool: POOL_MODELS (R324). -/
def Work.poolModels (w : Work) (p : Nat) : Nat :=
  match w.poolEngines p with
  | [] => 0
  | (_, e) :: r => r.foldl (fun a x => a &&& x.2.desc.modelServe) e.desc.modelServe

/-- Free pages of a pool (R276). -/
def Pool.freePages (p : Pool) : Nat := (p.pages - p.freshPage) + p.returned.length

/-- The pages of the segments that a segment is built on (R311). -/
def Work.basePages (w : Work) (s : Seg) : List Nat :=
  s.bases.foldl (fun l b => l ++ (match w.fs.segs.get? b with | some x => x.pages | none => [])) []

/-- The pages that a segment itself holds: those that no segment under it holds (R275, R311). -/
def Work.segOwnPages (w : Work) (s : Seg) : List Nat :=
  let base := w.basePages s
  s.pages.filter fun p => !base.contains p

/-- Pages held by the residencies of a pool (R322). -/
def Work.residentPages (w : Work) (p : Nat) : Nat :=
  sumOf ((w.fs.segs.filter fun (_, s) => s.pool = p && s.copy.isSome).map fun (_, s) => (w.segOwnPages s).length)

/-- Extents of the extent space (R579, R580). -/
def Work.extentTotal (w : Work) : Nat :=
  let ports := w.idn.memPorts
  let mib := w.fs.park.gib * 1024 * 63 / 64 * ports
  let fixed := if w.idn.isM then 128 + 256 + 4 else 128 + 1024 + 16
  if w.fs.park.gib = 0 then 0 else (mib - fixed) * 16

/-- Free extents: neither in use nor lost (R707). -/
def Work.extentFree (w : Work) : Nat :=
  w.extentTotal - w.fs.park.used.length -
    (w.fs.park.lost.filter fun (e, _) => !w.fs.park.used.has e).length

/-- The pairing link has brought a valid frame within HB_LOSS. -/
def Work.twinHeard (w : Work) : Bool :=
  match w.fs.twin.link.lastValid with
  | some t => !w.fired t (fld (w.reg rTwinCfg) 15 0)
  | none => false

/-- The peer port toward a position: that of the lowest differing bit (R763). -/
def Work.hopTo (w : Work) (pos : Nat) : Option Nat :=
  (List.range 3).find? fun i => bit pos i != bit w.idn.grpPos i

/-- A position has a path: it is this one, its first hop is up, or the twin can take the message on (R763). -/
def Work.pathTo (w : Work) (pos : Nat) : Bool :=
  match w.hopTo pos with
  | none => true
  | some i => (w.fs.peer.links.getD i {}).up || w.twinHeard

/-- The coordinator: the lowest member to which a path exists (R764). -/
def Work.coordinator (w : Work) : Nat :=
  minOf 0 ((List.range 8).filter fun p => bit (w.reg rGroupCfg) (8 + p) && w.pathTo p)

/-- TIME_STATUS (R77). Bits [9:8] come from the host side and read 0 while it is held in reset (R879). -/
def Work.timeStatus (w : Work) : Nat :=
  let s := w.fs.speed
  pack [(0, 1, b01 w.clk.fsDegraded), (1, 1, b01 s.degradedSeen), (2, 1, b01 s.freqBad), (3, 1, b01 s.underrunSeen),
    (4, 1, b01 s.underrunHold), (5, 1, b01 (decide (s.idx < 0x0C00))), (6, 1, b01 s.calDone),
    (8, 1, b01 (w.hs.up && w.clk.hsDegraded)), (9, 1, b01 (w.hs.up && w.hs.degradedSeen))]

/-- RO words of the instance block (R883). -/
def Work.instWord (w : Work) (o : Nat) : Nat :=
  let f := w.fs
  if o = 0x000 then 0x00030100
  else if o = 0x004 then
    pack [(0, 4, b01 w.idn.isM), (8, 5, w.idn.memPorts), (16, 5, w.idn.fabPorts), (24, 3, w.idn.hostPorts)]
  else if o = 0x008 then w.idn.slots
  else if o = 0x100 then pack [(0, 16, f.speed.idx), (16, 16, f.speed.meas)]
  else if o = 0x10C then w.timeStatus
  else if o = 0x110 then wordAt w.now 0
  else if o = 0x114 then wordAt w.now 1
  else if o = 0x204 then
    pack [(0, 4, f.boot.phase.code), (4, 3, f.boot.failStore), (7, 1, b01 f.boot.shutDone), (8, 1, b01 f.boot.peerSeen),
      (9, 1, b01 f.boot.peerMatch)]
  else if o = 0x208 then f.boot.toReady % 2 ^ 32
  else if o = 0x300 then 10484736 - (sumOf (f.pools.map fun (_, p) => p.pages) + sumOf (f.ghosts.map (·.2)))
  else if o = 0x304 then f.segs.length
  else if o = 0x308 then f.handles.length
  else if o = 0x500 then f.park.gib
  else if o = 0x504 then w.extentTotal
  else if o = 0x508 then w.extentFree
  else if o = 0x908 then
    pack [(0, 4, f.twin.state.code), (4, 1, f.twin.mirror), (5, 1, w.idn.pairSide), (6, 1, b01 f.twin.lost)]
  else if o = 0x90C then f.twin.takeovers
  else if o = 0xA08 then
    pack [(0, 3, w.idn.grpPos), (3, 1, b01 (f.peer.links.getD 0 {}).up), (4, 1, b01 (f.peer.links.getD 1 {}).up),
      (5, 1, b01 (f.peer.links.getD 2 {}).up), (6, 1, b01 (f.peer.links.getD 0 {}).miswired),
      (7, 1, b01 (f.peer.links.getD 1 {}).miswired), (8, 1, b01 (f.peer.links.getD 2 {}).miswired),
      (9, 3, w.coordinator)]
  else if o = 0xB00 then pack [(0, 1, b01 w.obsNow.ae2), (1, 1, b01 w.obsNow.frozenAt.isSome)]
  else if o = 0xB04 then pack [(0, 5, f.obu.budget), (5, 1, b01 f.obu.digestEn), (6, 1, b01 f.obu.opcountEn)]
  else if o = 0xB08 then pack [(0, 16, f.obu.layer), (16, 16, f.obu.operator)]
  else if o = 0xB0C then w.obsNow.eventEn.toNat
  else if o = 0xC00 then pack [(0, 3, f.fault.cls), (3, 5, f.fault.unit), (8, 8, f.fault.cause)]
  else if o = 0xC04 then f.fault.obj % 2 ^ 32
  else if o = 0xC08 then wordAt f.fault.time 0
  else if o = 0xC0C then wordAt f.fault.time 1
  else if o = 0xC10 then (f.retired.filter fun s => (w.entry s).st = .free).length
  else if 0xE00 ≤ o ∧ o < 0xE44 then w.obsNow.head.getD ((o - 0xE00) / 4) 0
  else 0

/-- RO words of the host instance block (R884). -/
def Work.hostInstWord (w : Work) (o : Nat) : Nat :=
  let h := w.hs
  if o = 0x00 then wordAt w.hsNow 0
  else if o = 0x04 then wordAt w.hsNow 1
  else if o = 0x08 then h.keyGrace
  else if o = 0x24 then pack [(0, 1, b01 h.bootDone), (1, 1, b01 h.bootFail)]
  else if o = 0x28 then w.obsNow.head.getD 17 0
  else if o = 0x40 then wordAt h.faultLast.toNat 0
  else if o = 0x44 then wordAt h.faultLast.toNat 1
  else 0

/-- Words of a host context block (R144, R884). -/
def Work.hostCtxWord (w : Work) (c o : Nat) : Nat :=
  let h := w.hctx c
  if o = 0x0 then
    pack [(0, 1, b01 h.frozen), (1, 1, b01 h.key.isSome), (2, 1, b01 h.keyAged), (3, 1, b01 h.keyExpired),
      (8, 8, h.lastVclass)]
  else if o = 0x4 then h.lastVseq.toNat
  else if o = 0x8 then h.hiSeq.toNat
  else if o = 0xC then h.sqDepth
  else 0

/-- RO words of a fabric context block (R885). -/
def Work.fabCtxWord (w : Work) (c o : Nat) : Nat :=
  let x := w.fctx c
  if o = 0x50 then w.obsNow.epochs.getD c 0
  else if c = 0 then 0
  else if o < 0x40 then wordAt (tenantBits { x.tenant with sqDepth := (w.hctx c).sqDepth }) (o / 4)
  else if o = 0x48 then x.parkUsed
  else if o = 0x60 then x.gqSlice
  else if o = 0x64 then x.gqParkSlice
  else 0

/-- EGV_RATIO of a pool number, attached or not (R645, R655). -/
def Work.ratio (w : Work) (p : Nat) : Nat := w.fs.ratios.getD p 0x1000

/-- RO words of a pool block (R887). -/
def Work.poolWord (w : Work) (p o : Nat) : Nat :=
  let share := fld (w.reg (rSched p)) 16 8
  if o = 0x38 then share * 256
  else match w.pool? p with
  | none => if o = 0x44 then w.ratio p else 0
  | some q =>
    if o = 0x04 then q.pages
    else if o = 0x08 then q.freePages
    else if o = 0x0C then w.residentPages p
    else if o = 0x1C then w.poolModels p
    else if o = 0x30 then q.epoch % 2 ^ 32
    else if o = 0x34 then pack [(0, 2, q.typ), (2, 1, b01 q.held.isSome)]
    else if o = 0x3C then (w.stagedOn p).length
    else if o = 0x44 then w.ratio p
    else if o = 0x4C then b01 q.degraded
    else if o = 0x50 then q.withheld
    else if o = 0x58 then wordAt q.step 0
    else if o = 0x5C then wordAt q.step 1
    else 0

/-- RO words of a model-slot block (R888). -/
def Work.modelWord (w : Work) (s o : Nat) : Nat :=
  match w.image? s with
  | none => 0
  | some i =>
    if o = 0x00 then (if i.s = 128 then 1 else if i.s = 256 then 2 else 0)
    else if o = 0x08 then i.routes.length
    else if o = 0x10 then i.vocab
    else if o = 0x14 then i.eos
    else if o = 0x18 then wordAt i.vocabTag 0
    else if o = 0x1C then wordAt i.vocabTag 1
    else 0

/-- A partition of the mask store as in force (R503). -/
def Work.maskPart (w : Work) (i : Nat) : MaskPart :=
  w.fs.masks.parts.getD i (if i = 0 then { idCount := 4096, blocks := 768 } else {})

/-- Images that lie in a partition. -/
def Work.partImages (w : Work) (i : Nat) : Tbl MaskImage := w.fs.masks.images.filter fun (_, m) => m.part = i

/-- RO words of a mask partition (R503). -/
def Work.maskPartWord (w : Work) (i o : Nat) : Nat :=
  let p := w.maskPart i
  let held := sumOf ((w.partImages i).map fun (_, m) => m.blocks)
  if o = 0x8 then pack [(0, 10, p.blocks), (10, 10, p.blocks - held), (20, 1, b01 p.pending)]
  else if o = 0xC then (w.partImages i).length
  else 0

/-- STENCIL_STATUS (R503). -/
def Work.imageWord (w : Work) (i : Nat) : Nat :=
  match w.fs.masks.images.get? i with
  | none => 0
  | some m => pack [(0, 2, if m.withdrawn then 2 else 1), (2, 10, m.blocks), (12, 19, m.users)]

/-- RO words of a memory port (R721). -/
def Work.memPortWord (w : Work) (i o : Nat) : Nat :=
  let p := w.fs.memPorts.getD i {}
  if o = 0 then pack [(0, 1, b01 p.trained), (1, 1, b01 p.failed), (8, 3, p.refresh)]
  else if o = 4 then p.lost
  else 0

/-- RO words of an engine block (R381). -/
def Work.engineWord (w : Work) (e o : Nat) : Nat :=
  match w.engine? e with
  | none => 0
  | some g =>
    if o = 0x0 then pack [(0, 6, g.pool), (6, 1, 1), (7, 1, b01 g.frozen)]
    else if o = 0x4 then g.desc.saveBytes
    else if o = 0x8 then wordAt g.desc.saveAddr 0
    else if o = 0xC then wordAt g.desc.saveAddr 1
    else 0

/-- A word of an event window (R814, R888). -/
def Work.eventWord (w : Work) (ring o : Nat) : Nat :=
  match w.obsNow.recs.get? (ring * 256 + o / 32 % 256) with
  | some r => wordAt (eventBits r) (o % 32 / 4)
  | none => 0

/-- A word of the cut window (R826, R889). -/
def Work.cutWord (w : Work) (o : Nat) : Nat :=
  let c := w.obsNow.cut
  if o < 64 then wordAt (cutHeaderBits c) (o / 4)
  else if o < 0x4C0 then
    match c.units[(o - 64) / 64]? with | some u => wordAt (cutUnitBits u) ((o - 64) % 64 / 4) | none => 0
  else if o < 0x500 then 0
  else match c.chans[(o - 0x500) / 64]? with | some r => wordAt (cutChanBits r) ((o - 0x500) % 64 / 4) | none => 0

/-- A word of the SAT map (R890). -/
def Work.satWord (w : Work) (o : Nat) : Nat :=
  sumOf ((List.range 32).map fun b =>
    let ctr := (o * 8 + b) * 8
    if isCounter w.idn.isM ctr && w.satNow ctr then 2 ^ b else 0)

/-- The word at an offset of configuration space (R194, R873, R874, R880). -/
def Work.cfgWord (w : Work) (a : Nat) : Nat :=
  let off := a / 4 * 4
  let isM := w.idn.isM
  if isCounter isM (off / 8 * 8) then wordAt (w.ctrNow (off / 8 * 8)) (off % 8 / 4)
  else if (rwWord isM off).isSome then w.raw off
  else match regionOf isM off with
  | .inst o => w.instWord o
  | .hostInst o => w.hostInstWord o
  | .hostCtx c o => w.hostCtxWord c o
  | .fabCtx c o => w.fabCtxWord c o
  | .pool p o => w.poolWord p o
  | .model s o => w.modelWord s o
  | .maskPart i o => w.maskPartWord i o
  | .memPort i o => w.memPortWord i o
  | .engine e o => w.engineWord e o
  | .image i => w.imageWord i
  | .event ring o => w.eventWord ring o
  | .cut o => w.cutWord o
  | .ctrImage o => if isCounter isM (o / 8 * 8) then wordAt (w.obsNow.cut.image.getD (o / 8 * 8) 0).toNat (o % 8 / 4) else 0
  | .satMap o => w.satWord o
  | .rqt s o =>
    let e := w.entry s
    let p := if e.fl.bound then e.pool else (w.seq s).assigned.getD 0
    wordAt (rqtBits s e (w.seq s) (fld (w.reg (rSched p)) 16 8 * 64)) (o / 4)
  | .hostPort _ _ | .kvl _ _ | .fabPort _ _ | .hole => 0

/-- The SPEED_IDX output: the published index, 0 in reset (R56, R899). -/
def Work.speedIdxOut (w : Work) : Nat := if w.fs.boot.up then w.fs.speed.idx else 0

/-- The THERM output (R899, R902). -/
def Work.thermOut (w : Work) : Nat := w.fs.speed.therm

/-- The ALARM output (R903). -/
def Work.alarmOut (w : Work) : Bool := w.clk.fsDegraded || w.fs.boot.phase = .failed || w.fs.speed.f4

/-- The SPEED_ALARM output (R56, R903). -/
def Work.speedAlarmOut (w : Work) : Bool := w.fs.speed.idx < 0x0C00

/-- The TWIN_ROLE output (R723). -/
def Work.twinRoleOut (w : Work) : Bool :=
  match w.twinState with
  | .attachingA | .pairedA => true
  | .unpaired => !w.fs.pools.isEmpty
  | _ => false

/-- Whether both words of a 64-bit field begin at an offset (R875): one instant serves any read here, since a read is
one command. -/
def Work.cfgRead (w : Work) (a : Nat) : Nat := w.cfgWord a + w.cfgWord (a / 4 * 4 + 4) * 2 ^ 32

end Sys2Proof.Machine
end

