-- ==== Sys2Proof/Machine/Boot.lean ====
section
/-! DEFINITION. Bring-up, shutdown and self-test of the two sides (R834 to R847). -/

namespace Sys2Proof.Machine

namespace Work

/-- Change the bring-up state. -/
def modBoot (w : Work) (g : Boot → Boot) : Work := w.modFs fun f => { f with boot := g f.boot }

/-- CALIBRATE begins once START has been written and the fabric side is not on delay-line time (R834). -/
def beginCalibrate (w : Work) : Work :=
  if w.fs.boot.phase = .waitStart ∧ w.fs.boot.startAsked ∧ !w.clk.fsDegraded then
    w.modBoot fun b => { b with phase := .calibrate, startAsked := false }
  else w

/-- A write of START (R842). -/
def bootStart (w : Work) : Work :=
  if w.fs.boot.up ∧ w.fs.boot.phase = .waitStart then
    (w.modBoot fun b => { b with startAsked := true }).beginCalibrate
  else w

/-- A write of DRAIN (R844). -/
def bootDrain (w : Work) : Work :=
  if w.fs.boot.up ∧ w.fs.boot.phase = .ready then w.modBoot fun b => { b with phase := .drain } else w

/-- A sequence is live (R226). -/
def anyLive (w : Work) : Bool := w.fs.rqt.any fun (_, e) => e.st.live

/-- A write of SHUT: the accesses that wait at the memory ports complete, and the side stops (R846). -/
def bootShut (w : Work) : Work :=
  if w.fs.boot.up ∧ w.fs.boot.phase = .drain ∧ !w.anyLive ∧ w.fs.pools.isEmpty then
    (w.modFs fun f => { f with memPorts := f.memPorts.mapV fun _ p => { p with jobs := [] } }).modBoot fun b =>
      { b with phase := .shut, shutDone := true }
  else w

/-- The fabric-side self-test ends (R835). -/
def selfTestDone (w : Work) (failStore : Option Nat) : Work :=
  if w.fs.boot.up ∧ w.fs.boot.phase = .selfTest then
    match failStore with
    | none => w.modBoot fun b => { b with phase := .waitStart }
    | some s =>
      w.modBoot fun b => { b with phase := .failed, failStore := s % 8 }
  else w

/-- The host-side self-test ends (R835). -/
def hsSelfTestDone (w : Work) (ok : Bool) : Work :=
  if w.hs.up ∧ !w.hs.bootDone then
    w.modHs fun h => { h with bootDone := true, bootFail := !ok }
  else w

/-- CALIBRATE ends with the readings of the 16 monitors: the first index is published (R836, R52, R57). -/
def calibrateDone (w : Work) (readings : List Nat) : Work :=
  if w.fs.boot.up ∧ w.fs.boot.phase = .calibrate then
    let low := minOf 0 readings % 2 ^ 16
    let w := w.modFs fun f => { f with speed := { f.speed with
      meas := low, idx := low * 15 / 16, calDone := true, tgl := !f.speed.tgl
      recent := [(w.now, low * 15 / 16)] } }
    w.modBoot fun b => { b with phase := .train, rate := fld (w.reg rMemCfg) 2 0 }
  else w

/-- TRAIN ends: each port's capacity in GiB, or none where its training did not converge (R699, R836). -/
def trainDone (w : Work) (results : List (Option Nat)) : Work :=
  if w.fs.boot.up ∧ w.fs.boot.phase = .train then
    let first := (results.head?.getD none).getD 0
    let bad (i : Nat) : Bool := match results.getD i none with | none => true | some g => g ≠ first || g = 0
    let ports := List.range w.idn.memPorts
    let w := w.each ports fun w i =>
      if bad i then
        ((w.modFs fun f => { f with memPorts := f.memPorts.modD i {} fun p => { p with failed := true } }).event 10
          0x0041 true i 0).fault 0 10 0x22 0
      else w.modFs fun f => { f with memPorts := f.memPorts.modD i {} fun p => { p with trained := true, lastTrain := w.now } }
    -- the densities are read during training, whether it ends well or not
    let w := w.modFs fun f => { f with park := { f.park with gib := first, lastPort := w.idn.memPorts - 1 } }
    w.modBoot fun b => { b with phase := if ports.any bad then .failed else .clear }
  else w

/-- CLEAR ends: READY (R834, R706). -/
def clearDone (w : Work) : Work :=
  if w.fs.boot.up ∧ w.fs.boot.phase = .clear then
    w.modBoot fun b => { b with phase := .ready, toReady := w.hnsDown w.now }
  else w

/-- Writing LOAD: the steward's key (R840, R104). -/
def svcKeyLoad (w : Work) : Work :=
  w.modHctx 0 fun h => { h with key := some w.hs.svcKey, prevKey := none, graceAt := none, accepted := 0
                                keyAged := false, keyExpired := false, hiSeq := 0, hiMac := none }

/-- Lift a freeze (R135): credits follow from the queue, which is read on. -/
def thaw (w : Work) (c : Nat) : Work :=
  let w := (w.modHctx c fun h => { h with frozen := false }).event 17 0x0011 true c 0
  w.notice c { status := stThawed }

/-- Writing 1 to STEWARD_THAW (R138). -/
def stewardThaw (w : Work) : Work := if (w.hctx 0).frozen then w.thaw 0 else w

/-- Recompute the speed index from the 16 readings (R52 to R56). A recomputation exactly 20 µs old lies outside the
preceding 20 µs of R53 (DESIGN CHOICE, log entry 87). -/
def speedRecompute (w : Work) (readings : List Nat) : Work :=
  let s := w.fs.speed
  if !s.calDone then w
  else
    let low := minOf 0 readings % 2 ^ 16
    let new := low * 15 / 16
    -- an underrun is judged against the index published when the reading was taken (R54)
    let under := low < s.idx
    let hist := s.recent ++ [(w.now, new)]
    let inWin := hist.filter fun (t, _) => !w.fired t 200
    let older := hist.filter fun (t, _) => w.fired t 200
    let idx :=
      if new < s.idx then new
      else if s.idx < new ∧ !older.isEmpty ∧ inWin.all (fun (_, v) => s.idx < v) then minOf new (inWin.map (·.2))
      else s.idx
    let recent := older.drop (older.length - 1) ++ inWin
    let w := if under && !s.underrunSeen then w.event 16 0x0001 true low s.idx else w
    w.modFs fun f => { f with speed := { f.speed with
      meas := low, idx := idx, recent := recent, tgl := if idx = s.idx then f.speed.tgl else !f.speed.tgl
      underrunSeen := f.speed.underrunSeen || under, underrunHold := f.speed.underrunHold || under
      underrunAt := if under then w.now else f.speed.underrunAt } }

/-- UNDERRUN_HOLD clears 100 µs after the last underrun (R55). -/
def underrunHoldClear (w : Work) : Work :=
  if w.fs.speed.underrunHold && w.fired w.fs.speed.underrunAt 1000 then
    w.modFs fun f => { f with speed := { f.speed with underrunHold := false } }
  else w

end Work

end Sys2Proof.Machine
end

