-- ==== Sys2Proof/Machine/Crypto.lean ====
section
/-! DEFINITION. AES-128 (FIPS 197, R454), AES-128 CMAC (NIST SP 800-38B, R96, R97), CRC-32C (R704) and CRC-64
(ECMA-182, R801). -/

namespace Sys2Proof

/-- The AES S-box, byte b in bits [8b+7:8b]. -/
def aesSboxWord : Nat :=
  0x16bb54b00f2d99416842e6bf0d89a18cdf2855cee9871e9b948ed9691198f8e19e1dc186b95735610ef6034866b53e708a8bbd4b1f74dde8c6b4a61c2e2578ba08ae7a65eaf4566ca94ed58d6d37c8e779e4959162acd3c25c2406490a3a32e0db0b5ede14b8ee4688902a22dc4f816073195d643d7ea7c41744975fec130ccdd2f3ff1021dab6bcf5389d928f40a351a89f3c507f02f94585334d43fbaaefd0cf584c4a39becb6a5bb1fc20ed00d153842fe329b3d63b52a05a6e1b1a2c830975b227ebe28012079a059618c323c7041531d871f1e5a534ccf73f362693fdb7c072a49cafa2d4adf04759fa7dc982ca76abd7fe2b670130c56f6bf27b777c63

/-- One S-box look-up. -/
def aesSbox (b : Nat) : Nat := aesSboxWord / 2 ^ (8 * b) % 256

/-- Multiplication by x in the AES field. -/
def aesXtime (b : Nat) : Nat := if b < 128 then 2 * b else (2 * b) ^^^ 0x11b

/-- The bytewise exclusive-or of two byte lists. -/
def xorBytes (a b : List Nat) : List Nat := List.zipWith (· ^^^ ·) a b

/-- The next round key from a round key and its round constant. -/
def aesNextKey (k : List Nat) (rcon : Nat) : List Nat :=
  let g (i : Nat) : Nat := k.getD i 0
  let w0 := [g 0 ^^^ aesSbox (g 13) ^^^ rcon, g 1 ^^^ aesSbox (g 14), g 2 ^^^ aesSbox (g 15), g 3 ^^^ aesSbox (g 12)]
  let w1 := xorBytes w0 ((k.drop 4).take 4)
  let w2 := xorBytes w1 ((k.drop 8).take 4)
  let w3 := xorBytes w2 (k.drop 12)
  w0 ++ w1 ++ w2 ++ w3

/-- SubBytes followed by ShiftRows on a column-major block. -/
def aesSubShift (s : List Nat) : List Nat :=
  (List.range 16).map fun i => aesSbox (s.getD (i % 4 + 4 * ((i / 4 + i % 4) % 4)) 0)

/-- MixColumns on one column. -/
def aesMixCol (c : List Nat) : List Nat :=
  match c with
  | [a, b, d, e] =>
    let t := a ^^^ b ^^^ d ^^^ e
    [a ^^^ t ^^^ aesXtime (a ^^^ b), b ^^^ t ^^^ aesXtime (b ^^^ d),
     d ^^^ t ^^^ aesXtime (d ^^^ e), e ^^^ t ^^^ aesXtime (e ^^^ a)]
  | _ => c

/-- MixColumns on a block. -/
def aesMix (s : List Nat) : List Nat :=
  aesMixCol (s.take 4) ++ aesMixCol ((s.drop 4).take 4) ++ aesMixCol ((s.drop 8).take 4) ++ aesMixCol (s.drop 12)

/-- The nine full rounds and the last one, by the list of round constants. -/
def aesRounds (rcons : List Nat) (k s : List Nat) : List Nat :=
  match rcons with
  | [] => s
  | [r] => xorBytes (aesSubShift s) (aesNextKey k r)
  | r :: rs =>
    let k' := aesNextKey k r
    aesRounds rs k' (xorBytes (aesMix (aesSubShift s)) k')

/-- One AES-128 encryption of a 16-byte block under a 16-byte key (FIPS 197). -/
def aes128 (key block : List Byte) : List Byte :=
  let k := key.map (·.toNat)
  (aesRounds [0x01, 0x02, 0x04, 0x08, 0x10, 0x20, 0x40, 0x80, 0x1b, 0x36] k
    (xorBytes (block.map (·.toNat)) k)).map (BitVec.ofNat 8)

/-- Doubling in the CMAC field of 128 bits. -/
def cmacDouble (x : Nat) : Nat :=
  let y := x * 2 % 2 ^ 128
  if x / 2 ^ 127 % 2 = 1 then y ^^^ 0x87 else y

/-- The CMAC chain: every block but the last is chained, the last is masked by a subkey. -/
def cmacChain (key : List Byte) (k1 k2 : Nat) (fuel : Nat) (x : Nat) (msg : List Byte) : List Byte :=
  match fuel with
  | 0 => []
  | n + 1 =>
    if msg.length > 16 then
      cmacChain key k1 k2 n (ofBe (aes128 key (beBytes 16 (x ^^^ ofBe (msg.take 16))))) (msg.drop 16)
    else
      let last :=
        if msg.length = 16 then ofBe msg ^^^ k1
        else ofBe (msg ++ (0x80 : Byte) :: List.replicate (15 - msg.length) 0) ^^^ k2
      aes128 key (beBytes 16 (x ^^^ last))

/-- AES-128 CMAC of NIST SP 800-38B under a key of 128 bits whose bits [7:0] are the first key byte (R96). -/
def cmac (key : BitVec 128) (msg : List Byte) : List Byte :=
  let k := leBytes 16 key.toNat
  let l := ofBe (aes128 k (List.replicate 16 0))
  cmacChain k (cmacDouble l) (cmacDouble (cmacDouble l)) (msg.length / 16 + 1) 0 msg

/-- One bit step of a reflected CRC with polynomial `poly`. -/
def crcBitR (poly c : Nat) : Nat := if c % 2 = 1 then (c / 2) ^^^ poly else c / 2

/-- CRC-32C: polynomial 0x1EDC_6F41 reflected, initial value and final exclusive-or all ones (R704). -/
def crc32c (bs : List Byte) : Word :=
  let step (c : Nat) (b : Byte) : Nat := (List.range 8).foldl (fun a _ => crcBitR 0x82F63B78 a) (c ^^^ b.toNat)
  BitVec.ofNat 32 (bs.foldl step 0xFFFFFFFF ^^^ 0xFFFFFFFF)

/-- One bit step of CRC-64 (ECMA-182), most significant bit first. -/
def crc64Bit (c : Nat) : Nat :=
  if c / 2 ^ 63 % 2 = 1 then (c * 2 % 2 ^ 64) ^^^ 0x42F0E1EBA9EA3693 else c * 2 % 2 ^ 64

/-- CRC-64 (ECMA-182): initial value 0, no reflection, no final exclusive-or (R801). -/
def crc64 (bs : List Byte) : DWord :=
  let step (c : Nat) (b : Byte) : Nat := (List.range 8).foldl (fun a _ => crc64Bit a) (c ^^^ (b.toNat * 2 ^ 56))
  BitVec.ofNat 64 (bs.foldl step 0)

end Sys2Proof
end

