-- ==== Sys2Proof/Machine/Operands.lean ====
section
/-! DEFINITION. The operand forms of the packets: OPFIELDS, bodies, items, and the clamps of R126 (R158 to R193). -/

namespace Sys2Proof.Machine

/-! bfloat16 as a number (R18). -/

/-- NaN. -/
def bfNaN (v : Nat) : Bool := fld v 14 7 = 255 && fld v 6 0 ≠ 0
/-- A key that orders bfloat16 numbers; both zeros have key 0. -/
def bfKey (v : Nat) : Int := if bit v 15 then - (fld v 14 0 : Int) else fld v 14 0
/-- The rational value of a finite bfloat16. -/
def bfRat (v : Nat) : Rat :=
  let e := fld v 14 7
  let m : Rat := if e = 0 then (fld v 6 0 : Nat) else ((128 + fld v 6 0 : Nat) : Rat)
  let x : Rat := if e = 0 then m / (2 ^ 133 : Nat) else if 134 ≤ e then m * (2 ^ (e - 134) : Nat) else m / (2 ^ (134 - e) : Nat)
  if bit v 15 then -x else x

/-- A clamp of a bfloat16 parameter (R126): range by keys, what stands below and above it, and what a NaN becomes. -/
def bfClamp (lo hi : Int) (below above nan v : Nat) : Nat :=
  if bfNaN v then nan else if bfKey v < lo then below else if hi < bfKey v then above else v

/-- Temperature: 0.0 to 16.0. -/
def clampTemperature (v : Nat) : Nat := bfClamp 0 0x4180 0 0x4180 0x3F80 v
/-- top-p: above 0.0, up to 1.0. -/
def clampTopP (v : Nat) : Nat := bfClamp 1 0x3F80 0x0001 0x3F80 0x3F80 v
/-- min-p: 0.0 to 1.0. -/
def clampMinP (v : Nat) : Nat := bfClamp 0 0x3F80 0 0x3F80 0 v
/-- REP_PENALTY: 1.0 to 8.0 (R447). -/
def clampRep (v : Nat) : Nat := bfClamp 0x3F80 0x4100 0x3F80 0x4100 0x3F80 v
/-- PRES_PENALTY and FREQ_PENALTY: 0.0 to 8.0 (R447). -/
def clampPres (v : Nat) : Nat := bfClamp 0 0x4100 0 0x4100 0 v

/-- The fields of SUBMIT as sent (R158, R159). -/
structure SubmitF where
  kind : Nat
  form : Nat
  lc : Bool
  fallbackOk : Bool
  promptCounts : Bool
  more : Bool
  n : Nat
  model : Nat
  variant : Nat
  priority : Nat
  budget : Nat
  maxTokens : Nat
  stencil : Nat
  stencilEn : Bool
  embedPool : Nat
  scoreSplit : Nat
  /-- SPEC_DEPTH, RING_DEPTH, the sampling fields, penalties, SEED and stops. -/
  par : Params
deriving DecidableEq, Repr

/-- Read the fields of a SUBMIT packet. -/
def submitFields (p : Packet) : SubmitF :=
  let ext := ofLe (p.body.take 32)
  { kind := p.opf 195 192, form := p.opf 199 196, lc := p.opf 200 200 = 1, fallbackOk := p.opf 201 201 = 1
    promptCounts := p.opf 202 202 = 1, more := p.opf 203 203 = 1, n := p.opf 212 208, model := p.opf 220 216
    variant := p.opf 231 224, priority := p.opf 239 232, budget := p.opf 271 240, maxTokens := p.opf 292 272
    stencil := p.opf 387 376, stencilEn := p.opf 388 388 = 1, embedPool := fld ext 115 112
    scoreSplit := fld ext 84 64
    par := { seed := fld ext 63 0, temperature := p.opf 327 312, topP := p.opf 343 328, minP := p.opf 359 344
             topK := p.opf 372 360, repPen := p.opf 407 392, presPen := p.opf 423 408, freqPen := p.opf 439 424
             specDepth := p.opf 299 296, ringDepth := p.opf 310 304
             stop0 := fld ext 159 128 &&& 0x800FFFFF, stop1 := fld ext 191 160 &&& 0x800FFFFF
             stop2 := fld ext 223 192 &&& 0x800FFFFF, stop3 := fld ext 255 224 &&& 0x800FFFFF } }

/-- A SUBMIT packet with its clamped fields written back, as it is forwarded (R771). -/
def withFields (p : Packet) (f : SubmitF) (budget : Nat) : Packet :=
  let put (x : Nat) (e : Nat × Nat × Nat) : Nat := setFld x (e.1 - 192) (e.2.1 - 192) e.2.2
  let op := [(212, 208, f.n), (239, 232, f.priority), (271, 240, budget), (292, 272, f.maxTokens),
    (299, 296, f.par.specDepth), (310, 304, f.par.ringDepth), (327, 312, f.par.temperature), (343, 328, f.par.topP),
    (359, 344, f.par.minP), (372, 360, f.par.topK), (388, 388, b01 f.stencilEn), (407, 392, f.par.repPen),
    (423, 408, f.par.presPen), (439, 424, f.par.freqPen)].foldl put p.op.toNat
  { p with op := BitVec.ofNat 256 op }

/-- A packet whose BUDGET has lost `t` hns, as it crosses the pairing link (R83). A BUDGET of 0 selects the default, so that
one which runs out stays 1 (DESIGN CHOICE, log entry 106). -/
def spendBudget (p : Packet) (opcode t : Nat) : Packet :=
  let cut (hi lo : Nat) : Packet :=
    if p.opf hi lo = 0 then p
    else { p with op := BitVec.ofNat 256 (setFld p.op.toNat (hi - 192) (lo - 192) (Nat.max 1 (p.opf hi lo - t))) }
  match opcode with
  | 0x01 => cut 271 240
  | 0x05 => cut 247 216
  | _ => p

/-- A token item (R160). -/
def tokenItem (b : List Byte) : PItem := .tok (fld (ofLe b) 19 0)

/-- An embedding-reference item (R160). -/
def embedItem (b : List Byte) : PItem :=
  let x := ofLe b
  .emb (fld x 63 0) (fld x 84 64) (fld x 91 88) (fld x 101 96)

/-- `n` prompt items of a form from bytes (R160). -/
def promptItems (form n : Nat) (bs : List Byte) : List PItem :=
  if form = 2 then ((chunks 16 n bs).take n).map embedItem else ((chunks 4 n bs).take n).map tokenItem

/-- Positions of a list of items (R163). -/
def itemsPositions (l : List PItem) : Nat := sumOf (l.map PItem.positions)

/-- The clamps of check 12 on a generate request's sampling parameters, each with whether it changed its field. -/
def clampParams (x : Params) : Params × Nat :=
  let y : Params := { x with
    temperature := clampTemperature x.temperature, topP := clampTopP x.topP, minP := clampMinP x.minP
    topK := Nat.min x.topK 4096, repPen := clampRep x.repPen, presPen := clampPres x.presPen
    freqPen := clampPres x.freqPen, specDepth := Nat.min x.specDepth 8 }
  (y, b01 (x.temperature ≠ y.temperature) + b01 (x.topP ≠ y.topP) + b01 (x.minP ≠ y.minP) + b01 (x.topK ≠ y.topK) +
    b01 (x.repPen ≠ y.repPen) + b01 (x.presPen ≠ y.presPen) + b01 (x.freqPen ≠ y.freqPen) +
    b01 (x.specDepth ≠ y.specDepth))

/-- The budget of SUBMIT and RESUME: 0 selects the default, and the maximum clamps (R127, R128). -/
def clampBudget (t : Tenant) (b : Nat) : Nat × Nat :=
  if b = 0 then (t.defBudget, 0) else if t.maxBudget < b then (t.maxBudget, 1) else (b, 0)

/-- A time to live of PAUSE or PREFIX_PUT: the maximum clamps (R179, R185); 0 selects the default elsewhere. -/
def clampTtl (t : Tenant) (x : Nat) : Nat × Nat := if t.maxTtl < x then (t.maxTtl, 1) else (x, 0)

/-- The settings in a TENANT_SET body (R210). -/
def tenantFields (body : List Byte) : Tenant :=
  let x := ofLe body
  { sqDepth := fld x 140 128, prioCeil := fld x 151 144, parkMode := fld x 152 152, maxBudget := fld x 191 160
    defBudget := fld x 223 192, modelGrant := fld x 255 224, maxTtl := fld x 287 256, defTtl := fld x 319 288
    resPrefill := fld x 335 320, resDecode := fld x 351 336, resShared := fld x 367 352
    limPrefill := fld x 383 368, limDecode := fld x 399 384, limShared := fld x 415 400
    resPark := fld x 447 416, limPark := fld x 479 448, maxSeqs := fld x 499 480 }

/-- The clamps of TENANT_SET (R210, R211) with their number. -/
def clampTenant (t : Tenant) : Tenant × Nat :=
  let u : Tenant := { t with
    sqDepth := clampTo 16 4096 t.sqDepth, defBudget := Nat.min t.defBudget t.maxBudget
    defTtl := Nat.min t.defTtl t.maxTtl, resPrefill := Nat.min t.resPrefill t.limPrefill
    resDecode := Nat.min t.resDecode t.limDecode, resShared := Nat.min t.resShared t.limShared
    resPark := Nat.min t.resPark t.limPark }
  (u, b01 (t.sqDepth ≠ u.sqDepth) + b01 (t.defBudget ≠ u.defBudget) + b01 (t.defTtl ≠ u.defTtl) +
    b01 (t.resPrefill ≠ u.resPrefill) + b01 (t.resDecode ≠ u.resDecode) + b01 (t.resShared ≠ u.resShared) +
    b01 (t.resPark ≠ u.resPark))

/-- The reserved share of a context for a pool type (R323, R350). -/
def Tenant.resOf (t : Tenant) (typ : Nat) : Nat :=
  if typ = 0 then t.resPrefill else if typ = 1 then t.resDecode else t.resShared
/-- The share limit of a context for a pool type. -/
def Tenant.limOf (t : Tenant) (typ : Nat) : Nat :=
  if typ = 0 then t.limPrefill else if typ = 1 then t.limDecode else t.limShared

/-- An engine descriptor (R329). -/
def descFields (bs : List Byte) : Desc :=
  let x := ofLe (bs.take 128)
  { version := fld x 15 0, kvLayout := fld x 31 16, modelServe := fld x 63 32, vocabShard := fld x 71 64
    vocabShards := fld x 79 72, kvShard := fld x 87 80, kvShards := fld x 95 88, tileTime := fld x 103 96
    discardLimit := fld x 127 112, completionTimeout := fld x 159 128, ctrlAddr := fld x 223 160
    saveAddr := fld x 287 224, saveBytes := fld x 319 288, planAddr := fld x 383 320, planBytes := fld x 415 384
    cStep := fld x 447 416, cDec := fld x 479 448, cPre := fld x 511 480, cAtt := fld x 543 512
    cMb := fld x 559 544, cSwap := fld x 575 560, eStep := fld x 607 576, ePos := fld x 639 608
    eAtt := fld x 671 640 }

/-- A descriptor inside the ranges and alignments of R329 (R330). -/
def Desc.ok (d : Desc) : Bool :=
  d.version = 3 && (d.vocabShards = 0 || d.vocabShard < d.vocabShards) && 1 ≤ d.kvShards && d.kvShard < d.kvShards &&
    1 ≤ d.tileTime && d.tileTime ≤ 200 && 1 ≤ d.completionTimeout && d.ctrlAddr % 64 = 0 && d.saveAddr % 4096 = 0 &&
    d.saveBytes ≤ 268435456 && d.planAddr % 256 = 0 && 65536 ≤ d.planBytes && d.planBytes % 256 = 0

/-- The configuration items of a CFG_WRITE body: offset, data, byte enables (R195). -/
def cfgItems (p : Packet) : List (Nat × Nat × Nat) :=
  ((chunks 16 (p.opf 207 192) p.body).take (p.opf 207 192)).map fun b =>
    let x := ofLe b
    (fld x 31 0, fld x 63 32, fld x 67 64)

/-- The private-expert ranges of a VARIANT_SET body (R200). -/
def variantRanges (p : Packet) : List (Nat × Nat × Nat) :=
  ((chunks 8 (p.opf 239 224) (p.body.drop 32)).take (p.opf 239 224)).map fun b =>
    let x := ofLe b
    (fld x 15 0, fld x 27 16, fld x 39 28)

/-- A context bitmap (R157): bit 0 is ignored. -/
def bitmap (bs : List Byte) : BitVec 256 := BitVec.ofNat 256 (ofLe (bs.take 32)) &&& ~~~ (1 : BitVec 256)

end Sys2Proof.Machine
end

