-- ==== Sys2Proof/Machine/Links.lean ====
section
/-! DEFINITION. Frames on the pairing link and the peer links, and the sending of peer messages (R727 to R729, R735, R761
to R764, R775). -/

namespace Sys2Proof.Machine

/-- The 32-byte body of HEARTBEAT and HELLO (R729, R761). -/
def Heartbeat.bytes (h : Heartbeat) : List Byte :=
  leBytes 32 (pack [(0, 4, h.state), (4, 1, b01 h.ready), (5, 1, b01 h.empty), (32, 32, h.takeovers), (64, 32, h.version),
    (96, 1, h.config), (112, 16, h.srcId), (128, 64, h.fabBase), (192, 8, h.parkGib), (225, 3, h.pos)])

/-- The 16-byte header of a HEARTBEAT or HELLO frame with FCRC zero (R727): FKIND, FLEN 3, FSEQ 0. -/
def beatHeader (kind ackseq : Nat) : List Byte := leBytes 16 (pack [(0, 8, kind), (16, 16, 3), (64, 32, ackseq)])

/-- FCRC of a HEARTBEAT (0x01) or HELLO (0x10) frame (R727). -/
def beatCrc (kind ackseq : Nat) (h : Heartbeat) : Word := crc32c (beatHeader kind ackseq ++ h.bytes)

/-- Change every point in time that a pool holds: `f` those that have passed, `g` the one to come, at which a paced plan may
go out (R649). -/
def Pool.times (f g : Nat → Nat) (p : Pool) : Pool :=
  let step (s : Step) : Step := { s with
    deliveredAt := s.deliveredAt.map f, acked := s.acked.map fun (e, t) => (e, f t), heldAt := s.heldAt.map f }
  { p with
    exec := p.exec.map step, held := p.held.map step, paceUntil := p.paceUntil.map g, committedAt := f p.committedAt
    yield := match p.yield with | .timing t => .timing (f t) | y => y
    closing := p.closing.map fun c => if c.at_ = 2 ^ 64 then c else { c with at_ := f c.at_ } }

/-- Change every point in time that a sequence's state holds. -/
def Seq.times (f : Nat → Nat) (x : Seq) : Seq :=
  { x with stallAt := x.stallAt.map f, park := x.park.map fun r => { r with at_ := f r.at_ } }

/-- Change the points in time of a decision: `f` those that count as elapsed durations, `g` the rest as remaining ones. -/
def Decision.times (f g : Nat → Nat) (d : Decision) : Decision :=
  match d with
  | .entry s e x a b c => .entry s e (x.map (Seq.times f)) a b c
  | .pool n p => .pool n (p.map (Pool.times f g))
  | .seg n s => .seg n (s.map fun g => { g with lastRef := f g.lastRef })
  | .hostCtx n h => .hostCtx n { h with graceAt := h.graceAt.map f }
  | d => d

/-- The FKIND of a frame (R727, R761); a horn marker has none of its own in the spec and is told by its body (DESIGN CHOICE,
log entry 139). -/
def FrameBody.fkind (b : FrameBody) : Option Nat :=
  match b with
  | .heartbeat _ => some 0x01
  | .command _ _ _ => some 0x02
  | .decision _ => some 0x03
  | .bulk _ => some 0x04
  | .parkData _ _ _ _ => some 0x05
  | .hello _ => some 0x10
  | .peer _ _ m => some (match m with
    | .forward _ _ _ _ => 0x11
    | .answer _ _ => 0x12
    | .relay _ _ | .relayTaken _ _ => 0x13
    | .quota _ => 0x14
    | .migData _ _ _ _ | .migTaken _ _ | .migReturn _ | .migRead _ | .migBytes _ _ => 0x15)
  | .marker _ _ => none

/-- What has waited `n` hns at the instance: durations that have elapsed grow, those that remain shrink (R83). -/
def Decision.aged (n : Nat) (d : Decision) : Decision :=
  match d.times (· + n) (· - n) with
  | .entry s e x a b c => .entry s e x (a + n) (b - n) (c + n)
  | .handle k h left => .handle k h (left - n)
  | d => d

namespace Work

/-! Links. -/

/-- A link: 0 the pairing link, 1 to 3 the peer links. -/
def link (w : Work) (k : Nat) : Link := if k = 0 then w.fs.twin.link else w.fs.peer.links.getD (k - 1) {}
/-- Change a link. -/
def modLink (w : Work) (k : Nat) (g : Link → Link) : Work :=
  w.modFs fun f =>
    if k = 0 then { f with twin := { f.twin with link := g f.twin.link } }
    else { f with peer := { f.peer with links := f.peer.links.modD (k - 1) {} g } }

/-- ACKSEQ of the frames sent on a link (R727, R743). -/
def ackseq (w : Work) (k : Nat) : Nat :=
  let l := w.link k
  match l.ackCap with | some n => Nat.min l.taken n | none => l.taken

/-- A decision as a frame carries it at this moment: durations in place of points in time, those that remain rounded up
(R735). -/
def onWire (w : Work) (d : Decision) : Decision :=
  let since (t : Nat) : Nat := w.hnsDown (w.now - t)
  let left (t : Nat) : Nat := w.hnsUp (t - w.now)
  match d with
  | .entry s e x _ _ _ => .entry s e (x.map (Seq.times since)) (since e.admitAt)
      (if e.deadline = 0 then 0 else left e.deadline) (since e.lastEmitAt)
  | .handle k h _ => .handle k h (match h with
      | some { expiry := some t, .. } => left t
      | _ => 0)
  | .hostCtx n h => .hostCtx n { h with graceAt := h.graceAt.map fun t => w.hnsDown (w.hsNow - t) }
  | d => d.times since left

/-- A frame as it leaves at this moment: the durations of a decision are computed anew (R735), and a remaining budget in a
packet or a FORWARD has lost the time since the frame was made, with the link allowance (R83; a FORWARD loses the allowance
where it is sent). -/
def frameNow (w : Work) (k : Nat) (f : Frame) : Frame :=
  let gone := w.hnsUp (w.now - f.since)
  { fseq := f.fseq, ackseq := w.ackseq k, kind := f.body.fkind
    body := match f.body with
      | .decision d => .decision (w.onWire d)
      | .bulk d => .bulk (w.onWire d)
      | .command port o p => .command port o (spendBudget p o (gone + 5))
      | .peer s d (.forward n port p b) => .peer s d (.forward n port p (b - gone))
      | b => b }

/-- Send a numbered frame on a link and keep it until it is acknowledged (R727, R728). An ISOLATED ACTIVE only keeps it
(R749). -/
def sendFrame (w : Work) (k : Nat) (b : FrameBody) : Work :=
  let l := w.link k
  let kept := k = 0 && w.twinState = .isolated
  let f : Frame := { fseq := l.nextSeq, ackseq := 0, body := b, kind := b.fkind, since := w.now, sent := !kept }
  let w := w.modLink k fun l => { l with
    nextSeq := l.nextSeq + 1, unacked := l.unacked ++ [f], ackAt := if l.unacked.isEmpty then w.now else l.ackAt }
  if kept then w
  else (w.eff (.frame k (w.frameNow k f))).whenDo (k = 0) fun w => w.count cTwinFramesTx

/-- Send a frame with FSEQ 0: it is neither acknowledged nor sent again (R727). -/
def sendUnnumbered (w : Work) (k : Nat) (b : FrameBody) : Work :=
  w.eff (.frame k { fseq := 0, ackseq := w.ackseq k, body := b, kind := b.fkind })

/-- Send such a frame to the twin; TWIN_FRAMES_TX counts every frame but a heartbeat (R758). -/
def sendToTwin (w : Work) (b : FrameBody) : Work := (w.sendUnnumbered 0 b).count cTwinFramesTx


/-- Park copies go to the twin: STATE_AND_PARK (R742). -/
def mirrorsPark (w : Work) : Bool := w.mirrors && w.fs.twin.mirror = 1

/-- Send a park copy's bytes in PARK_DATA frames of at most 4,096 bytes (R727, R742). -/
def sendParkData (w : Work) (n : Nat) (bytes : List Byte) (handle : Bool) : Work :=
  let parts := chunks 4096 bytes.length bytes
  w.each ((List.range parts.length).zip parts) fun w (i, b) => w.sendFrame 0 (.parkData n (4096 * i) b handle)

/-- Take an ACKSEQ (R728). -/
def takeAck (w : Work) (k n : Nat) : Work :=
  let l := w.link k
  if l.acked < n ∧ n < l.nextSeq then
    w.modLink k fun l => { l with acked := n, ackAt := w.now, unacked := l.unacked.filter fun f => n < f.fseq }
  else w

/-- A frame is discarded (R728). -/
def badFrame (w : Work) (k : Nat) : Work := w.whenDo (k = 0) fun w => w.count cTwinFrameBad

/-- Take a frame in order (R728); none where it is discarded. A frame of the pairing link with FSEQ 0 stands in no
order. -/
def takeFrame (w : Work) (f : FrameIn) : Option Work :=
  let l := w.link f.link
  let free := f.link = 0 && f.fseq = 0
  if !f.crcOk || (!free && f.fseq ≠ l.taken + 1) then none
  else
    let w := w.modLink f.link fun l => { l with lastValid := some w.now, taken := if free then l.taken else f.fseq }
    some (w.takeAck f.link f.ackseq)

/-- FRAME_RESEND: 20 µs without progress of ACKSEQ (R728). A MISWIRED link carries no frame but HELLO (R762). -/
def frameResend (w : Work) (k : Nat) : Work :=
  let l := w.link k
  if l.unacked.isEmpty || !w.fired l.ackAt 200 || (k = 0 && w.twinState = .isolated) || 3 < k || l.miswired then w
  else
    let w := w.each l.unacked fun w f => w.eff (.frame k (w.frameNow k f))
    (w.modLink k fun l => { l with ackAt := w.now }).whenDo (k = 0) fun w => w.count cTwinResends l.unacked.length

/-! Peer messages (R763, R764, R775). -/

/-- A position is a member (R764). -/
def isMember (w : Work) (pos : Nat) : Bool := bit (w.reg rGroupCfg) (8 + pos)

/-- A forwarded budget loses the link allowance at each sending (R83). -/
def sentMsg (m : PeerMsg) : PeerMsg :=
  match m with
  | .forward n port p b => .forward n port p (b - 5)
  | m => m

/-- Pass a peer message toward its position: over the peer port of the lowest differing bit, or to the twin; one that finds
no path waits for one (R763). -/
def passPeer (w : Work) (src dest : Nat) (m : PeerMsg) : Work :=
  let viaTwin (w : Work) : Work :=
    if w.twinHeard then w.sendToTwin (.peer src dest (sentMsg m))
    else w.modFs fun f => { f with peer := { f.peer with noPath := f.peer.noPath ++ [{ src := src, dest := dest, msg := m, at_ := w.now }] } }
  match w.hopTo dest with
  | some i => if (w.link (i + 1)).up then w.sendFrame (i + 1) (.peer src dest (sentMsg m)) else viaTwin w
  | none => viaTwin w

/-- A message that has waited `n` hns for a path: a forwarded budget has shrunk (R83). -/
def agedMsg (n : Nat) (m : PeerMsg) : PeerMsg :=
  match m with
  | .forward num port p b => .forward num port p (b - n)
  | m => m

/-- A path may have come back: the messages that wait for one go on, oldest first, and those that have waited PEER_LOSS are
undeliverable and go (R763). -/
def retryPaths (w : Work) : Work :=
  let l := w.fs.peer.noPath
  let w := w.modFs fun f => { f with peer := { f.peer with noPath := [] } }
  w.each l fun w x =>
    if w.lapsed x.at_ (fld (w.reg rGroupTiming) 15 0) then w
    else if w.hopTo x.dest ≠ none && w.pathTo x.dest || (w.hopTo x.dest = none && w.twinHeard) then
      w.passPeer x.src x.dest (agedMsg (w.hnsUp (w.now - x.at_)) x.msg)
    else w.modFs fun f => { f with peer := { f.peer with noPath := f.peer.noPath ++ [x] } }

/-- Send a peer message to a member (R763, R764). -/
def sendPeer (w : Work) (dest : Nat) (m : PeerMsg) : Work :=
  if w.isMember dest && dest ≠ w.idn.grpPos then w.passPeer w.idn.grpPos dest m else w

/-- A ring record of a forwarded sequence leaves for the receiving member, and is kept until it is acknowledged (R775). -/
def sendRelayNow (w : Work) (member num : Nat) (r : RingRec) : Work :=
  ((w.modFs fun f => { f with peer := { f.peer with relays := f.peer.relays ++ [(member, num, r)] } }).sendPeer member
    (.relay num r)).count cPeerRelayed

/-- Send a ring record of a forwarded sequence: in a pair it waits for the twin's acknowledgement (R550, R733). -/
def sendRelay (w : Work) (member num : Nat) (r : RingRec) : Work :=
  if w.holdsItems then
    w.modFs fun f => { f with twin := { f.twin with
      heldRelays := f.twin.heldRelays ++ [(f.twin.link.nextSeq, member, num, r)] } }
  else w.sendRelayNow member num r

end Work

end Sys2Proof.Machine
end

