-- ==== Sys2Proof/Machine/Gate.lean ====
section
/-! DEFINITION. The host half of the message gate: framing, authentication, freezes, duplicates, sequence numbers,
opcode and length checks, credits and the submission queues (R90 to R119). -/

namespace Sys2Proof.Machine

/-! Opcodes (R145). -/

def opSubmit : Nat := 0x01
def opAppend : Nat := 0x02
def opCancel : Nat := 0x03
def opPause : Nat := 0x04
def opResume : Nat := 0x05
def opCredit : Nat := 0x06
def opPrefixPut : Nat := 0x07
def opPrefixDrop : Nat := 0x08
def opQuery : Nat := 0x09
def opStatsRead : Nat := 0x0A
def opPing : Nat := 0x0B
def opCfgRead : Nat := 0x40
def opCfgWrite : Nat := 0x41
def opModelLoad : Nat := 0x42
def opVariantSet : Nat := 0x43
def opPoolAttach : Nat := 0x44
def opPoolDetach : Nat := 0x45
def opEngineFreeze : Nat := 0x46
def opEngineThaw : Nat := 0x47
def opTenantSet : Nat := 0x48
def opTenantThaw : Nat := 0x49
def opTenantReset : Nat := 0x4A
def opStencilLoad : Nat := 0x4B
def opStencilDrop : Nat := 0x4C
def opSharedGrant : Nat := 0x4D
def opEnvelopeSet : Nat := 0x4E
def opHorn : Nat := 0x4F
def opHornRelease : Nat := 0x50
def opCounterMode : Nat := 0x51
def opTraceSet : Nat := 0x52
def opTwinAttach : Nat := 0x53
def opTwinDetach : Nat := 0x54
def opTakeover : Nat := 0x55

/-- Codes of no opcode: 0x00, 0x80 to 0xFF, and the unassigned ones of R146. -/
def opReserved (o : Nat) : Bool := o = 0 || (0x0C ≤ o && o ≤ 0x3F) || 0x56 ≤ o

/-- Check 7: whether context `c` may send opcode `o` (R145, R147). -/
def opPermitted (c o : Nat) : Bool :=
  if o ≤ 0x08 then 0 < c else if o ≤ 0x0B then true else c = 0

/-- The "Before READY" column of R145. -/
def opBeforeReady (o : Nat) : Bool :=
  o = opStatsRead || o = opPing || (0x40 ≤ o && o ≤ 0x4E && o ≠ opSharedGrant) || (0x51 ≤ o && o ≤ 0x54)

/-- R150 for a fixed part `f` and `n` items of `s` bytes. -/
def itemsFit (len f n s : Nat) : Bool := f + n * s ≤ len && len < f + n * s + 16

/-- ITEMS of a SUBMIT extension (R159). -/
def submitItems (p : Packet) : Nat := ofLe (slice p.body 12 2)

/-- Check 8: the body length is one that the opcode allows (R145, R150). -/
def bodyLengthOk (o : Nat) (p : Packet) : Bool :=
  let len := p.body.length
  if o = opSubmit then
    32 ≤ len && (match p.opf 199 196 with
      | 0 | 1 => itemsFit len 32 (submitItems p) 4
      | 2 => itemsFit len 32 (submitItems p) 16
      | _ => true)
  else if o = opAppend then itemsFit len 0 (p.opf 207 192) 4 || itemsFit len 0 (p.opf 207 192) 16
  else if o = opResume then itemsFit len 0 (p.opf 215 200) 4
  else if o = opPing then true
  else if o = opCfgWrite then 16 ≤ len && itemsFit len 0 (p.opf 207 192) 16
  else if o = opVariantSet then 32 ≤ len && itemsFit len 32 (p.opf 239 224) 8
  else if o = opTenantSet then len = 64
  else if o = opStencilLoad then len = 32
  else if o = opSharedGrant then
    (match p.opf 193 192 with
      | 0 | 1 => len = 32
      | 2 => len = 0
      | _ => len = 0 || len = 32)
  else len = 0

/-- Header bytes 0 to 55 (R90). -/
def headerBytes (opcode : Nat) (p : Packet) : List Byte :=
  leBytes 1 opcode ++ leBytes 1 p.ctx.toNat ++ leBytes 2 ((p.body.length + 64) / 16) ++ leBytes 4 p.cseq.toNat ++
    leBytes 8 p.tag.toNat ++ leBytes 8 p.handle.toNat ++ leBytes 32 p.op.toNat

/-- The MAC verifies under a key (R96, R97). -/
def macOk (key : BitVec 128) (opcode : Nat) (p : Packet) : Bool :=
  (cmac key (headerBytes opcode p ++ p.body)).take 8 = leBytes 8 p.mac.toNat

/-- The key that a packet verifies under (R100, R101, R104). -/
inductive Auth where
  | current | previous | fails
deriving DecidableEq, Repr

namespace Work

/-- The previous key of a context is still in its KEY_GRACE (R101), or the reply to the TENANT_SET that replaced it is not
yet released (DESIGN CHOICE, log entry 120). -/
def inGrace (w : Work) (h : HsCtx) : Bool :=
  match h.graceAt with
  | none => true
  | some t => !w.hsFired t w.hs.keyGrace

/-- Check 2 (R100 to R104). -/
def authOf (w : Work) (opcode : Nat) (p : Packet) : Auth :=
  let h := w.hctx p.ctx.toNat
  let cur := match h.key with | some k => macOk k opcode p | none => false
  let prev := match h.prevKey with | some k => macOk k opcode p && w.inGrace h | none => false
  if cur then (if h.keyExpired then .fails else .current)
  else if prev && h.acceptedPrev < 2 ^ 31 then .previous
  else .fails

/-- A packet is accepted under a key: counts toward the key, with the notices of R102 and R104. A previous key that reaches
2^31 packets in its grace is refused from then on, with the notice and no bit (DESIGN CHOICE, log entry 89). -/
def acceptUnder (w : Work) (a : Auth) (c : Nat) : Work :=
  match a with
  | .fails => w
  | .previous =>
    let n := (w.hctx c).acceptedPrev + 1
    let w := (w.modHctx c fun h => { h with acceptedPrev := n }).count (cStaleKey c)
    if n = 2 ^ 30 then w.notice 0 { status := stKeyAge, obj := c }
    else if n = 2 ^ 31 then w.notice 0 { status := stKeyExpired, obj := c } else w
  | .current =>
    let n := (w.hctx c).accepted + 1
    let w := w.modHctx c fun h => { h with accepted := n }
    if n = 2 ^ 30 then
      (w.modHctx c fun h => { h with keyAged := true }).notice 0 { status := stKeyAge, obj := c }
    else if n = 2 ^ 31 then
      (w.modHctx c fun h => { h with keyExpired := true }).notice 0 { status := stKeyExpired, obj := c }
    else w

end Work

/-- The credits of a context: SQ_DEPTH less the packets queued, being acted on, or answered and not yet released
(R114 to R116). At a thaw the same sum stands, packets still acted on and replies unreleased included (DEDUCED, log entry
90). -/
def HsCtx.credits (h : HsCtx) : Nat :=
  h.sqDepth - ((h.queue.filter fun i => i.opcode ≠ opCredit && !i.dup).length +
    (if h.acting.isSome then 1 else 0) + (h.stream.filter (·.credit)).length)

/-- The reply to a packet (R120). -/
def replyTo (opcode : Nat) (p : Packet) (a : Ans) : Reply :=
  { opcode := opcode, ctx := p.ctx.toNat, status := a.status, cseq := p.cseq.toNat, tag := p.tag.toNat
    obj := a.obj, result := a.result }

namespace Work

/-- Put a packet at the back of its context's submission queue (R113). -/
def enqueue (w : Work) (i : QItem) : Work :=
  w.modHctx i.pkt.ctx.toNat fun h => { h with queue := h.queue ++ [i] }

/-- The pairing unit forwards an accepted packet to the SHADOW (R731) and keeps its CSEQ and MAC (R756). -/
def forwardCommand (w : Work) (i : QItem) : Work :=
  let c := i.pkt.ctx.toNat
  if w.mirrors && !(c = 0 && (i.opcode = opCfgRead || i.opcode = opPing || i.opcode = opStatsRead)) then
    (w.sendFrame 0 (.command i.port i.opcode i.pkt)).modFs fun s => { s with twin := { s.twin with
      recent := s.twin.recent.modD c [] fun l => ((i.pkt.cseq, i.pkt.mac) :: l).take 64
      forwarded := s.twin.forwarded.modD c [] fun l => (i.pkt.cseq :: l).take 512 } }
  else w

/-- What a DUPLICATE reply carries (R109). -/
def duplicate (w : Work) (i : QItem) : Work :=
  w.enqueue { i with answer := some (replyTo i.opcode i.pkt { status := stDuplicate }), dup := true }

/-- R756: in TAKEOVER_GRACE, a tenant packet that fails check 5 equals one of the last 64 commands forwarded. -/
def replayedCommand (w : Work) (p : Packet) : Bool :=
  p.ctx ≠ 0 && w.fs.twin.graceAt.isSome && (w.fs.twin.recent.getD p.ctx.toNat []).any fun x => x.1 = p.cseq && x.2 = p.mac

/-- The host half itself answers a packet that the fabric side cannot take (R837): PING with RESIDENCE alone, a
configuration packet whose every address is host-side is acted on elsewhere, every other packet NOT_READY. -/
def hostAnswer (w : Work) (i : QItem) : Ans :=
  if i.opcode = opPing then { result := w.hnsDown (w.hsNow - i.noted) % 2 ^ 32 } else Ans.refuse stNotReady

/-- Checks 4 to 9 of R105 on an authenticated packet, and its place in the queue. The packet that passes check 5 is the
last accepted one, of check 4 and of R712 (DEDUCED, log entry 122). -/
def checks4to9 (w : Work) (i : QItem) : Work :=
  let p := i.pkt
  let c := p.ctx.toNat
  let h := w.hctx c
  let d := (p.cseq - h.hiSeq).toNat
  if p.cseq = h.hiSeq ∧ h.hiMac = some p.mac then (w.duplicate i).count (cDuplicate c)
  else if ¬ (1 ≤ d ∧ d < 2 ^ 31) then
    if w.replayedCommand p then (w.duplicate i).count cTwinDupReply
    else w.freezeCtx c 0x05 p.cseq
  else
    let w := w.modHctx c fun h => { h with hiSeq := p.cseq, hiMac := some p.mac, lastPort := some i.port }
    if opReserved i.opcode then w.freezeCtx c 0x02 p.cseq
    else if !opPermitted c i.opcode then w.freezeCtx c 0x01 p.cseq
    else if !bodyLengthOk i.opcode p then w.freezeCtx c 0x04 p.cseq
    else if i.opcode ≠ opCredit ∧ (w.hctx c).credits = 0 then w.freezeCtx c 0x06 p.cseq
    else (w.forwardCommand i).enqueue i

/-- A former member or a SHADOW discards tenant packets after check 2 (R737, R748). -/
def discardsTenants (w : Work) : Bool :=
  match w.twinState with
  | .attachingS | .pairedS | .taking | .detached => true
  | _ => false

/-- Checks 1 to 9 on one packet that a host port delivered (R105). -/
def admitPacket (w : Work) (port opcode : Nat) (p : Packet) (ecc : List EccEvent) : Work :=
  let c := p.ctx.toNat
  let w := (w.modHs fun h => { h with skipping := h.skipping.filter (· ≠ port) }).count (cRxBeats port)
    ((p.body.length + 64 + 63) / 64)
  if 4096 < p.body.length ∨ p.body.length % 16 ≠ 0 then w.count (cFramingDrop port)
  else
    let a := w.authOf opcode p
    if a = .fails then w.count (cAuthFail port)
    else if 0 < c ∧ w.discardsTenants then w.count cTwinShadowDrop
    else
      let w := w.acceptUnder a c
      let h := w.hctx c
      if h.resetting ∨ (h.frozen ∧ opcode ≠ opCredit) then w.count (cFrozenDrop c)
      else w.checks4to9 { port := port, opcode := opcode, pkt := p, noted := w.hsNow, ecc := ecc }

end Work

end Sys2Proof.Machine
end

