-- ==== Sys2Proof/Machine/MemQueue.lean ====
section
/-! DEFINITION. The order in which the memory ports serve their accesses: classes, rounds of 64 slots, contexts
(R579 to R583, R613, R614, R628, R694, R702). -/

namespace Sys2Proof.Machine

/-- The context that a prefix handle names as its owner (R154). -/
def prefixOwner (h : Nat) : Nat := fld h 63 56

/-- The classes in table order (R613). -/
def memClasses : List MemClass := [.park, .prefix_, .table, .mirror, .migrate]

/-- A class divides its slots among contexts (R628). -/
def MemClass.byContext (c : MemClass) : Bool :=
  match c with
  | .park | .prefix_ | .table => true
  | .mirror | .migrate => false

/-- One access of a class, of a context where one is given: the oldest job of them loses one. -/
def takeAccess (c : MemClass) (ctx : Option Nat) (l : List MemJob) : List MemJob :=
  match l with
  | [] => []
  | j :: r =>
    if j.cls = c ∧ (ctx = none ∨ ctx = some j.ctx) then (if j.left ≤ 1 then r else { j with left := j.left - 1 } :: r)
    else j :: takeAccess c ctx r

/-- The context whose turn it is in a class, and the slots that its turn still has after this one (R628): the one that
holds the turn while it has slots and accesses left, otherwise the next higher one with an access of the class, with
`weight` slots. -/
def nextTurn (weight : Nat → Nat) (now : Nat × Nat) (waiting : List Nat) : Nat × Nat :=
  let lowest (l : List Nat) : Option Nat := match l with | [] => none | x :: r => some (r.foldl Nat.min x)
  if 0 < now.2 ∧ waiting.contains now.1 then (now.1, now.2 - 1)
  else match lowest (waiting.filter (now.1 < ·)) with
    | some c => (c, weight c - 1)
    | none => let c := (lowest waiting).getD 0; (c, weight c - 1)

/-- One slot of a round: its owner's access, or one of the first class in table order that has any (R614). -/
def serveSlot (weight : Nat → Nat) (owner : MemClass) (p : MemPort) : MemPort :=
  let has (c : MemClass) : Bool := p.jobs.any fun j => j.cls = c
  match if has owner then some owner else memClasses.find? has with
  | none => p
  | some c =>
    if c.byContext then
      let t := nextTurn weight (p.turns.getD c.code (0, 0)) ((p.jobs.filter fun j => j.cls = c).map (·.ctx))
      { p with jobs := takeAccess c (some t.1) p.jobs, turns := p.turns.set c.code t }
    else { p with jobs := takeAccess c none p.jobs }

namespace Work

/-- The weight of a class (R619). -/
def classWeight (w : Work) (c : MemClass) : Nat :=
  match c with
  | .park => fld (w.reg rPkcClass) 7 0
  | .prefix_ => fld (w.reg rPkcClass) 15 8
  | .table => fld (w.reg rPkcClass) 23 16
  | .mirror => fld (w.reg rPkcClass) 31 24
  | .migrate => fld (w.reg (rPkcClass + 4)) 7 0

/-- The slots of a round that a class owns: PARK has the remainder too (R614). -/
def ownedSlots (w : Work) (c : MemClass) : Nat :=
  let all := sumOf (memClasses.map w.classWeight)
  let part (c : MemClass) : Nat := 64 * w.classWeight c / all
  if c = .park then 64 - sumOf ((memClasses.filter (· ≠ .park)).map part) else part c

/-- The owners of a round's 64 slots. R614 gives them no order: they stand in table order (DESIGN CHOICE, log entry
107). -/
def slotOwners (w : Work) : List MemClass := (memClasses.map fun c => List.replicate (w.ownedSlots c) c).flatten

/-- The weight of a context at every memory port (R628). -/
def portWeight (w : Work) (c : Nat) : Nat := fld (w.reg (rPortWeight c)) 7 0

/-- One round of a port. The boundary before it grants what the PHY has asked for (R694). -/
def servedRound (w : Work) (p : MemPort) : MemPort :=
  let p := { p with phyGrants := p.phyGrants + p.phyWaits, phyWaits := 0 }
  if p.jobs.isEmpty then p else w.slotOwners.foldl (fun p c => serveSlot w.portWeight c p) p

/-- The accesses that a port still has before it. -/
def portLoad (p : MemPort) : Nat := sumOf (p.jobs.map (·.left))

/-- Rounds of a port until nothing waits there for `why`; `fuel` bounds them. -/
def servedFor (fuel : Nat) (w : Work) (why : MemWhy) (p : MemPort) : MemPort :=
  match fuel with
  | 0 => p
  | n + 1 => if (p.jobs.any fun j => j.why = why) then w.servedFor n why (w.servedRound p) else p

/-- What `why` waits for at the memory ports has been served, and with it what the rounds took meanwhile (R614). -/
def memServed (w : Work) (why : MemWhy) : Work :=
  w.modFs fun f => { f with memPorts := f.memPorts.mapV fun _ p =>
    if (p.jobs.any fun j => j.why = why) then w.servedFor (portLoad p) why p else p }

/-- One round at every memory port that serves. -/
def memRound (w : Work) : Work :=
  w.modFs fun f => { f with memPorts := f.memPorts.mapV fun _ p => if p.trained && !p.failed then w.servedRound p else p }

/-- Queue `n` accesses of 256 bytes on a port; a failed port takes none (R702). -/
def queueAt (w : Work) (port n : Nat) (c : MemClass) (ctx : Nat) (why : MemWhy) : Work :=
  if n = 0 || (w.fs.memPorts.getD port {}).failed then w
  else w.modFs fun f => { f with memPorts := f.memPorts.modD port {} fun p =>
    { p with jobs := p.jobs ++ [{ cls := c, ctx := ctx, left := n, why := why }] } }

/-- Queue the accesses to the first `n` bytes of a list of extents, each at its own port (R581). -/
def queueExtents (w : Work) (l : List Nat) (n : Nat) (c : MemClass) (ctx : Nat) (why : MemWhy) : Work :=
  w.each ((List.range l.length).zip l) fun w (i, e) =>
    w.queueAt (e % w.idn.memPorts) (ceilDiv (Nat.min 65536 (n - 65536 * i)) 256) c ctx why

/-- Queue the accesses to bytes `lo` up to `hi` of what a list of extents holds, each at its own port (R581). -/
def queueSpan (w : Work) (l : List Nat) (lo hi : Nat) (c : MemClass) (ctx : Nat) (why : MemWhy) : Work :=
  w.each ((List.range l.length).zip l) fun w (i, e) =>
    w.queueAt (e % w.idn.memPorts) (ceilDiv (Nat.min hi (65536 * (i + 1))) 256 - Nat.max lo (65536 * i) / 256) c ctx why

/-- What still waits at the memory ports for the reasons that `p` picks is not begun any more (R612). -/
def dropJobs (w : Work) (p : MemWhy → Bool) : Work :=
  w.modFs fun f => { f with memPorts := f.memPorts.mapV fun _ q => { q with jobs := q.jobs.filter fun j => !p j.why } }

/-- Charge park-tier traffic to a context (R635). -/
def chargePark (w : Work) (c n : Nat) : Work := w.count (cAcct c 7) n

/-- Queue `n` accesses to an interleaved unit of the tables (R579, R613). -/
def queueTable (w : Work) (unit n ctx : Nat) : Work := w.queueAt (unit % w.idn.memPorts) n .table ctx .tables

/-- The bucket of a handle record (R582). -/
def bucketOf (h : Nat) : Nat := (crc64 (leBytes 8 h)).toNat % 2 ^ 18

/-- Queue a read or a write of a handle's bucket: `n` of its two blocks. -/
def queueHandle (w : Work) (h n ctx : Nat) : Work := w.queueTable (bucketOf h / 8) n ctx

/-- The read of 512 bytes that finds a handle's record (R582), as traffic of the handle's owner (R628). -/
def lookUp (w : Work) (h : Nat) : Work := w.queueHandle h 2 (prefixOwner h)

/-- Queue the whole count table of a slot, to be staged or written back (R448, R583). -/
def queueCounts (w : Work) (s ctx : Nat) : Work := w.queueTable (32768 + s) 16 ctx

/-- Queue a write of a slot's park record header (R583). -/
def queueParkHeader (w : Work) (s ctx : Nat) : Work :=
  w.queueTable (32768 + (if w.idn.isM then 65536 else 262144) + s / 64) 1 ctx

end Work

end Sys2Proof.Machine
end

