-- ==== Sys2Proof/Machine/Seqs.lean ====
section
/-! DEFINITION. The life of a sequence: handles, end decisions, the FINAL, release of pages, extents and slots
(R229 to R237, R257, R532 to R549, R581 to R586, R612). -/

namespace Sys2Proof.Machine

/-- What acting on a packet comes to: an answer, a violation at check 10 or 11, or something to wait for. -/
inductive Act where
  | answer (a : Ans)
  | violate (vclass : Nat)
  | wait (v : Wait)
deriving DecidableEq, Repr

/-- What a handle names (R231). -/
inductive Resolved where
  | neverIssued | reissued | foreign | entry (slot : Nat)
deriving DecidableEq, Repr

namespace Work

/-- Resolve sequence handle `h` for context `c` (R231). -/
def resolve (w : Work) (c h : Nat) : Resolved :=
  let s := handleSlot h
  let g := handleGen h
  let e := w.entry s
  let d := (g + 2 ^ 14 - e.gen) % 2 ^ 14
  if w.idn.slots ≤ s ∨ !e.fl.issued then .neverIssued
  else if 1 ≤ d ∧ d ≤ 8191 then .neverIssued
  else if g ≠ e.gen then .reissued
  else if e.ctx ≠ c ∧ c ≠ 0 then .foreign
  else .entry s

/-! Extents (R581 to R586, R707). -/

/-- The first extent of a memory port that is neither used nor lost. -/
def freeOnPort (w : Work) (port : Nat) : Option Nat :=
  let n := w.idn.memPorts
  let taken (e : Nat) : Bool := w.fs.park.used.has e || w.fs.park.lost.has e
  let k := (List.range (w.fs.park.used.length + w.fs.park.lost.length + 1)).find? fun k => !taken (port + k * n)
  match k with
  | some k => if port + k * n < w.extentTotal then some (port + k * n) else none
  | none => none

/-- One extent, from the port after the one that received the latest allocation (R581), passing over ports without a
free extent. -/
def takeExtent (w : Work) : Option (Nat × Work) :=
  let n := w.idn.memPorts
  let cand := (List.range n).findSome? fun i =>
    let port := (w.fs.park.lastPort + 1 + i) % n
    if (w.fs.memPorts.getD port {}).failed then none
    else (w.freeOnPort port).map fun e => (port, e)
  cand.map fun (port, e) =>
    (e, w.modFs fun f => { f with park := { f.park with used := f.park.used.set e (), lastPort := port } })

/-- `n` extents. -/
def takeExtents (w : Work) (n : Nat) : List Nat × Work :=
  match n with
  | 0 => ([], w)
  | k + 1 =>
    match w.takeExtent with
    | some (e, w) => let (l, w) := w.takeExtents k; (e :: l, w)
    | none => ([], w)

/-- A use of `n` fits in this member's slice of a quota; 0 turns the test off (R765). A slice above its quota admits nothing:
the quota has been lowered, and the slice has not yet come down (R769; DEDUCED, log entry 146). -/
def inSlice (quota slice n : Nat) : Bool := quota = 0 || (slice ≤ quota && n ≤ slice)

/-- A context may take `n` further extents (R585, R765). -/
def mayCharge (w : Work) (c n : Nat) : Bool :=
  let x := w.fctx c
  let others := sumOf ((w.fs.ctxs.filter fun (k, _) => k ≠ c).map fun (_, y) =>
    y.tenant.resPark * 16 - y.parkUsed)
  let quota := w.reg (rGqCfg c + 4)
  x.parkUsed + n ≤ x.tenant.limPark * 16 && n + others ≤ w.extentFree &&
    (fld (w.reg rGroupCfg) 0 0 = 0 || inSlice quota x.gqParkSlice (x.parkUsed + n))

/-- Charge `n` extents to a context and take them (R585, R586). -/
def charge (w : Work) (c n : Nat) : Option (List Nat × Work) :=
  if w.mayCharge c n then
    let (l, w) := w.takeExtents n
    some (l, w.modFctx c fun x => { x with parkUsed := x.parkUsed + n })
  else none

/-- Return extents to the free list and to their owner's usage (R584, R586); a lost one leaves the free count (R707). -/
def returnExtents (w : Work) (c : Nat) (l : List Nat) : Work :=
  let w := w.modFctx c fun x => { x with parkUsed := x.parkUsed - l.length }
  w.modFs fun f => { f with park := { f.park with used := l.foldl (fun u e => u.erase e) f.park.used } }

/-! Pages (R275 to R277). -/

/-- Return pages to a pool's free list, in order. -/
def returnPages (w : Work) (p : Nat) (l : List Nat) : Work :=
  w.modPool p fun q => { q with returned := q.returned ++ l }

/-- The pages of a pool that no composition hands out yet: those in a list that the engines hold. The plan that is being
composed removes them from it, unless it goes on with them (R286). Where that left an idle pool with nothing to place, R285,
R286 and R295 cannot all be kept, and the next composition hands them out (DESIGN CHOICE, log entry 103). -/
def barred (q : Pool) (n : Nat) : Bool := !q.unbarred && q.mirror.any fun x => x.2.any fun y => y % 2 ^ 26 = n

/-- Free pages that a composition of the pool can hand out. -/
def handable (q : Pool) : Nat := q.freePages - (q.returned.filter (barred q)).length

/-- Take `n` pages from a pool's free list: never-used ones first, then the returned ones in return order (R276). -/
def takePages (w : Work) (p n : Nat) : List Nat × Work :=
  match w.pool? p with
  | none => ([], w)
  | some q =>
    let a := Nat.min n (q.pages - q.freshPage)
    let fresh := (List.range a).map fun i => q.freshPage + i
    let back := (q.returned.filter fun x => !barred q x).take (n - a)
    (fresh ++ back, w.modPool p fun q => { q with
      freshPage := q.freshPage + a, returned := q.returned.filter fun x => !back.contains x })

/-- Sequences that reference a segment: not FREE, with it among their references (R318). -/
def segUsers (w : Work) (g : Nat) : List Nat :=
  (w.fs.seqs.filter fun (_, x) => x.refs.contains g).map (·.1)

/-- A segment referenced by no sequence and by no other segment. -/
def segIdle (w : Work) (g : Nat) : Bool :=
  (w.segUsers g).isEmpty && !(w.fs.segs.any fun (_, s) => s.bases.contains g)

/-- Release a segment: its pages that no base holds return to the free list (R278, R311). -/
def releaseSeg (w : Work) (g : Nat) : Work :=
  match w.fs.segs.get? g with
  | none => w
  | some s =>
    let w := w.returnPages s.pool (w.segOwnPages s)
    w.modFs fun f => { f with segs := f.segs.erase g }

/-- Fork segments of a pool that nothing references any more are released: in its next phase 1, or by the composition that
took them (R257, R277). -/
def sweepForks (w : Work) (p : Nat) : Work :=
  w.each (w.fs.segs.filter fun (_, s) => s.copy.isNone && s.pool = p) fun w (g, _) => if w.segIdle g then w.releaseSeg g else w

/-! Handle copies (R303, R612). -/

/-- Some handle names the copy. -/
def copyNamed (w : Work) (c : Nat) : Bool := w.fs.handles.any fun (_, r) => r.copy = c
/-- A handle, or a sequence that is not FREE, refers to the copy. -/
def copyWanted (w : Work) (c : Nat) : Bool := w.copyNamed c || w.fs.seqs.any fun (_, x) => x.handle = some c

/-- A copy that nothing names and that has no residency goes, and its extents return (R612). -/
def sweepCopy (w : Work) (c : Nat) : Work :=
  match w.fs.copies.get? c with
  | none => w
  | some k =>
    if k.done && !w.copyWanted c && !(w.fs.segs.any fun (_, s) => s.copy = some c) then
      let w := w.returnExtents k.owner k.extents
      w.modFs fun f => { f with copies := f.copies.erase c }
    else w

/-! Mask states (R480). -/

/-- The record of a mask state. -/
def maskRec (w : Work) (image st : Nat) : Option MaskStateRec :=
  match w.fs.masks.images.get? image with
  | some i => i.states[st]?
  | none => none

/-- MASK_STATE of a sequence is not accepting (R494). -/
def notAccepting (w : Work) (e : RqtEntry) : Bool :=
  e.fl.stencilEn && e.kind = .generate && match w.maskRec e.stencil e.maskState with | some r => !r.accept | none => false

/-! Rings (R532 to R549). -/

/-- The fields of a ring record that the append itself fixes. FALLBACK tells that the output came from the fallback slot:
while a re-route waits for the plan of the slot that the sequence leaves, that plan's appends are made as they would be
without it (R532, R571, R573). -/
def recBase (w : Work) (s : Nat) : RingRec :=
  let e := w.entry s
  { seq := seqHandle s e, pos := e.length, timeDegraded := w.clk.fsDegraded, fallback := e.fl.fbActive && !(w.seq s).unbind
    elapsed := w.hnsDown (w.now - e.admitAt) % 2 ^ 32 }

/-- Send an appended record: on the context's reply stream, or as a RELAY for a forwarded sequence (R547, R775). -/
def sendRec (w : Work) (s : Nat) (r : RingRec) : Work :=
  let x := w.seq s
  match x.home with
  | none => w.stream (w.entry s).ctx { port := x.port, msg := .ring r }
  | some (m, num) => w.sendRelay m num r

/-- Append one record to a sequence's ring (R537, R549). -/
def appendRec (w : Work) (s : Nat) (r : RingRec) : Work :=
  ((w.modSeq s fun x => { x with unreturned := x.unreturned ++ [r] }).count cStuRecords).sendRec s r

/-! The end of a sequence. -/

/-- A delivered plan, executing or held, includes the sequence. -/
def inDelivered (w : Work) (s : Nat) : Bool :=
  w.fs.pools.any fun (_, p) =>
    [p.exec, p.held].any fun o => match o with
      | some st => st.plan.entries.any fun e => e.slot = s
      | none => false

/-- The sequence holds pages on some pool. -/
def holdsPages (w : Work) (s : Nat) : Bool :=
  let x := w.seq s
  !x.own.isEmpty || !x.shared.isEmpty || x.moveFrom.isSome || !x.left.isEmpty

/-- One user of a mask image less; a withdrawn image goes with its last user (R485, R501). -/
def dropImageUser (w : Work) (id : Nat) : Work :=
  match w.fs.masks.images.get? id with
  | none => w
  | some i =>
    let images := if i.users = 1 ∧ i.withdrawn then w.fs.masks.images.erase id
      else w.fs.masks.images.set id { i with users := i.users - 1 }
    w.modFs fun f => { f with masks := { f.masks with images := images } }

/-- The slot becomes FREE: it keeps GEN, CONTEXT, OUTCOME and ISSUED (R228); references, the live count, the image use
and the replay record go (R233, R257, R318, R485, R568). -/
def toFree (w : Work) (s : Nat) : Work :=
  let e := w.entry s
  let x := w.seq s
  let w := w.count cStuDiscarded (b01 x.group.isSome)
  let w := match x.replay with | some l => w.returnExtents e.ctx l | none => w
  let w := w.modFctx e.ctx fun c => { c with seqs := c.seqs - 1 }
  let w := if e.fl.stencilEn then w.dropImageUser e.stencil else w
  let w := w.setEntry s { st := .free, outcome := e.outcome, gen := e.gen, ctx := e.ctx, fl := { issued := true } }
  let w := w.modFs fun f => { f with
    seqs := (f.seqs.mapV fun _ y => if y.follows = some s then { y with follows := none } else y).set s
      { unreturned := x.unreturned, port := x.port, home := x.home, wasOf := some e.reqHandle }
    freeSlots := if f.retired.contains s then f.freeSlots else f.freeSlots ++ [s] }
  match x.handle with | some c => w.sweepCopy c | none => w

/-- DRAINING or a live state becomes DONE, and FREE in the same write when no pages are held (R233). -/
def toDone (w : Work) (s : Nat) : Work :=
  let w := w.modEntry s fun e => { e with st := .done }
  if w.holdsPages s then w else w.toFree s

/-- A migration in progress from a slot. -/
def migrating (w : Work) (s : Nat) : Bool := w.fs.peer.migrations.any fun m => m.slot = s

/-- A migration ends before it has finished: it is counted, and the destination's extents go
back (R779). A copy that was still to be written waits for space again. -/
def abandonMigration (w : Work) (s : Nat) : Work :=
  match w.fs.peer.migrations.find? fun m => m.slot = s with
  | none => w
  | some m =>
    let w := w.modFs fun f => { f with peer := { f.peer with migrations := f.peer.migrations.filter fun x => x.slot ≠ s } }
    let back (r : ParkRec) : ParkRec :=
      if r.copy = CopyState.migrating then { r with copy := .waitSpace, away := none, bytes := [] } else r
    let w := w.modSeq s fun x => { x with park := x.park.map back }
    (w.sendPeer m.dest (.migReturn (seqHandle s (w.entry s)))).count cPeerMigAbandon

/-- The extents of a park record go back: its own, and those that another member holds. What a copy or a restore still had
before it at the memory ports is not begun, and its loads are given up (R612, R778). -/
def dropPark (w : Work) (s : Nat) : Work :=
  match (w.seq s).park with
  | none => w
  | some r =>
    let w := w.abandonMigration s
    let w := match r.away with
      | some d => if r.copy = CopyState.done then w.sendPeer d (.migReturn (seqHandle s (w.entry s))) else w
      | none => w
    let w := (w.dropJobs fun y => y = .copy s || y = .restore s || y = .toTwin s).closeLoads fun l => l.why = .park s
    ((w.returnExtents (w.entry s).ctx r.extents).modSeq s fun x => { x with park := none }).queueParkHeader s (w.entry s).ctx

/-- Append the FINAL and end the sequence (R233, R235, R236, R494). `byEndToken` when the last token was an end
token. -/
def endWith (w : Work) (s outcome code : Nat) (byEndToken : Bool) : Work :=
  let e := w.entry s
  let na := w.notAccepting e && !byEndToken
  let r := { w.recBase s with kind := 1, code := code, outcome := outcome, notAccepting := w.notAccepting e
                              count := e.emitted }
  let w := w.modEntry s fun e => { e with outcome := outcome, fl := { e.fl with pausePending := false } }
  let w := (w.appendRec s r).whenDo na fun w => w.count cMkuUnaccepted
  let w := w.modSeq s fun x => { x with stallAt := none, stallWon := false, staged := none }
  let w := w.dropPark s
  if w.inDelivered s then w.modEntry s fun e => { e with st := .draining } else w.toDone s

/-- An end decision with no append (R234, R235): it wins while the sequence is live, and then the FINAL follows. -/
def endSeq (w : Work) (s outcome code : Nat) : Work :=
  if (w.entry s).st.live then w.endWith s outcome code false else w

/-- An F1 tear-down of a sequence (R849, R851). -/
def faultF1 (w : Work) (s unit cause : Nat) : Work :=
  let h := seqHandle s (w.entry s)
  (w.fault 1 unit cause h).endSeq s 3 0x01

/-- End every live sequence of the contexts that `p` picks, FAILED with CODE 0x04, in ascending slot order (R839,
TENANT_RESET step 4). -/
def endAll (w : Work) (p : Nat → Bool) : Work :=
  w.each (w.slotsWhere fun _ e => e.st.live && p e.ctx) fun w s => w.endSeq s 3 0x04

/-- The request of the sequence that holds slot `s`, or held it last while the slot is FREE. -/
def ownRequest (w : Work) (s : Nat) : Option Nat :=
  if (w.entry s).st = .free then (w.seq s).wasOf else some (w.entry s).reqHandle

/-- The sequences of the request of slot `s` in slot order (R175): those whose slots have been reissued since are no
sequences any more (R176). -/
def requestSlots (w : Work) (s : Nat) : List Nat :=
  match w.ownRequest s with
  | none => [s]
  | r => w.slotsWhere fun t _ => w.ownRequest t = r

/-- The stall timer starts and stops with its conditions (R544). -/
def stallCheck (w : Work) (s : Nat) : Work :=
  let e := w.entry s
  let x := w.seq s
  let runs := (e.st = .prefilling || e.st = .decoding) && x.credits = 0
  if runs then (if x.stallAt.isNone && !x.stallWon then w.setSeq s { x with stallAt := some w.now } else w)
  else if x.stallAt.isSome then w.setSeq s { x with stallAt := none } else w

/-- Remaining budget of a sequence in hns (R84, R187): what is subtracted is rounded up. -/
def remaining (w : Work) (e : RqtEntry) : Nat :=
  if e.deadline = 0 then 0 else w.hnsDown (e.deadline - w.now)

end Work

end Sys2Proof.Machine
end

