-- ==== Sys2Proof/Machine/Predict.lean ====
section
/-! DEFINITION. The step limit, engine costs and the prediction of the deadline monitor; which pools a request may use
and which one it is assigned to (R241, R324, R328, R347, R559 to R566, R910). -/

namespace Sys2Proof.Machine

/-- The largest value of a coefficient among a pool's attached engines (R910). -/
def Work.maxCoef (w : Work) (p : Nat) (g : Desc → Nat) : Nat := maxOf ((w.poolEngines p).map fun (_, e) => g e.desc)

/-- STEP_TARGET, PROFILE, CHUNK_MAX and UNIT_SHARE of a pool. -/
def Work.stepTarget (w : Work) (p : Nat) : Nat := w.reg (rStepCfg p)
def Work.profile (w : Work) (p : Nat) : Nat := fld (w.reg (rSched p)) 1 0
def Work.chunkMax (w : Work) (p : Nat) : Nat := fld (w.reg (rSched p)) 30 17
def Work.unitShare (w : Work) (p : Nat) : Nat := fld (w.reg (rSched p)) 16 8

/-- The step limit of R328, in hns. -/
def Work.stepLimit (w : Work) (p : Nat) : Rat :=
  let t : Rat := w.stepTarget p
  match w.profile p with
  | 0 => t
  | 1 => t * 3 / 2
  | _ => t * 3

/-- The prefill cap of R328: on a shared pool a part of the step limit, elsewhere the step limit alone. -/
def Work.prefillCap (w : Work) (p typ : Nat) : Rat :=
  if typ ≠ 2 then w.stepLimit p
  else match w.profile p with
  | 0 => w.stepLimit p / 4
  | 1 => w.stepLimit p / 2
  | _ => w.stepLimit p

/-- Prefill cost of a chunk (R910). -/
def prefillCost (cPre cAtt pos npos : Nat) : Rat :=
  (cPre * npos : Nat) / (1024 : Rat) + (cAtt * npos * (pos + npos) : Nat) / (1048576 : Rat)

/-- Prefill cost of a chunk on a pool. -/
def Work.chunkCost (w : Work) (p pos npos : Nat) : Rat :=
  prefillCost (w.maxCoef p (·.cPre)) (w.maxCoef p (·.cAtt)) pos npos

/-- LEND: 65,536 less the reserved shares of all contexts for a pool type (R563). -/
def Work.lend (w : Work) (typ : Nat) : Nat := 65536 - sumOf (w.fs.ctxs.map fun (_, x) => x.tenant.resOf typ)

/-- The largest `c` up to `hi` that satisfies a predicate closed downward, at least `lo`: by halving. -/
def largestUpTo (fuel lo hi : Nat) (p : Nat → Bool) : Nat :=
  match fuel with
  | 0 => lo
  | k + 1 =>
    if hi ≤ lo then lo
    else
      let mid := (lo + hi + 1) / 2
      if p mid then largestUpTo k mid hi p else largestUpTo k lo (mid - 1) p

/-- A pool as the prediction sees it for a context: chunk_positions of R563. -/
def Work.chunkPositions (w : Work) (p : Nat) (q : Pool) (ctx s start : Nat) : Nat :=
  let t := (w.fctx ctx).tenant
  let share := Nat.min (t.limOf q.typ) (t.resOf q.typ + w.lend q.typ)
  let lim := w.stepLimit p * share / 65536
  let cPre := w.maxCoef p (·.cPre)
  Nat.max s (largestUpTo 16 0 (w.chunkMax p) fun c =>
    (q.typ ≠ 2 || w.chunkCost p start c ≤ w.prefillCap p q.typ) && (cPre * c : Nat) / (1024 : Rat) ≤ lim)

/-- The envelope of the pool, or of one of its engines, is 0 W (R650). -/
def Work.noWatts (w : Work) (p : Nat) : Bool :=
  fld (w.reg (rPoolEnv p)) 13 0 = 0 || (w.poolEngines p).any fun (e, _) => fld (w.reg (rEngEnv e)) 13 0 = 0

/-- W of R649: the lowest of WATTS_pool and, for each engine, its WATTS divided by its share of the plan's energy. -/
def Work.paceWatts (w : Work) (p : Nat) (pl : Plan) : Rat :=
  let sum := pl.energy.foldl (fun a (_, u) => a + u) (0 : Rat)
  pl.energy.foldl (fun a (e, u) =>
    if u = 0 then a
    else
      let x := (fld (w.reg (rEngEnv e)) 13 0 : Nat) * sum / u
      if x < a then x else a) (fld (w.reg (rPoolEnv p)) 13 0 : Nat)

/-- The paced period of a plan that takes `dur` hns under CAP_HARD (R649). -/
def Work.pacedPeriod (w : Work) (p : Nat) (pl : Plan) : Nat :=
  let lowest := w.paceWatts p pl
  if lowest = 0 then pl.dur else Nat.max pl.dur (ratCeil (10 * pl.energyK / lowest))

/-- A count difference in hns, exactly. -/
def Work.hnsOf (w : Work) (n : Nat) : Rat := (n * 10000 : Nat) / (w.khz : Rat)

/-- What is left of a pool's executing step (R560, R561). -/
def Work.execLeft (w : Work) (q : Pool) : Rat :=
  match q.exec with
  | none => 0
  | some st =>
    match st.deliveredAt with
    | none => st.plan.period
    | some t =>
      let left := (st.plan.period : Rat) - w.hnsOf (w.now - t)
      if left < 0 then 0 else left

/-- A sequence as the prediction sees it: its slot where it has one, the pool it is bound to, the positions received
and not yet prefilled, the first of them, its context and the positions per page. -/
structure PredictQ where
  slot : Option Nat
  bound : Option Nat
  left : Nat
  start : Nat
  ctx : Nat
  s : Nat
deriving DecidableEq, Repr

/-- A plan names the sequence. -/
def PredictQ.namedBy (q : PredictQ) (pl : Plan) : Bool :=
  match q.slot with | some s => pl.entries.any fun e => e.slot = s | none => false

/-- release(q, t) of R560. -/
def Work.release (w : Work) (q : PredictQ) (p : Nat) : Rat :=
  match q.bound with
  | none => 0
  | some r =>
    if r = p then 0
    else match w.pool? r with
    | none => 0
    | some pool =>
      let next := match pool.next with | some pl => if q.namedBy pl then some pl else none | none => none
      let exec := match pool.exec with | some st => q.namedBy st.plan | none => false
      match next with
      | some pl => pl.period + w.execLeft pool
      | none => if exec then w.execLeft pool else 0

/-- wait(p, q) of R561. -/
def Work.waitFor (w : Work) (q : PredictQ) (pool : Pool) : Rat :=
  w.execLeft pool + match pool.next with
    | some pl => if q.namedBy pl then 0 else (pl.period : Rat)
    | none => 0

/-- d of R562. -/
def Work.planDur (w : Work) (p : Nat) (pool : Pool) : Rat :=
  match pool.lastDur with | some d => d | none => w.stepLimit p

/-- Plans that `left` positions from `start` on still take (R559, R563). -/
def Work.plansLeft (w : Work) (p : Nat) (pool : Pool) (ctx s start left : Nat) : Nat :=
  ceilDiv left (w.chunkPositions p pool ctx s start)

/-- predict(q, p, now) of R559: the total is rounded up. -/
def Work.predict (w : Work) (q : PredictQ) (p : Nat) : Nat :=
  match w.pool? p with
  | none => 0
  | some pool =>
    let n := Nat.max (w.plansLeft p pool q.ctx q.s q.start q.left) 1
    ratCeil (w.release q p + w.waitFor q pool + n * w.planDur p pool)

/-! Eligible pools (R241, R314, R324, R589, R625). -/

/-- A pool serves a model slot (R324, R589). -/
def Work.serves (w : Work) (p m : Nat) : Bool :=
  match w.pool? p with
  | none => false
  | some q => bit (w.poolModels p) m && w.pagePos m * q.posBytes + 32 ≤ q.pageBytes

/-- The residency of a handle copy on a pool, placed or being placed. -/
def Work.residency (w : Work) (copy p : Nat) : Option (Nat × Seg) :=
  w.fs.segs.find? fun (_, s) => s.copy = some copy && s.pool = p && !s.dropped

/-- Pages of a handle copy that are resident on a pool: H of R241. -/
def Work.residentOn (w : Work) (copy : Option Nat) (p : Nat) : Nat :=
  match copy with
  | none => 0
  | some c =>
    match w.residency c p, w.fs.copies.get? c with
    | some (_, s), some k => if s.placing then 0 else k.q
    | _, _ => 0

/-- A pool type that can run a request's prefill, or its decode steps (R241, R323, R325). With embedding references it
is the pool that they name alone (R164). -/
def typeOk (decode : Bool) (embedPool : Option Nat) (p typ : Nat) : Bool :=
  if decode then typ ≠ 0 else typ ≠ 1 && match embedPool with | some e => e = p | none => true

/-- A pool that is eligible for a request of a kind on model slot `m` of a context (R241, R273, R314, R421, R625). -/
def Work.eligible (w : Work) (ctx m : Nat) (kind : Kind) (copy embedPool : Option Nat) (decode : Bool) (p : Nat) : Bool :=
  match w.pool? p with
  | none => false
  | some q =>
    w.serves p m && 0 < q.pages && !q.degraded && 0 < (w.fctx ctx).tenant.limOf q.typ && typeOk decode embedPool p q.typ &&
      (kind = .embed || 0 < q.vocabShards) &&
      (match copy with
        | none => true
        | some c => match w.fs.copies.get? c with | some k => k.layout = q.kvLayout | none => true)

/-- The page condition of R241 on a pool. -/
def Work.pagesOk (w : Work) (p positions h s n : Nat) : Bool :=
  match w.pool? p with
  | none => false
  | some q => (positions - h) / s + n ≤ q.freePages - q.reserved

/-- A pool's POOL_VAR_AFF list names the slot and variant (R347). -/
def Work.hasAffinity (w : Work) (p m v : Nat) : Bool :=
  (List.range 8).any fun i =>
    let item := fld (w.reg (rVarAff p + i / 2 * 4)) (i % 2 * 16 + 15) (i % 2 * 16)
    bit item 5 && fld item 4 0 = m && fld item 15 8 = v

/-- The choice of R347 among pools, best first by its five tests. -/
def Work.choosePool (w : Work) (cands : List Nat) (copy : Option Nat) (m v : Nat) (q : PredictQ) : Option Nat :=
  let key (p : Nat) : Nat × Nat × Nat × Nat :=
    let free := match w.pool? p with | some x => x.freePages - x.reserved | none => 0
    (w.residentOn copy p, b01 (w.hasAffinity p m v), w.predict q p, free)
  let better (a b : Nat) : Bool :=
    let (h1, f1, t1, g1) := key a
    let (h2, f2, t2, g2) := key b
    if h1 ≠ h2 then h2 < h1 else if f1 ≠ f2 then f2 < f1 else if t1 ≠ t2 then t1 < t2
    else if g1 ≠ g2 then g2 < g1 else a < b
  match cands with
  | [] => none
  | c :: r => some (r.foldl (fun a b => if better b a then b else a) c)

/-- The pools by number. -/
def Work.poolNums (w : Work) : List Nat := w.fs.pools.map (·.1)

/-- A fallback of a slot that stands (R566). -/
def Work.fallbackOf (w : Work) (m : Nat) : Option Nat :=
  match (w.slot m).fallback with
  | none => none
  | some f =>
    match w.image? m, w.image? f with
    | some a, some b => if a.vocabTag = b.vocabTag then some f else none
    | _, _ => none

/-- A variant of a slot is enabled and granted to a context (R909). -/
def Work.variantOk (w : Work) (ctx m v : Nat) : Bool :=
  match (w.slot m).variants.get? v with
  | some x => x.enabled && bit x.grants.toNat ctx
  | none => v = 0 && bit (w.fctx ctx).tenant.modelGrant m

/-- The slot is loaded and granted, and the variant enabled and granted (R239, order 2). -/
def Work.slotOk (w : Work) (ctx m v : Nat) : Bool :=
  (w.image? m).isSome && bit (w.fctx ctx).tenant.modelGrant m && w.variantOk ctx m v

/-- A mask image satisfies R483 for a slot. -/
def Work.maskFits (w : Work) (id m : Nat) : Bool :=
  match w.fs.masks.images.get? id, w.image? m with
  | some i, some a => i.vocab = a.vocab && i.vocabTag = a.vocabTag
  | _, _ => false

/-- Some shard of the pool is held by no attached engine that is not frozen (R857). -/
def Work.degradedNow (w : Work) (p : Nat) (q : Pool) : Bool :=
  let live := w.liveEngines p
  (List.range q.kvShards).any (fun k => !(live.any fun (_, g) => g.desc.kvShard = k)) ||
    (List.range q.vocabShards).any fun k => !(live.any fun (_, g) => 0 < g.desc.vocabShards && g.desc.vocabShard = k)

end Sys2Proof.Machine
end

