-- ==== Sys2Proof/Machine/Admit.lean ====
section
/-! DEFINITION. SUBMIT and APPEND: filtering, clamps, the admission tests, and the entries that an admission writes
(R158 to R173, R239 to R257, R907, R908). -/

namespace Sys2Proof.Machine

/-- The home position of a prefix handle (R770). -/
def prefixHome (h : Nat) : Nat := fld h 55 53

/-- A table of token counts (R445): count one more of token `t`, evicting from a full table (R449). The flag says that
an entry was evicted. -/
def countToken (l : List (Nat × Nat)) (t : Nat) : List (Nat × Nat) × Bool :=
  if l.any (·.1 = t) then (l.map fun e => if e.1 = t then (e.1, Nat.min (2 ^ 32 - 1) (e.2 + 1)) else e, false)
  else if l.length < 512 then (l ++ [(t, 1)], false)
  else
    let worst := l.foldl (fun (a : Option (Nat × Nat)) e =>
      match a with
      | none => some e
      | some b => if e.2 < b.2 ∨ (e.2 = b.2 ∧ e.1 < b.1) then some e else a) none
    match worst with
    | some b => (l.filter (·.1 ≠ b.1) ++ [(t, 1)], true)
    | none => (l ++ [(t, 1)], false)

/-- A request has a penalty count table (R445, R162). -/
def hasCounts (e : RqtEntry) : Bool :=
  e.kind = .generate && (e.par.repPen ≠ 0x3F80 || bfKey e.par.presPen ≠ 0 || bfKey e.par.freqPen ≠ 0)

/-- A request as the admission unit takes it: the clamped fields, its prompt, its handle and its remaining budget. -/
structure Req where
  ctx : Nat
  port : Nat
  /-- The member that forwarded the SUBMIT, with the forward number (R771). -/
  home : Option (Nat × Nat) := none
  f : SubmitF
  /-- PROMPT_FORM as sent: a change to the fallback writes the handle's positions out, and the form stays. -/
  sent : Nat
  items : List PItem
  handle : Nat
  /-- Remaining budget at receipt, hns (R85). -/
  rem : Nat
deriving DecidableEq, Repr

/-- The pool that a list of embedding references names (R164): none without references. -/
def embedPoolOf (l : List PItem) : Option Nat :=
  l.findSome? fun i => match i with | .emb _ _ _ p => some p | .tok _ => none

/-- Every FORMAT is listed, and all references name one pool (R161, R164). -/
def embedItemsOk (pool : Option Nat) (l : List PItem) : Bool :=
  l.all fun i => match i with | .emb _ _ f p => f ≤ 5 && (pool = none || pool = some p) | .tok _ => true

/-- The token IDs of a prompt, where every position is known as one (R567). -/
def tokensOf (l : List PItem) : Option (List Nat) :=
  l.mapM fun i => match i with | .tok t => some t | .emb _ _ _ _ => none

namespace Work

/-- A packet of opcode `o` may be acted on (R149, R844). -/
def readyFor (w : Work) (o : Nat) : Bool :=
  opBeforeReady o ||
    (w.ready && !(w.fs.boot.phase = .drain && (o = opSubmit || o = opResume || o = opPrefixPut)))

/-- R907: token items at or above VOCAB of a loaded slot are discarded and counted. -/
def filterTokens (w : Work) (c m : Nat) (l : List PItem) : List PItem × Work :=
  match w.image? m with
  | none => (l, w)
  | some i =>
    let kept := l.filter fun x => match x with | .tok t => t < i.vocab | .emb _ _ _ _ => true
    (kept, w.count (cTokenFiltered c) (l.length - kept.length))

/-- The remaining budget that crosses the gate with a packet: host-side time since its receipt is subtracted, rounded
up (R82, R75, R84). A BUDGET of 0 stays 0. -/
def budgetLeft (w : Work) (i : QItem) (b : Nat) : Nat := b - w.hnsUp (w.hsNow - i.noted)

/-- The copy that a prefix handle names. -/
def copyOf (w : Work) (h : Nat) : Option (Nat × HandleCopy) :=
  match w.fs.handles.get? h with
  | none => none
  | some r => (w.fs.copies.get? r.copy).map fun k => (r.copy, k)

/-- Check 12 on a SUBMIT (R126, R127, R162, R165, R447): the clamped fields and the number of clamps. The prompt has
`p` positions. The fields that a score or embed request ignores are written as 0 or as their defaults (DESIGN CHOICE, log
entry 127). -/
def clampSubmit (w : Work) (c p : Nat) (f : SubmitF) : SubmitF × Nat :=
  let t := (w.fctx c).tenant
  let prio := Nat.min f.priority t.prioCeil
  let ring := clampTo 8 64 f.par.ringDepth
  if f.kind = 1 ∨ f.kind = 2 then
    let split := if f.kind = 1 ∧ !f.more ∧ 2 ≤ p then clampTo 1 (p - 1) f.scoreSplit else f.scoreSplit
    ({ f with n := 1, priority := prio, scoreSplit := split, maxTokens := 0, stencilEn := false
              par := { seed := f.par.seed, ringDepth := ring, stop0 := f.par.stop0, stop1 := f.par.stop1
                       stop2 := f.par.stop2, stop3 := f.par.stop3 } },
      b01 (f.n ≠ 1) + b01 (f.priority ≠ prio) + b01 (f.par.ringDepth ≠ ring) + b01 (f.scoreSplit ≠ split))
  else
    let (par, k) := clampParams { f.par with ringDepth := ring }
    let n := clampTo 1 16 f.n
    let mt := if f.kind = 0 then clampTo 1 (Nat.max 1 (1048576 - p)) f.maxTokens else f.maxTokens
    ({ f with n := n, priority := prio, maxTokens := mt, par := par },
      k + b01 (f.n ≠ n) + b01 (f.priority ≠ prio) + b01 (f.par.ringDepth ≠ ring) + b01 (f.maxTokens ≠ mt))

/-- Positions of a request's prompt, with those of its handle (R163). -/
def reqPositions (w : Work) (r : Req) : Nat :=
  itemsPositions r.items + (if r.f.form = 1 then match w.copyOf r.handle with | some (_, k) => k.q | none => 0 else 0)

/-- Order 1 of R239. -/
def test1 (w : Work) (r : Req) : Option Cause :=
  let p := w.reqPositions r
  if 2 < r.f.kind ∨ 2 < r.f.form then some .encoding
  else if r.f.form = 2 ∧ !embedItemsOk (embedPoolOf r.items) r.items then some .encoding
  else if r.f.form = 1 then none
  else if p = 0 ∨ (r.f.kind = 1 ∧ !r.f.more ∧ p < 2) then some .empty
  else if 1048576 ≤ p then some .tooLong
  else none

/-- A mask image that a request of a context on a slot may use (R239 order 2, R483). -/
def maskOk (w : Work) (id c m : Nat) : Bool :=
  match w.fs.masks.images.get? id with
  | some i => !i.withdrawn && bit i.grants.toNat c && w.maskFits id m
  | none => false

/-- A shared handle is present and granted to a context (R156). -/
def sharedOk (w : Work) (h c : Nat) : Bool :=
  match w.fs.handles.get? h with | some r => bit r.grants.toNat c | none => false

/-- Order 2 of R239. -/
def test2 (w : Work) (r : Req) : Bool :=
  w.slotOk r.ctx r.f.model r.f.variant && (!r.f.stencilEn || w.maskOk r.f.stencil r.ctx r.f.model) &&
    (r.f.form ≠ 1 || prefixOwner r.handle ≠ 0 || w.sharedOk r.handle r.ctx)

/-- The handle of a request is present for its slot and variant (R308). -/
def handlePresent (w : Work) (r : Req) : Bool :=
  match w.copyOf r.handle with
  | some (_, k) => k.model = r.f.model && k.variant = r.f.variant
  | none => false

/-- FREE slots. -/
def slotsFree (w : Work) : Nat :=
  (w.idn.slots - w.fs.freshSlot - (w.fs.retired.filter (w.fs.freshSlot ≤ ·)).length) + w.fs.freeSlots.length

/-- Take one FREE slot in the order of R230. -/
def takeSlot (fuel : Nat) (w : Work) : Option (Nat × Work) :=
  match fuel with
  | 0 => none
  | k + 1 =>
    if w.fs.freshSlot < w.idn.slots then
      let s := w.fs.freshSlot
      let w := w.modFs fun f => { f with freshSlot := s + 1 }
      if w.fs.retired.contains s then takeSlot k w else some (s, w)
    else match w.fs.freeSlots with
      | [] => none
      | s :: r => some (s, w.modFs fun f => { f with freeSlots := r })

/-- Take `n` FREE slots. -/
def takeSlots (w : Work) (n : Nat) : List Nat × Work :=
  match n with
  | 0 => ([], w)
  | k + 1 =>
    match takeSlot (w.fs.retired.length + 1) w with
    | none => ([], w)
    | some (s, w) => let (l, w) := w.takeSlots k; (s :: l, w)

/-- GROUP_EN. -/
def groupEn (w : Work) : Bool := bit (w.reg rGroupCfg) 0

/-- The share conditions of R240 and R765 for `n` further sequences, for the given pool types. -/
def shareOk (w : Work) (c n : Nat) (lc : Bool) (types : List Nat) : Bool :=
  let x := w.fctx c
  x.seqs + n ≤ x.tenant.maxSeqs &&
    (!w.groupEn || inSlice (w.reg (rGqCfg c)) x.gqSlice (x.seqs + n)) &&
    (types.any fun t => 0 < x.tenant.limOf t) && (!lc || types.any fun t => 0 < x.tenant.resOf t)

/-- The pool types that can run a request's prefill (R240). -/
def prefillTypes (w : Work) (embedPool : Option Nat) : List Nat :=
  match embedPool with
  | some e => (match w.pool? e with | some q => (if q.typ = 1 then [0, 2] else [q.typ]) | none => [0, 2])
  | none => [0, 2]

/-- The pools that satisfy R241 for a prompt. -/
def admitPools (w : Work) (c m : Nat) (kind : Kind) (copy embedPool : Option Nat) (positions n : Nat) : List Nat :=
  w.poolNums.filter fun p =>
    w.eligible c m kind copy embedPool false p && w.pagesOk p positions (w.residentOn copy p) (w.pagePos m) n

/-- A request has been placed: the slot it runs on, its pool and the prediction. -/
structure Chosen where
  model : Nat
  pool : Nat
  pred : Nat
  fb : Bool
  /-- The request after a change to the fallback: a handle's positions become token items. -/
  req : Req
deriving DecidableEq, Repr

/-- The kind of a clamped request. -/
def kindOf (f : SubmitF) : Kind := if f.kind = 1 then .score else if f.kind = 2 then .embed else .generate

/-- R347 and the prediction for a request on a slot. -/
def chooseFor (w : Work) (r : Req) (m : Nat) : Option (Nat × Nat) :=
  let copy := if r.f.form = 1 then (w.copyOf r.handle).map (·.1) else none
  let hp := if r.f.form = 1 then match w.copyOf r.handle with | some (_, k) => k.q | none => 0 else 0
  let p := w.reqPositions r
  let q : PredictQ := { slot := none, bound := none, left := p - hp, start := hp, ctx := r.ctx, s := w.pagePos m }
  (w.choosePool (w.admitPools r.ctx m (kindOf r.f) copy (embedPoolOf r.items) p r.f.n) copy m r.f.variant q).map
    fun pool => (pool, w.predict q pool)

/-- A request with its handle's positions written out as token items, where all are tokens (R309, R567): so does a handle of
one slot serve on its fallback (DESIGN CHOICE, log entry 129). -/
def withoutHandle (w : Work) (r : Req) : Option Req :=
  if r.f.form ≠ 1 then some r
  else match w.copyOf r.handle with
    | none => none
    | some (_, k) =>
      if k.tokens.any fun t => bit t 31 then none
      else some { r with f := { r.f with form := 0 }, items := k.tokens.map .tok ++ r.items }

/-- Admission on the fallback (R168, R486, R566). -/
def fallbackFor (w : Work) (r : Req) : Option Chosen :=
  match w.fallbackOf r.f.model, w.withoutHandle r with
  | some f, some r' =>
    if r.f.fallbackOk ∧ w.slotOk r.ctx f r.f.variant ∧ (!r.f.stencilEn ∨ w.maskFits r.f.stencil f) then
      match w.chooseFor r' f with
      | some (pool, pred) => if pred ≤ r.rem then some ⟨f, pool, pred, true, r'⟩ else none
      | none => none
    else none
  | _, _ => none

/-- Orders 1 to 7 of R239 (R166). EMPTY and TOO_LONG of a prompt that begins with a handle come after NO_PREFIX, since the
handle gives its positions; for TOO_LONG the spec names no place (DESIGN CHOICE, log entry 128). -/
def admissionTests (w : Work) (r : Req) : Except Ans Chosen :=
  let types := w.prefillTypes (embedPoolOf r.items)
  match w.test1 r with
  | some c => .error (Ans.bad c)
  | none =>
    if !w.test2 r then .error (Ans.refuse stNotGranted)
    else if r.f.form = 1 ∧ !w.handlePresent r then .error (Ans.refuse stNoPrefix)
    else if r.f.form = 1 ∧ (w.reqPositions r = 0 ∨ (r.f.kind = 1 ∧ !r.f.more ∧ w.reqPositions r < 2)) then
      .error (Ans.bad .empty)
    else if r.f.form = 1 ∧ 1048576 ≤ w.reqPositions r then .error (Ans.bad .tooLong)
    else if w.slotsFree < r.f.n then .error (Ans.refuse stTableFull)
    else if !w.shareOk r.ctx r.f.n r.f.lc types then .error (Ans.refuse stNoShare)
    else match w.chooseFor r r.f.model with
      | none => .error (Ans.refuse stNoPages)
      | some (pool, pred) =>
        if r.f.lc ∧ r.rem < pred then
          match w.fallbackFor r with
          | some c => .ok c
          | none => .error (Ans.refuse stInfeasible)
        else .ok ⟨r.f.model, pool, pred, false, r⟩

/-- The grant and mask tests of re-routing (R567): the fallback that a sequence could move to. -/
def rerouteSlot (w : Work) (e : RqtEntry) (x : Seq) : Option Nat :=
  match w.fallbackOf e.model with
  | none => none
  | some f =>
    let known := (tokensOf x.items).isSome &&
      (match x.handle with
        | none => true
        | some c => match w.fs.copies.get? c with | some k => !(k.tokens.any fun t => bit t 31) | none => false)
    if e.fl.fallbackOk && !e.fl.fbActive && w.slotOk e.ctx f e.variant && (!e.fl.stencilEn || w.maskFits e.stencil f) &&
      known then some f else none

/-- Extents of `n` positions at 4 bytes each (R309, R568): an extent is 64 KiB. -/
def listExtents (n : Nat) : Nat := ceilDiv (4 * n) 65536

/-- The traffic of positions `lo` up to `hi` of a replay record that lies on extents `l`: TABLE accesses, charged to the
owning context (R613, R635). -/
def replayTraffic (w : Work) (l : List Nat) (lo hi ctx : Nat) : Work :=
  (w.queueSpan l (4 * lo) (4 * hi) .table ctx .tables).chargePark ctx (4 * (hi - lo))

/-- The replay record of a sequence grows from `old` to `n` positions; when the charge fails the record is given up
(R568). -/
def growReplay (w : Work) (s old n : Nat) : Work :=
  match (w.seq s).replay with
  | none => w
  | some l =>
    let c := (w.entry s).ctx
    let more := listExtents n - l.length
    if more = 0 then (if old < n then w.replayTraffic l old n c else w)
    else match w.charge c more with
      | some (k, w) => (w.modSeq s fun x => { x with replay := some (l ++ k) }).replayTraffic (l ++ k) old n c
      | none => (w.returnExtents c l).modSeq s fun x => { x with replay := none }

/-- A sequence leaves its pool: a staged count table is written back to the park tier (R448). -/
def writeBack (w : Work) (s : Nat) : Work :=
  if (w.seq s).staged.isSome then w.queueCounts s (w.entry s).ctx else w

/-- Count prompt tokens into a sequence's count table (R445). -/
def countPrompt (w : Work) (s : Nat) (toks : List Nat) : Work :=
  let e := w.entry s
  if e.fl.promptCounts && hasCounts e then
    w.each toks fun w t =>
      let (l, ev) := countToken (w.seq s).counts t
      (w.modSeq s fun x => { x with counts := l }).whenDo ev fun w =>
        w.count (cPenEvict (if e.fl.bound then e.pool else (w.seq s).assigned.getD 0))
  else w

/-- The token positions of a list of items. -/
def tokPositions (l : List PItem) : List Nat :=
  l.filterMap fun i => match i with | .tok t => some t | .emb _ _ _ _ => none

/-- Write the entry of fork `k` of a request (R224, R248, R251, R252, R484, R537). Of EMBED_POOL the entry keeps bit 0: R159
gives the values 2 to 15 no meaning and no refusal (DESIGN CHOICE, log entry 93). -/
def writeEntry (w : Work) (c : Chosen) (slots : List Nat) (k s reqHandle gen : Nat) : Work :=
  let r := c.req
  let f := r.f
  let copy := if f.form = 1 then w.copyOf r.handle else none
  let hp := match copy with | some (_, x) => x.q | none => 0
  let start := if f.stencilEn then match w.fs.masks.images.get? f.stencil with | some i => i.start | none => 0 else 0
  let e : RqtEntry :=
    { st := .queued, gen := gen, ctx := r.ctx, kind := kindOf f, promptForm := r.sent, embedPool := fld f.embedPool 0 0
      fl := { lc := f.lc, fallbackOk := f.fallbackOk, fbActive := c.fb, promptCounts := f.promptCounts
              awaitAppend := f.more, issued := true, stencilEn := f.stencilEn }
      n := f.n, fork := k, length := hp, promptLen := w.reqPositions r, maxTokens := f.maxTokens
      scoreSplit := f.scoreSplit, model := c.model, variant := f.variant, priority := f.priority, admitAt := w.now
      deadline := w.now + w.edges r.rem, maskState := start, stencil := f.stencil, par := f.par
      acctRec := r.ctx + 256 * b01 f.lc, reqHandle := reqHandle, nextSib := slots.getD ((k + 1) % f.n) s }
  let x : Seq :=
    { assigned := some c.pool, handle := copy.map (·.1), hPos := hp
      viaShared := copy.isSome && prefixOwner r.handle = 0, items := r.items, kv := hp
      credits := f.par.ringDepth - 1, port := r.port, home := r.home, ttftPred := c.pred, deadlineFrom := w.now }
  let w := (w.setEntry s e).setSeq s x
  let pre := match copy with | some (_, y) => y.tokens.filter (fun t => !bit t 31) | none => []
  w.countPrompt s (pre ++ tokPositions r.items)

/-- The generation of a slot's next issue (R229). -/
def nextGen (w : Work) (s : Nat) : Nat :=
  let e := w.entry s
  if e.fl.issued then (e.gen + 1) % 2 ^ 14 else 0

/-- The replay records of an admitted request, all or none (R568). -/
def replayRecords (w : Work) (slots : List Nat) : Work :=
  match slots with
  | [] => w
  | s0 :: _ =>
    let e := w.entry s0
    let n := listExtents e.promptLen
    if (w.rerouteSlot e (w.seq s0)).isSome && w.mayCharge e.ctx (n * slots.length) then
      w.each slots fun w s =>
        match w.charge e.ctx n with
        | some (l, w) => (w.modSeq s fun x => { x with replay := some l }).replayTraffic l 0 e.promptLen e.ctx
        | none => w
    else w

/-- An admission: the N entries, the counts and the answer (R167, R170, R245 to R248, R642). -/
def admitChosen (w : Work) (c : Chosen) : Work × Ans :=
  let r := c.req
  let (slots, w) := w.takeSlots r.f.n
  let w := w.modFctx r.ctx fun x => { x with seqs := x.seqs + r.f.n }
  let reqHandle := match slots with | s :: _ => s + w.nextGen s * 2 ^ 18 | [] => 0
  let w := w.each ((List.range slots.length).zip slots) fun w (k, s) =>
    w.writeEntry c slots k s reqHandle (w.nextGen s)
  let w := w.replayRecords slots
  let w := if r.f.stencilEn then w.modFs fun f => { f with masks := { f.masks with
      images := f.masks.images.mod r.f.stencil fun i => { i with users := i.users + r.f.n } } } else w
  let w := (w.count (cAcct r.ctx 11) r.f.n).whenDo c.fb fun w => w.count (cFbAdmit r.ctx)
  (w, { obj := reqHandle, result := pack [(0, 8, r.f.n), (8, 1, b01 c.fb), (32, 32, Nat.min (2 ^ 32 - 1) c.pred)] })

/-- Check 13 on a request, and its admission (R239). -/
def decideSubmit (w : Work) (r : Req) : Work × Ans :=
  -- one read of 512 bytes finds a handle's record (R582)
  let w := if r.f.form = 1 then w.lookUp r.handle else w
  match w.admissionTests r with
  | .error a => (w, a)
  | .ok c => w.admitChosen c

/-- The request that a SUBMIT packet carries, with its clamps (check 12). `rem` is the remaining budget that crossed the
gate; 0 with a BUDGET of 0 selects the default (R127, R128). -/
def requestOf (w : Work) (port : Nat) (home : Option (Nat × Nat)) (p : Packet) (rem : Nat) : Work × Req × Nat :=
  let c := p.ctx.toNat
  let f := submitFields p
  let raw := if f.form ≤ 2 then promptItems f.form (submitItems p) (p.body.drop 32) else []
  let (items, w) := w.filterTokens c f.model raw
  let r0 : Req := { ctx := c, port := port, home := home, f := f, sent := f.form, items := items, handle := p.handle.toNat, rem := 0 }
  let (f, k) := w.clampSubmit c (w.reqPositions r0) f
  let (b, kb) := if f.budget = 0 then clampBudget (w.fctx c).tenant 0
    else if rem = 0 then (0, 0) else clampBudget (w.fctx c).tenant rem
  (w, { r0 with f := f, rem := b }, k + kb)

/-- A SUBMIT whose prefix handle has another home leaves as a FORWARD, after the clamps that need no position of the
handle (R771, R773, R83). R771 leaves open where the packet is clamped: the receiver clamps and counts with no prompt
position, and the home clamps and counts again (DESIGN CHOICE, log entry 94). The frame goes out when the home is
a member (R764). -/
def forwardSubmit (w : Work) (i : QItem) (rem : Nat) : Work × Act :=
  let p := i.pkt
  let c := p.ctx.toNat
  let f0 := submitFields p
  let (f, k) := w.clampSubmit c 0 f0
  let (b, kb) := if f.budget = 0 then clampBudget (w.fctx c).tenant 0
    else if rem = 0 then (0, 0) else clampBudget (w.fctx c).tenant rem
  let pkt := withFields p f (Nat.max 1 b)
  let dest := prefixHome p.handle.toNat
  let num := w.fs.peer.nextForward.getD dest 1
  let w := w.modFs fun f => { f with peer := { f.peer with
    nextForward := f.peer.nextForward.set dest (num + 1)
    forwards := f.peer.forwards ++ [{ dest := dest, num := num, port := i.port, pkt := pkt, budget := b, at_ := w.now, firstAt := w.now }] } }
  (((w.count (cClamp c) (k + kb)).count cPeerFwdOut).sendPeer dest (.forward num i.port pkt b), .wait (.forward dest num))

/-- Acting on SUBMIT (R239, R155, R149). -/
def actSubmit (w : Work) (i : QItem) : Work × Act :=
  let p := i.pkt
  let c := p.ctx.toNat
  let h := p.handle.toNat
  let form := (submitFields p).form
  if form = 1 ∧ prefixOwner h ≠ 0 ∧ prefixOwner h ≠ c then (w, .violate 0x03)
  else if !w.readyFor opSubmit then (w, .answer (Ans.refuse stNotReady))
  else
    let rem := w.budgetLeft i (submitFields p).budget
    if w.groupEn ∧ form = 1 ∧ prefixHome h ≠ w.idn.grpPos then
      w.forwardSubmit i rem
    else
      let (w, r, k) := w.requestOf i.port none p rem
      let (w, a) := (w.count (cClamp c) k).decideSubmit r
      (w, .answer a)

/-! APPEND (R172, R173, R908). -/

/-- Write one sequence's share of an APPEND (R908). A sequence that has tokens of its own keeps its list of positions:
only its PROMPT_LEN grows (DEDUCED, log entry 95). -/
def appendItems (w : Work) (items : List PItem) (last : Bool) (split : Option Nat) (s : Nat) : Work :=
  let n := itemsPositions items
  let old := (w.entry s).promptLen
  let w := w.modEntry s fun e => { e with
    promptLen := e.promptLen + n, scoreSplit := split.getD e.scoreSplit
    fl := { e.fl with awaitAppend := e.fl.awaitAppend && !last } }
  let w := w.modSeq s fun x => { x with
    items := if x.tokens.isEmpty then x.items ++ items else x.items, resuming := x.resuming && !last }
  let replayOk := (tokensOf items).isSome
  let w := if replayOk then w.growReplay s old (w.entry s).promptLen
    else match (w.seq s).replay with
      | some l => (w.returnExtents (w.entry s).ctx l).modSeq s fun x => { x with replay := none }
      | none => w
  w.countPrompt s (tokPositions items)

/-- The tests and the effect of an APPEND on a request (R173), its items filtered first (R907), written to every live
sequence of the request (R908). `s` is the entry that the packet names; where it has ended, a live one tells the
request's form and slot. R173 names no place for an unlisted FORMAT or a second pool among an APPEND's references: it is
refused with ENCODING after the length (DESIGN CHOICE, log entry 96). -/
def decideAppend (w : Work) (p : Packet) (s reqHandle : Nat) : Work × Ans :=
  let c := p.ctx.toNat
  let live := w.slotsWhere fun _ e => e.reqHandle = reqHandle && e.st.live
  let waiting := live.filter fun s => (w.entry s).fl.awaitAppend
  let e0 := w.entry (match waiting, live with | t :: _, _ => t | [], t :: _ => t | [], [] => s)
  let form := if e0.promptForm = 2 ∧ !(waiting.any fun s => (w.seq s).resuming) then 2 else 0
  let n := p.opf 207 192
  let (items, w) := if e0.st = .free then ([], w) else w.filterTokens c e0.model (promptItems form n p.body)
  match live, waiting with
  | [], _ => (w, Ans.refuse stNotLive)
  | _ :: _, [] => (w, Ans.bad .notAwaiting)
  | _ :: _, s0 :: _ =>
    let e := w.entry s0
    let total := e.promptLen + itemsPositions items
    let last := p.opf 208 208 = 1
    if !itemsFit p.body.length 0 n (if form = 2 then 16 else 4) then (w, Ans.bad .encoding)
    else if !embedItemsOk (embedPoolOf ((w.seq s0).items ++ items)) items then (w, Ans.bad .encoding)
    else if p.opf 236 216 ≠ e.promptLen then (w, Ans.bad .position)
    else if 1048576 ≤ total then
      (w.each live fun w s => w.endSeq s 3 0x03, Ans.bad .tooLong)
    else if last ∧ (total = 0 ∨ (e.kind = .score ∧ total < 2)) then (w, Ans.bad .empty)
    else
      let split := if last ∧ e.kind = .score then some (clampTo 1 (total - 1) e.scoreSplit) else none
      let w := w.count (cClamp c) (match split with | some v => b01 (v ≠ e.scoreSplit) | none => 0)
      (w.each live (fun w s => w.appendItems items last split s), { result := total })

/-- Resolve the sequence handle of a packet, and act on the entry that it names: NAMESPACE, NOT_READY and NOT_LIVE as
R231, R148 and R149 lay them down. -/
def onHandle (w : Work) (p : Packet) (o h : Nat) (k : Nat → Work × Act) : Work × Act :=
  let c := p.ctx.toNat
  match w.resolve c h with
  | .neverIssued => if c = 0 then (w, .answer (Ans.refuse (if w.readyFor o then stNotLive else stNotReady)))
      else (w, .violate 0x03)
  | .foreign => (w, .violate 0x03)
  | .reissued => (w, .answer (Ans.refuse (if w.readyFor o then stNotLive else stNotReady)))
  | .entry s => if w.readyFor o then k s else (w, .answer (Ans.refuse stNotReady))

/-- The sequence handle in HANDLE: its low 32 bits. -/
def handleOf (p : Packet) : Nat := p.handle.toNat % 2 ^ 32

/-- Acting on APPEND (R173): the request of the sequence that HANDLE names, be it FORK 0 or another (DESIGN CHOICE, log entry
130). -/
def actAppend (w : Work) (i : QItem) : Work × Act :=
  w.onHandle i.pkt opAppend (handleOf i.pkt) fun s =>
    let e := w.entry s
    let (w, a) := w.decideAppend i.pkt s (if e.st = .free then handleOf i.pkt else e.reqHandle)
    (w, .answer a)

end Work

end Sys2Proof.Machine
end

