-- ==== Sys2Proof/Machine/Pages.lean ====
section
/-! DEFINITION. The page manager: page lists, segments, residencies, prefix handles, the release phase, placements and
handovers (R266 to R322). -/

namespace Sys2Proof.Machine

/-- A page ID (R269). -/
def pageId (pool page : Nat) : Nat := page + pool * 2 ^ 26

/-- The plans of a pool: executing, held, composed and interposed. -/
def Pool.plans (p : Pool) : List Plan :=
  p.exec.toList.map (·.plan) ++ p.held.toList.map (·.plan) ++ p.next.toList ++ p.interp.toList

namespace Work

/-! Lists (R279). -/

/-- The page IDs of a slice of a segment. -/
def slicePages (w : Work) (x : SegSlice) : List Nat :=
  match w.fs.segs.get? x.seg with
  | some g => ((g.pages.drop x.start).take x.len).map (pageId g.pool)
  | none => []

/-- The pages that the sequence's own list holds: its segments', then its own. -/
def ownList (w : Work) (s : Nat) : List Nat :=
  let x := w.seq s
  (x.shared.map w.slicePages).flatten ++ x.own.map (pageId x.ownPool)

/-- The pages ahead of a sequence's own: its segments'. A fork whose prompt pages are not all committed has those of the
fork that prefills for it (R253, R294). -/
def leadOf (w : Work) (s : Nat) : List Nat :=
  let x := w.seq s
  match x.follows with
  | some l => (w.ownList l).take ((w.entry s).promptLen / w.pagePos (w.asNamed s).model)
  | none => (x.shared.map w.slicePages).flatten

/-- A sequence's page list. -/
def listOf (w : Work) (s : Nat) : List Nat := w.leadOf s ++ (w.seq s).own.map (pageId (w.seq s).ownPool)

/-- Entries of a sequence's page list. -/
def listLen (w : Work) (s : Nat) : Nat := (w.leadOf s).length + (w.seq s).own.length

/-- The source list of a handover (R304). -/
def sourceList (w : Work) (x : Seq) : List Nat :=
  match x.moveFrom with
  | some (p, own, sl) => (sl.map w.slicePages).flatten ++ own.map (pageId p)
  | none => []

/-- Some plan of pool `p`, delivered or composed, names the slot's sequence. -/
def inPlanOf (w : Work) (p s : Nat) : Bool :=
  match w.pool? p with
  | some q => q.plans.any fun pl => pl.entries.any fun e => e.slot = s
  | none => false

/-- Some plan of some pool, delivered or composed, names the slot's sequence. -/
def inPlan (w : Work) (s : Nat) : Bool :=
  w.fs.pools.any fun (_, p) => p.plans.any fun pl => pl.entries.any fun e => e.slot = s

/-! Handle copies and residencies (R302, R303, R307 to R321, R612). -/

/-- The park-tier copy of a residency has finished. -/
def copyDone (w : Work) (g : Seg) : Bool :=
  match g.copy with
  | some c => (match w.fs.copies.get? c with | some k => k.done | none => true)
  | none => false

/-- The joiners that wait for a placement of copy `c` on pool `p`, or for the plan that takes them there (R313, R318). -/
def waitingFor (w : Work) (c p : Nat) : List Nat :=
  w.slotsWhere fun s e =>
    let x := w.seq s
    e.st = .queued && x.handle = some c && 0 < x.hPos && x.assigned = some p && x.shared.isEmpty && x.park.isNone

/-- An idle residency: no sequence refers to it, a joiner that waits for it included (R302, R318). -/
def resIdle (w : Work) (g : Nat) (s : Seg) : Bool :=
  !s.placing && !s.dropped && w.copyDone s && w.segIdle g &&
    match s.copy with | some c => (w.waitingFor c s.pool).isEmpty | none => false

/-- Release an idle residency (R302, R322). -/
def releaseIdle (w : Work) (g : Nat) : Work :=
  match w.fs.segs.get? g with
  | none => w
  | some s =>
    let w := (w.releaseSeg g).count (cResReleased s.pool)
    match s.copy with | some c => w.sweepCopy c | none => w

/-- The idle residencies of a pool, oldest last reference first (R295). -/
def idleResidencies (w : Work) (p : Nat) : List Nat :=
  let l := w.fs.segs.filter fun (g, s) => s.pool = p && w.resIdle g s
  let rec ins (x : Nat × Nat) (l : List (Nat × Nat)) : List (Nat × Nat) :=
    match l with
    | [] => [x]
    | y :: r => if x.2 < y.2 then x :: y :: r else y :: ins x r
  (l.foldl (fun a (g, s) => ins (g, s.lastRef) a) []).map (·.1)

/-- Remove a prefix handle from its namespace (R186, R317). -/
def removeHandle (w : Work) (h : Nat) : Work :=
  match w.fs.handles.get? h with
  | none => w
  | some r => ((w.modFs fun f => { f with handles := f.handles.erase h }).queueHandle h 1 (prefixOwner h)).sweepCopy r.copy

/-- Remove every handle that `p` picks. -/
def removeHandles (w : Work) (p : Nat → HandleRec → Bool) : Work :=
  w.each (w.fs.handles.filter fun (h, r) => p h r) fun w (h, _) => w.removeHandle h

/-- Pages of an engine's memory hold page `n` of its pool at this address (R588). -/
def pageAddr (q : Pool) (d : Desc) (n : Nat) : Nat := d.ctrlAddr + q.kvOffset + n * q.pageBytes

/-- The live engines of a pool that hold a KV shard. -/
def shardEngines (w : Work) (p shard : Nat) : List (Nat × Engine) :=
  (w.liveEngines p).filter fun (_, e) => e.desc.kvShard = shard

/-- The attached engine that a shard is read from first: the lowest unfrozen one, or the lowest frozen one where no other
holds the shard (R593, R859). -/
def shardSource (w : Work) (p shard : Nat) : Option (Nat × Engine) :=
  let l := (w.poolEngines p).filter fun (_, e) => e.desc.kvShard = shard
  match l.find? fun (_, e) => !e.frozen with
  | some x => some x
  | none => l.head?

/-- Store whole pages to every live engine of a pool that holds each shard: `bytes` holds the pages of shard 0, then
those of shard 1, and so on (R313, R598). -/
def storePages (w : Work) (p : Nat) (q : Pool) (pages : List Nat) (bytes : List Byte) (why : StoreWhy) : Work :=
  w.each (List.range q.kvShards) fun w sh =>
    w.each ((List.range pages.length).zip pages) fun w (i, n) =>
      let b := slice bytes ((sh * pages.length + i) * q.pageBytes) q.pageBytes
      w.multicast ((w.shardEngines p sh).map fun (e, g) => (e, pageAddr q g.desc n)) b why

/-- Part of a page of a pool: `len` bytes from byte `at_` on. -/
structure PagePart where
  page : Nat
  at_ : Nat
  len : Nat
deriving DecidableEq, Repr

/-- Whole pages. -/
def wholePages (q : Pool) (pages : List Nat) : List PagePart := pages.map fun n => { page := n, at_ := 0, len := q.pageBytes }

/-- Load parts of pages of the shard that an engine holds. -/
def loadShard (w : Work) (q : Pool) (e : Nat) (g : Engine) (parts : List PagePart) (why : LoadWhy) : Work :=
  w.each parts fun w x => w.load e (pageAddr q g.desc x.page + x.at_) x.len why

/-- Load parts of pages, shard by shard, from the engines of R593. -/
def loadParts (w : Work) (p : Nat) (q : Pool) (parts : List PagePart) (why : LoadWhy) : Work :=
  w.each (List.range q.kvShards) fun w sh =>
    match w.shardSource p sh with
    | none => w
    | some (e, g) => w.loadShard q e g parts why

/-- Load whole pages, shard by shard. -/
def loadPages (w : Work) (p : Nat) (q : Pool) (pages : List Nat) (why : LoadWhy) : Work :=
  w.loadParts p q (wholePages q pages) why

/-- Engine `e` fails a load of a copy: the parts of its shard alone are read again, from the unfrozen holder with the next
lowest number; none where no holder is left (R593, R859). -/
def reloadShard (w : Work) (e : Nat) (parts : Pool → List PagePart) (why : LoadWhy) : Option Work :=
  match w.engine? e with
  | none => none
  | some g =>
    match w.pool? g.pool, (w.poolEngines g.pool).find? fun (_, y) => y.desc.kvShard = g.desc.kvShard && !y.frozen with
    | some q, some (k, y) => some ((w.closeLoads fun l => l.why = why && l.engine = e).loadShard q k y (parts q) why)
    | _, _ => none

/-- Give up a residency whose placement cannot finish: its pages go in the pool's next phase 1 (R277, R316). -/
def dropResidency (w : Work) (g : Nat) : Work :=
  w.modFs fun f => { f with
    segs := f.segs.mod g fun s => { s with placing := false, dropped := true }
    seqs := f.seqs.mapV fun _ x => { x with placing := if x.placing = some g then none else x.placing } }

/-- The residencies of a copy. -/
def copyResidencies (w : Work) (c : Nat) : Tbl Seg := w.fs.segs.filterV fun _ s => s.copy = some c && !s.dropped

/-- The residency part of the segment table has a free entry (R278, R280, R315). -/
def residencyRoom (w : Work) : Bool := (w.fs.segs.filterV fun _ s => s.copy.isSome).length < 262144

/-- The fork segment on pool `p` that a sequence refers to (R253). -/
def forkOf (w : Work) (p s : Nat) : Option (Nat × Seg) :=
  (w.seq s).refs.findSome? fun g => match w.fs.segs.get? g with
    | some y => if y.copy.isNone ∧ y.pool = p then some (g, y) else none
    | none => none

/-- The requests with N above 1 that have obtained no fork segment yet. -/
def forksDue (w : Work) : List Nat :=
  (w.slotsWhere fun s e => e.st.live && 1 < e.n && !(w.fs.pools.any fun (p, _) => (w.forkOf p s).isSome)).foldl
    (fun l s => let r := (w.entry s).reqHandle; if l.contains r then l else l ++ [r]) []

/-- The fork part of the segment table has a free entry besides those that requests will still obtain (R278, R280). -/
def forkRoom (w : Work) : Bool := (w.fs.segs.filterV fun _ s => s.copy.isNone).length + w.forksDue.length < 131072

/-- A fifth placement of a copy first releases its oldest idle residency (R315). -/
def makeResidencyRoom (w : Work) (c : Nat) : Work :=
  if (w.copyResidencies c).length < 4 then w
  else
    let idle := (w.copyResidencies c).filterV fun g s => w.resIdle g s
    let oldest := idle.foldl (fun (a : Option (Nat × Nat)) (y : Nat × Seg) => match a with
      | none => some (y.1, y.2.lastRef)
      | some b => if y.2.lastRef < b.2 then some (y.1, y.2.lastRef) else a) none
    match oldest with | some (g, _) => w.releaseIdle g | none => w

/-- A residency of a copy on a pool is reserved and its placement begins (R313), as traffic of the handle's owner `ctx` (R628,
R635): none when it does not fit (R315). -/
def placeResidency (w : Work) (c p ctx : Nat) : Option (Nat × Work) :=
  let w := w.makeResidencyRoom c
  match w.fs.copies.get? c, w.pool? p with
  | some k, some q =>
    let n := k.q / k.pagePos
    if (w.copyResidencies c).length < 4 ∧ w.residencyRoom ∧ k.done ∧ n ≤ handable q then
      let (pages, w) := w.takePages p n
      let g := w.fs.nextSeg
      let w := w.modFs fun f => { f with
        nextSeg := g + 1
        segs := f.segs.set g { pool := p, copy := some c, pages := pages, placing := true, lastRef := w.now } }
      let w := w.storePages p q pages k.bytes (.place g)
      some (g, (w.queueExtents k.extents k.bytes.length .prefix_ ctx (.placement g)).chargePark ctx (2 * k.bytes.length))
    else none
  | _, _ => none

/-- The context whose traffic a placement for a sequence is. -/
def placementCtx (w : Work) (s c : Nat) : Nat :=
  if (w.seq s).viaShared then 0 else match w.fs.copies.get? c with | some k => k.owner | none => 0

/-- A page of a copy is marked lost in the park tier (R316, R618). -/
def copyLost (w : Work) (c : Nat) : Bool :=
  match w.fs.copies.get? c with | some k => k.extents.any fun e => w.fs.park.lost.has e | none => false

/-- A reference to a residency begins (R318). -/
def refSeg (w : Work) (s g : Nat) : Work :=
  let w := w.modSeq s fun x => { x with refs := if x.refs.contains g then x.refs else x.refs ++ [g] }
  w.modFs fun f => { f with segs := f.segs.mod g fun y => { y with lastRef := w.now } }

/-- A page of copy `c` is lost while a residency of it is being placed: the residency goes, and the joiners that wait for
it end (R316). -/
def placementLost (w : Work) (c : Nat) : Work :=
  w.each ((w.copyResidencies c).filterV fun _ s => s.placing) fun w (g, s) =>
    let waiting := w.waitingFor c s.pool
    (w.dropResidency g).each waiting fun w s => w.endSeq s 3 0x06

/-- The last extent of a placement is acknowledged: the joiners that waited can enter a plan (R313). The command names
the handle that the placement is for, which may have left the namespace since or name a later copy; the oldest placement on
the pool of a copy that has had that name is meant. -/
def placementDone (w : Work) (p h : Nat) : Work :=
  let mine (s : Seg) : Bool := s.pool = p && s.placing && match s.copy with
    | some c => (match w.fs.copies.get? c with | some k => k.handle = h || k.names.contains h | none => false)
    | none => false
  match w.fs.segs.find fun _ s => mine s with
  | some (g, _) =>
    (((w.memServed (.placement g)).acknowledgeAll (.place g)).modFs fun f => { f with
      segs := f.segs.mod g fun s => { s with placing := false }
      seqs := f.seqs.mapV fun _ x => { x with placing := if x.placing = some g then none else x.placing } }).count
      cPgmPlacements
  | none => w

/-- A handle's park-tier copy has finished (R312). -/
def finishHandleCopy (w : Work) (c : Nat) : Work :=
  (w.modFs fun f => { f with copies := f.copies.mod c fun k => { k with done := true, mirrorAt := none } }).sweepCopy c

/-- The park-tier copy of the handle that PREFIX_PUT created has been written (R312), from the pages that were loaded.
Under STATE_AND_PARK the twin writes it too before it finishes (R742). -/
def handleCopyDone (w : Work) (h : Nat) (pages : List Byte) : Work :=
  match w.fs.copies.find fun _ k => k.handle = h && !k.done && k.mirrorAt.isNone with
  | none => w
  | some (c, k) =>
    let w := w.modFs fun f => { f with copies := f.copies.set c { k with bytes := pages } }
    let w := ((w.recvLoads fun l => l.why = .handleCopy c).memServed (.handle c)).chargePark k.owner (2 * pages.length)
    if w.mirrorsPark && !pages.isEmpty then
      let w := (w.sendParkData c pages true).queueExtents k.extents pages.length .mirror k.owner (.handle c)
      w.modFs fun f => { f with copies := f.copies.mod c fun k => { k with mirrorAt := some (f.twin.link.nextSeq - 1) } }
    else w.finishHandleCopy c

/-- A handle's copy that no engine can complete any more: the handles go with it, its extents return, and the joiners that
wait for it end (R312, R316). -/
def abandonCopy (w : Work) (c : Nat) : Work :=
  match w.fs.copies.get? c with
  | none => w
  | some k =>
    let waiting := w.slotsWhere fun s e =>
      e.st = .queued && (w.seq s).handle = some c && (w.seq s).shared.isEmpty && (w.seq s).park.isNone
    let w := (w.closeLoads fun l => l.why = .handleCopy c).removeHandles fun _ r => r.copy = c
    let w := w.returnExtents k.owner k.extents
    let w := w.modFs fun f => { f with copies := f.copies.mod c fun k => { k with done := true, extents := [], bytes := [] } }
    (w.each waiting fun w s => w.endSeq s 3 0x06).sweepCopy c

/-! PREFIX_PUT and PREFIX_DROP (R183 to R186, R307 to R312, R582). -/

/-- The handle table has room for a handle (R582). -/
def handleRoom (w : Work) (h : Nat) : Bool :=
  (w.fs.handles.filter fun (k, _) => bucketOf k = bucketOf h).length < 4 && w.fs.handles.length < 1048576

/-- The token list of the first `n` positions of a sequence: bit 31 marks an embedding position (R309). -/
def tokenList (w : Work) (x : Seq) (n : Nat) : List Nat :=
  let pre := match x.handle with
    | some c => (match w.fs.copies.get? c with | some k => k.tokens.take x.hPos | none => [])
    | none => []
  let body := (x.items.map fun i => match i with
    | .tok t => [t]
    | .emb _ p _ _ => (List.replicate p (2 ^ 31))).flatten
  (pre ++ body ++ x.tokens).take n

/-- The part of a list of slices that lies in its first `n` entries, and the rest. -/
def splitSlices (n : Nat) (l : List SegSlice) : List SegSlice × List SegSlice :=
  match l with
  | [] => ([], [])
  | x :: r =>
    if x.len ≤ n then
      let (a, b) := splitSlices (n - x.len) r
      (x :: a, b)
    else if n = 0 then ([], x :: r)
    else ([{ x with len := n }], { x with start := x.start + n, len := x.len - n } :: r)

/-- Where a sequence's list stands: its pool, its own pages and its segment slices. Until the step that copies a handed-over
list has committed, that is the pool that it leaves (R304, R306). -/
def standing (w : Work) (s : Nat) : Nat × List Nat × List SegSlice :=
  let x := w.seq s
  match x.moveFrom with
  | some l => if x.moved then (x.ownPool, x.own, x.shared) else l
  | none => (x.ownPool, x.own, x.shared)

/-- The first `n` list entries of a sequence become a residency of copy `c` on its pool (R311). -/
def makeResidency (w : Work) (s c n : Nat) : Work :=
  let x := w.seq s
  let (pool, own, shared) := w.standing s
  let (inSeg, rest) := splitSlices n shared
  let have' := sumOf (inSeg.map (·.len))
  let segPages := (inSeg.map fun y => (w.slicePages y).map (· % 2 ^ 26)).flatten
  let g := w.fs.nextSeg
  let seg : Seg := { pool := pool, copy := some c, pages := segPages ++ own.take (n - have')
                     bases := inSeg.map (·.seg), lastRef := w.now }
  let w := w.modFs fun f => { f with nextSeg := g + 1, segs := f.segs.set g seg }
  let shared := ({ seg := g, start := 0, len := n } : SegSlice) :: rest
  let own := own.drop (n - have')
  (w.setSeq s (if x.moveFrom.isSome && !x.moved then { x with moveFrom := some (pool, own, shared) }
    else { x with shared := shared, own := own })).refSeg s g

/-- The effect of PREFIX_PUT once every test has passed (R307 to R312). -/
def putPrefix (w : Work) (h s q ttl : Nat) (extents : List Nat) : Work :=
  let e := w.entry s
  let x := w.seq s
  let pp := w.pagePos e.model
  match w.pool? (w.standing s).1 with
  | none => w
  | some pool =>
    let c := w.fs.nextCopy
    let k : HandleCopy := { handle := h, owner := e.ctx, model := e.model, variant := e.variant, q := q, layout := pool.kvLayout
                            pagePos := pp, tokens := w.tokenList x q, extents := extents }
    let w := w.modFs fun f => { f with
      nextCopy := c + 1
      copies := f.copies.set c k
      handles := f.handles.set h { copy := c, expiry := some (w.now + w.edges ttl), setAt := w.now } }
    let w := w.makeResidency s c (q / pp)
    match w.fs.segs.find fun _ g => g.copy = some c with
    | some (_, g) =>
      ((w.queueHandle h 1 e.ctx).queueExtents extents (q / pp * pool.kvShards * pool.pageBytes) .prefix_ e.ctx
        (.handle c)).loadPages g.pool pool g.pages (.handleCopy c)
    | none => w

/-- Acting on PREFIX_PUT (R183 to R185, R310, R770). A segment table without room for the residency is NO_PAGES too (DESIGN
CHOICE, log entry 133). R185 gives its refusals no order: they are tested as here written
(DESIGN CHOICE, log entry 97), and POSITIONS above the LENGTH of an entry that is not live is a clamp too
(DESIGN CHOICE, log entry 98). -/
def actPrefixPut (w : Work) (i : QItem) : Work × Act :=
  let p := i.pkt
  let c := p.ctx.toNat
  let h := p.handle.toNat
  if prefixOwner h ≠ 0 ∧ prefixOwner h ≠ c then (w, .violate 0x03)
  else match w.resolve c (p.opf 223 192) with
  | .neverIssued | .foreign => (w, .violate 0x03)
  | r =>
    if prefixOwner h = 0 then (w, .violate 0x07)
    else if !w.readyFor opPrefixPut then (w, .answer (Ans.refuse stNotReady))
    else
      let t := (w.fctx c).tenant
      let (ttl, k1) := clampTtl t (p.opf 287 256)
      let ttl := if ttl = 0 then t.defTtl else ttl
      let want := p.opf 244 224
      let len := match r with | .entry s => (w.entry s).length | _ => 0
      let k2 := match r with | .entry _ => b01 (len < want) | _ => 0
      let w := w.count (cClamp c) (k1 + k2)
      let w := w.lookUp h
      if w.groupEn ∧ prefixHome h ≠ w.idn.grpPos then (w, .answer (Ans.bad .encoding))
      else if w.fs.handles.has h then (w, .answer (Ans.bad .exists_))
      else match r with
      | .entry s =>
        let e := w.entry s
        let pp := w.pagePos e.model
        let q := (if want = 0 ∨ len < want then len else want) / pp * pp
        if !e.st.live then (w, .answer (Ans.refuse stNotLive))
        else if e.st ≠ .prefilling ∧ e.st ≠ .decoding then (w, .answer (Ans.bad .notRunning))
        else if q = 0 then (w, .answer (Ans.bad .empty))
        else if !w.handleRoom h || !w.residencyRoom then (w, .answer (Ans.refuse stNoPages))
        else
          let bytes := match w.pool? (w.standing s).1 with | some x => q / pp * x.kvShards * x.pageBytes | none => 0
          match w.charge c (ceilDiv bytes 65536 + listExtents q) with
          | none => (w, .answer (Ans.refuse stNoPages))
          | some (l, w) => (w.putPrefix h s q ttl l, .answer { result := q })
      | _ => (w, .answer (Ans.refuse stNotLive))

/-- Acting on PREFIX_DROP (R186, R155, R156). -/
def actPrefixDrop (w : Work) (i : QItem) : Work × Act :=
  let c := i.pkt.ctx.toNat
  let h := i.pkt.handle.toNat
  if prefixOwner h ≠ 0 ∧ prefixOwner h ≠ c then (w, .violate 0x03)
  else if prefixOwner h = 0 then (w, .violate 0x07)
  else if !w.readyFor opPrefixDrop then (w, .answer (Ans.refuse stNotReady))
  else
    let w := w.lookUp h
    if w.fs.handles.has h then (w.removeHandle h, .answer {}) else (w, .answer (Ans.refuse stNoPrefix))

/-- A handle reaches its expiry (R317). -/
def handleExpiry (w : Work) (h : Nat) : Work :=
  match w.fs.handles.get? h with
  | some { expiry := some t, setAt, .. } => if w.reached setAt t then w.removeHandle h else w
  | _ => w

/-! SHARED_HANDLE_GRANT (R202, R203, R320, R321, R770). -/

/-- The ENCODING test of R203. -/
def sharedEncoding (w : Work) (p : Packet) : Bool :=
  p.opf 193 192 = 3 || prefixOwner p.handle.toNat ≠ 0 || (w.groupEn && prefixHome p.handle.toNat ≠ w.idn.grpPos)

/-- Mode 0: create a shared handle over SRC_HANDLE's copy. Where its bucket or the table is full it is answered NO_PAGES, after
the refusals of R203 (DESIGN CHOICE, log entry 132). -/
def sharedCreate (w : Work) (p : Packet) : Work × Act :=
  let h := p.handle.toNat
  if w.sharedEncoding p then (w, .answer (Ans.bad .encoding))
  else
    let w := (w.lookUp h).lookUp (p.opf 263 200)
    if w.fs.handles.has h then (w, .answer (Ans.bad .exists_))
    else match w.fs.handles.get? (p.opf 263 200) with
    | none => (w, .answer (Ans.refuse stNoPrefix))
    | some r =>
      if !w.handleRoom h then (w, .answer (Ans.refuse stNoPages))
      else
        let w := w.modFs fun f => { f with
          handles := f.handles.set h { copy := r.copy, expiry := none, grants := bitmap p.body }
          copies := f.copies.mod r.copy fun k => { k with names := k.names ++ [h] } }
        let w := w.queueHandle h 1 0
        match w.fs.copies.get? r.copy with
        | some k => if k.done then (w, .answer {}) else (w, .wait (.handleCopy r.copy))
        | none => (w, .answer {})

/-- Mode 1: replace the grants. -/
def sharedSetGrants (w : Work) (p : Packet) : Work × Act :=
  let h := p.handle.toNat
  if w.sharedEncoding p then (w, .answer (Ans.bad .encoding))
  else
    let w := w.lookUp h
    match w.fs.handles.get? h with
    | none => (w, .answer (Ans.refuse stNoPrefix))
    | some r =>
      ((w.modFs fun f => { f with handles := f.handles.set h { r with grants := bitmap p.body } }).queueHandle h 1 0, .answer {})

/-- Mode 2: drop the handle. -/
def sharedDrop (w : Work) (p : Packet) : Work × Act :=
  let h := p.handle.toNat
  if w.sharedEncoding p then (w, .answer (Ans.bad .encoding))
  else
    let w := w.lookUp h
    if w.fs.handles.has h then (w.removeHandle h, .answer {}) else (w, .answer (Ans.refuse stNoPrefix))

/-- Acting on SHARED_HANDLE_GRANT, by its MODE. -/
def actShared (w : Work) (i : QItem) : Work × Act :=
  let p := i.pkt
  if !w.readyFor opSharedGrant then (w, .answer (Ans.refuse stNotReady))
  else match p.opf 193 192 with
    | 0 => w.sharedCreate p
    | 1 => w.sharedSetGrants p
    | 2 => w.sharedDrop p
    | _ => (w, .answer (Ans.bad .encoding))

/-! Phase 1 of R295. -/

/-- The sequence's list on pool `p` goes back: own pages to the free list, segment slices dropped. -/
def releaseList (w : Work) (s p : Nat) : Work :=
  let x := w.seq s
  if x.ownPool = p then
    let w := w.returnPages p x.own
    w.modSeq s fun y => { y with own := [], shared := [] }
  else w

/-- The source pages of a handover go back (R306). Fork segments lose the reference; residencies keep theirs to FREE
(R318). -/
def releaseSource (w : Work) (s p : Nat) : Work :=
  let x := w.seq s
  match x.moveFrom with
  | some (q, own, sl) =>
    if q = p then
      let w := w.returnPages p own
      let forks := sl.filterMap fun y => match w.fs.segs.get? y.seg with
        | some g => if g.copy.isNone then some y.seg else none
        | none => none
      (w.modSeq s fun y => { y with moveFrom := none, moved := false
                                    refs := y.refs.filter fun r => !forks.contains r }).sweepForks p
    else w
  | none => w

/-- Whether a sequence's park copy has finished while it still holds the copied pages (R298). -/
def copiedAndHeld (x : Seq) : Bool :=
  match x.park with | some r => decide (r.copy = .done) && r.held | none => false

/-- The pages that a sequence has left on pool `p` go back, and its references to fork segments there that its list no
longer names; with those of a re-routed one its references to residencies (R298, R571). -/
def releaseLeft (w : Work) (s p : Nat) : Work :=
  let x := w.seq s
  let (mine, rest) := x.left.partition fun y => y.1 = p
  if mine.isEmpty then w
  else
    let w := mine.foldl (fun w y => w.returnPages p y.2) w
    let named := x.shared ++ (match x.moveFrom with | some (_, _, sl) => sl | none => [])
    let stale (g : Nat) : Bool := !(named.any fun y => y.seg = g) &&
      match w.fs.segs.get? g with | some y => (y.copy.isNone || x.replayed && x.park.isNone) && y.pool = p | none => true
    (w.modSeq s fun y => { y with left := rest, refs := y.refs.filter fun g => !stale g }).sweepForks p

/-- The release of a DONE sequence's pages on pool `p` (R295, R296). -/
def releaseDone (p : Nat) (w : Work) (s : Nat) : Work :=
  if (w.entry s).st = .done && !w.inPlan s then
    let w := ((w.releaseList s p).releaseSource s p).releaseLeft s p
    if w.holdsPages s then w else w.toFree s
  else w

/-- What phase 1 releases of a sequence that goes on: its copied pages, the pages that it has left on pool `p`, and the
source pages of a handover (R295, R298, R306, R571). -/
def releaseParked (p : Nat) (w : Work) (s : Nat) : Work :=
  let x := w.seq s
  let w := if copiedAndHeld x ∧ x.ownPool = p ∧ !w.inPlan s then
      (w.releaseList s p).modSeq s fun y => { y with
        park := y.park.map fun r => { r with held := false }, joined := false }
    else w
  let w := if w.inPlanOf p s then w else w.releaseLeft s p
  if x.moved then w.releaseSource s p else w

/-- Phase 1: release (R295). -/
def phase1 (w : Work) (p : Nat) : Work :=
  let slots := w.fs.rqt.map (·.1)
  let w := (slots.foldl (releaseParked p) (slots.foldl (releaseDone p) w)).sweepForks p
  let gone := w.fs.segs.filter fun (g, s) => s.pool = p && !s.placing && w.segIdle g &&
    (s.dropped || match s.copy with | some c => !w.copyWanted c | none => true)
  w.each gone fun w (g, s) =>
    let w := w.releaseSeg g
    match s.copy with | some c => w.sweepCopy c | none => w

end Work

end Sys2Proof.Machine
end

