-- ==== Sys2Proof/Machine/Deadlines.lean ====
section
/-! DEFINITION. The deadline monitor: deadline expiry, TTL and stall expiry, gaps and strikes, re-routing to the
fallback (R554 to R576). -/

namespace Sys2Proof.Machine

namespace Work

/-! Re-routing (R566 to R573). -/

/-- The token positions that a handle of a sequence stands for. -/
def handleTokens (w : Work) (x : Seq) : List Nat :=
  match x.handle with
  | some c => (match w.fs.copies.get? c with | some k => k.tokens.take x.hPos | none => [])
  | none => []

/-- The replay record is read and becomes the prompt: one position per token, prompt and appended tokens alike (R572,
R635). -/
def replayPrompt (w : Work) (s : Nat) : Work :=
  let e := w.entry s
  let x := w.seq s
  let all := (w.handleTokens x).map .tok ++ x.items ++ x.tokens.map .tok
  let w := w.modEntry s fun e => { e with
    promptLen := if 0 < e.emitted then e.length else e.promptLen, length := if 0 < e.emitted then e.length else 0 }
  let keep := if 0 < e.emitted then all.take e.length else all
  let w := match x.replay with | some l => w.replayTraffic l 0 keep.length e.ctx | none => w
  w.modSeq s fun x => { x with items := keep, tokens := [], handle := none, hPos := 0, kv := 0, replayed := true }

/-- The sequence leaves its pool: BOUND clears, its pages and references go in the pool's next phase 1 (R571). -/
def leavePool (w : Work) (s : Nat) : Work :=
  let w := (w.writeBack s).modEntry s fun e => { e with fl := { e.fl with bound := false } }
  w.modSeq s fun x => { x with
    unbind := false, joined := false, placing := none, staged := none, follows := none, own := [], shared := []
    left := if x.own.isEmpty && x.shared.isEmpty then x.left else x.left ++ [(x.ownPool, x.own)] }

/-- The pool and slot that a sequence can be re-routed to, among the pools that satisfy `ok` (R567, R569, R570). -/
def rerouteTarget (w : Work) (s : Nat) (ok : Nat → Bool) : Option (Nat × Nat) :=
  let e := w.entry s
  let x := w.seq s
  match w.rerouteSlot e x with
  | none => none
  | some f =>
    if x.replay.isNone then none
    else
      let n := if 0 < e.emitted then e.length else e.promptLen
      let q : PredictQ := { slot := some s, bound := if e.fl.bound then some e.pool else none, left := n, start := 0
                            ctx := e.ctx, s := w.pagePos f }
      let cands := (w.admitPools e.ctx f e.kind none none n 1).filter fun p => w.predict q p ≤ w.remaining e && ok p
      (w.choosePool cands none f e.variant q).map fun p => (f, p)

/-- Re-route a sequence to slot `f` on pool `p` (R571 to R573). While it is bound, or a plan names it, it leaves its pool at a
commit (R34). -/
def reroute (w : Work) (s f p : Nat) : Work :=
  let later := w.inPlan s || (w.entry s).fl.bound
  let old := (w.entry s).model
  let w := (w.modEntry s fun e => { e with
    st := .queued, model := f, fl := { e.fl with fbActive := true } }).count (cFbReroute (w.entry s).ctx)
  let w := w.modSeq s fun x => { x with
    assigned := some p, strikes := 0, unbind := later, wasModel := old, stallAt := none, stallWon := false, marked := false }
  if later then w else (w.leavePool s).replayPrompt s

/-- A re-routed sequence leaves its pool once no plan names it any more (R571). -/
def unbindDue (w : Work) (s : Nat) : Work :=
  if (w.seq s).unbind && !w.inPlan s then
    let live := (w.entry s).st.live
    let w := w.leavePool s
    if live then w.replayPrompt s else w
  else w

/-- The re-routed sequences that no pool binds, and with a commit those that pool `p` binds, leave (R34, R233, R571). -/
def unbinds (w : Work) (p : Nat) (commit : Bool) : Work :=
  w.each (w.slotsWhere fun s e => (w.seq s).unbind && (!e.fl.bound || commit && e.pool = p)) fun w s => w.unbindDue s

/-- The prediction for a sequence that has an entry, over the positions received (R559 to R564). -/
def predictOf (w : Work) (s p : Nat) : Nat :=
  let e := w.entry s
  let x := w.seq s
  w.predict { slot := some s, bound := if e.fl.bound then some e.pool else none, left := e.promptLen - x.kv
              start := x.kv, ctx := e.ctx, s := w.pagePos e.model } p

/-- The re-route before first output, at a composition of pool `p` (R569). -/
def rerouteBeforeFirst (w : Work) (p : Nat) : Work :=
  let mine := w.slotsWhere fun s e =>
    (e.st = .queued || e.st = .prefilling) && e.emitted = 0 && e.deadline ≠ 0 &&
      (if e.fl.bound then e.pool = p else (w.seq s).assigned = some p)
  w.each mine fun w s =>
    if w.remaining (w.entry s) < w.predictOf s p then
      match w.rerouteTarget s fun _ => true with
      | some (f, q) => w.reroute s f q
      | none => w
    else w

/-! Gaps and strikes (R556 to R558, R570). -/

/-- A DECODING sequence's strike count reaches TBT_STRIKES (R570). -/
def strikeReroute (w : Work) (s : Nat) : Work :=
  let e := w.entry s
  let limit := w.reg (rDlmCfg e.ctx)
  let strikes := (w.seq s).strikes
  if e.st = .decoding ∧ Nat.max 1 (fld (w.reg (rDlmCfg2 e.ctx)) 3 0) ≤ strikes then
    let quick (p : Nat) : Bool := match w.pool? p with | some q => decide (w.planDur p q ≤ (limit : Rat)) | none => false
    match w.rerouteTarget s quick with
    | some (f, p) => w.reroute s f p
    | none => w.modSeq s fun x => { x with strikes := 0 }
  else w

/-! The timers (R238, R259, R544, R545, R574). -/

/-- DEADLINE_EXPIRY: the deadline timer of a sequence fires (R87, R574, R575). -/
def deadlineExpiry (w : Work) (s : Nat) : Work :=
  let e := w.entry s
  if e.st.live ∧ e.deadline ≠ 0 ∧ w.reached (w.seq s).deadlineFrom e.deadline then (w.endSeq s 6 0).count (cDlmMiss e.ctx) else w

/-- STALL_EXPIRY: the sequence is parked at its pool's next commit (R545). -/
def stallExpiry (w : Work) (s : Nat) : Work :=
  let e := w.entry s
  match (w.seq s).stallAt with
  | some t =>
    if (e.st = .prefilling ∨ e.st = .decoding) ∧ w.fired t (w.reg rRingCfg) then
      (w.modSeq s fun x => { x with stallAt := none, stallWon := true }).count cStuStallPark
    else w
  | none => w

end Work

end Sys2Proof.Machine
end

