-- ==== Sys2Proof/Machine/Float.lean ====
section
/-! DEFINITION. Floating-point formats: bfloat16, binary16, binary32, E4M3, E5M2 and the MX formats (R18), with
round-to-nearest-even, and binary32 arithmetic with exp and ln (R431). -/

namespace Sys2Proof.Machine

/-- What bits of a format stand for. -/
inductive FVal where
  | nan
  | inf (neg : Bool)
  | num (r : Rat)
deriving DecidableEq, Repr

/-- A binary format: exponent bits, mantissa bits, and whether the top exponent holds infinities as in IEEE 754; E4M3
keeps that exponent for numbers, all but one pattern. -/
structure FFmt where
  eb : Nat
  mb : Nat
  ieee : Bool := true
deriving DecidableEq, Repr

def fBf16 : FFmt := { eb := 8, mb := 7 }
def fF16 : FFmt := { eb := 5, mb := 10 }
def fF32 : FFmt := { eb := 8, mb := 23 }
def fE4M3 : FFmt := { eb := 4, mb := 3, ieee := false }
def fE5M2 : FFmt := { eb := 5, mb := 2 }

/-- Bits of a value. -/
def FFmt.bits (f : FFmt) : Nat := 1 + f.eb + f.mb
/-- The exponent bias. -/
def FFmt.bias (f : FFmt) : Nat := 2 ^ (f.eb - 1) - 1

/-- A power of two. -/
def pow2 (e : Int) : Rat := if 0 ≤ e then (2 ^ e.toNat : Nat) else 1 / (2 ^ (-e).toNat : Nat)

/-- The magnitude of a rational. -/
def ratAbs (r : Rat) : Rat := if r < 0 then -r else r

/-- The exponent of a positive rational: floor(log2 r). -/
def floorLog2 (r : Rat) : Int :=
  let n := r.num.toNat
  let e : Int := (Nat.log2 n : Int) - Nat.log2 r.den
  if r < pow2 e then e - 1 else e

/-- A non-negative rational rounded to an integer, ties to even. -/
def rneNat (r : Rat) : Nat :=
  let f := ratFloor r
  let d := r - f
  if d < 1 / 2 then f else if 1 / 2 < d then f + 1 else if f % 2 = 0 then f else f + 1

/-- The value of bits in a format. -/
def FFmt.decode (f : FFmt) (v : Nat) : FVal :=
  let neg := bit v (f.eb + f.mb)
  let e := v / 2 ^ f.mb % 2 ^ f.eb
  let m := v % 2 ^ f.mb
  if f.ieee && e = 2 ^ f.eb - 1 then (if m = 0 then .inf neg else .nan)
  else if !f.ieee && e = 2 ^ f.eb - 1 && m = 2 ^ f.mb - 1 then .nan
  else
    let r : Rat := if e = 0 then (m : Nat) * pow2 (1 - f.bias - f.mb) else ((2 ^ f.mb + m : Nat) : Rat) * pow2 ((e : Int) - f.bias - f.mb)
    .num (if neg then -r else r)

/-- The largest finite value's bits. -/
def FFmt.maxBits (f : FFmt) : Nat :=
  if f.ieee then (2 ^ f.eb - 1) * 2 ^ f.mb - 1 else 2 ^ (f.eb + f.mb) - 2

/-- A rational in a format, round to nearest even; a magnitude beyond the largest becomes infinity, or the largest
value where the format has no infinity. -/
def FFmt.encode (f : FFmt) (r : Rat) : Nat :=
  let s := if r < 0 then 2 ^ (f.eb + f.mb) else 0
  let a := ratAbs r
  if a = 0 then s
  else
    let emin : Int := 1 - f.bias
    let e := if floorLog2 a < emin then emin else floorLog2 a
    let n := rneNat (a / pow2 (e - f.mb))
    let mag := (e - emin).toNat * 2 ^ f.mb + n
    s + (if mag ≤ f.maxBits then mag else if f.ieee then (2 ^ f.eb - 1) * 2 ^ f.mb else f.maxBits)

/-- The element format of a code of R429, where it is a plain binary format. -/
def formatOf (code : Nat) : Option FFmt :=
  match code with
  | 0 => some fBf16
  | 1 => some fF16
  | 2 => some fF32
  | 3 => some fE4M3
  | 4 => some fE5M2
  | _ => none

/-! binary32 arithmetic. Values are bit patterns. -/

def f32NegInf : Nat := 0xFF800000
def f32PosInf : Nat := 0x7F800000
def f32Max : Nat := 0x7F7FFFFF
def f32NaN : Nat := 0x7FC00000

/-- A rational rounded to binary32. -/
def f32 (r : Rat) : Nat := fF32.encode r
/-- The value of a binary32. -/
def f32Val (v : Nat) : FVal := fF32.decode v
/-- The value of a finite binary32; 0 otherwise. -/
def f32Rat (v : Nat) : Rat := match f32Val v with | .num r => r | _ => 0

/-- An operation on two binary32 numbers, where both are finite. -/
def f32Op (g : Rat → Rat → Rat) (inf : FVal → FVal → Nat) (a b : Nat) : Nat :=
  match f32Val a, f32Val b with
  | .num x, .num y => f32 (g x y)
  | x, y => inf x y

/-- Addition. -/
def f32Add (a b : Nat) : Nat :=
  f32Op (· + ·) (fun x y => match x, y with
    | .nan, _ | _, .nan => f32NaN
    | .inf s, .inf t => if s = t then (if s then f32NegInf else f32PosInf) else f32NaN
    | .inf s, _ | _, .inf s => if s then f32NegInf else f32PosInf
    | .num _, .num _ => 0) a b

/-- Negation. -/
def f32Neg (a : Nat) : Nat := if bit a 31 then a - 2 ^ 31 else a + 2 ^ 31
/-- Subtraction. -/
def f32Sub (a b : Nat) : Nat := f32Add a (f32Neg b)

/-- The sign of a value times that of another, for infinities. -/
def FVal.neg (x : FVal) : Bool :=
  match x with
  | .nan => false
  | .inf s => s
  | .num r => decide (r < 0)

/-- Multiplication. -/
def f32Mul (a b : Nat) : Nat :=
  f32Op (· * ·) (fun x y => match x, y with
    | .nan, _ | _, .nan => f32NaN
    | .inf _, .num r | .num r, .inf _ => if r = 0 then f32NaN else if x.neg != y.neg then f32NegInf else f32PosInf
    | .inf _, .inf _ => if x.neg != y.neg then f32NegInf else f32PosInf
    | .num _, .num _ => 0) a b

/-- Division; a zero divisor gives an infinity. -/
def f32Div (a b : Nat) : Nat :=
  match f32Val a, f32Val b with
  | .num x, .num y => if y = 0 then (if x = 0 then f32NaN else if x < 0 then f32NegInf else f32PosInf) else f32 (x / y)
  | .num _, .inf _ => 0
  | .inf s, .num y => if s != decide (y < 0) then f32NegInf else f32PosInf
  | _, _ => f32NaN

/-- A key that orders binary32 numbers, negative infinity lowest; both zeros have key 0. -/
def f32Key (v : Nat) : Int := if bit v 31 then - ((v % 2 ^ 31 : Nat) : Int) else v

/-- Less than. -/
def f32Lt (a b : Nat) : Bool := f32Key a < f32Key b
/-- The larger of two numbers. -/
def f32Max2 (a b : Nat) : Nat := if f32Lt a b then b else a

/-- The largest binary32 that does not exceed a positive rational, by truncation. -/
def f32Down (r : Rat) : Nat :=
  if r ≤ 0 then 0
  else
    let e : Int := if floorLog2 r < -126 then -126 else floorLog2 r
    let mag := (e + 126).toNat * 2 ^ 23 + ratFloor (r / pow2 (e - 23))
    if f32Max < mag then f32Max else mag

/-- Cut a rational down to a multiple of 2^-160. -/
def cut160 (r : Rat) : Rat := (r * (2 ^ 160 : Nat)).floor / ((2 ^ 160 : Nat) : Rat)

/-- ln 2, to 160 bits: 2 atanh(1/3). -/
def ln2 : Rat :=
  cut160 ((List.range 60).foldl (fun (a : Rat) k => a + 2 / ((2 * k + 1) * 3 ^ (2 * k + 1) : Nat)) 0)

/-- exp of a rational with 0 <= r < 1, by its series. -/
def expSeries (r : Rat) : Rat :=
  ((List.range 45).foldl (fun (acc : Rat × Rat) k =>
    (acc.1 + acc.2, cut160 (acc.2 * r / (k + 1 : Nat)))) ((0 : Rat), (1 : Rat))).1

/-- exp of a binary32, one of the two binary32 neighbours of the exact value (R431). -/
def f32Exp (v : Nat) : Nat :=
  match f32Val v with
  | .nan => f32NaN
  | .inf true => 0
  | .inf false => f32PosInf
  | .num r =>
    if r = 0 then 0x3F800000
    else if 89 < r then f32PosInf
    else if r < -110 then 0
    else
      let k := (r / ln2).floor
      let d := f32Down (expSeries (r - k * ln2) * pow2 k)
      if Config.expUp (BitVec.ofNat 32 v) then d + 1 else d

/-- ln of a positive rational. -/
def lnRat (r : Rat) : Rat :=
  let e := floorLog2 r
  let m := r / pow2 e
  let z := cut160 ((m - 1) / (m + 1))
  let z2 := cut160 (z * z)
  let s := ((List.range 60).foldl (fun (acc : Rat × Rat) k =>
    (acc.1 + acc.2 / (2 * k + 1 : Nat), cut160 (acc.2 * z2))) ((0 : Rat), z)).1
  2 * s + e * ln2

/-- ln of a binary32, one of the two binary32 neighbours of the exact value (R431). -/
def f32Ln (v : Nat) : Nat :=
  match f32Val v with
  | .nan => f32NaN
  | .inf true => f32NaN
  | .inf false => f32PosInf
  | .num r =>
    if r < 0 then f32NaN
    else if r = 0 then f32NegInf
    else if r = 1 then 0
    else
      let x := lnRat r
      let d := f32Down (ratAbs x)
      let n := if Config.lnUp (BitVec.ofNat 32 v) then d + 1 else d
      if x < 0 then n + 2 ^ 31 else n

/-- bfloat16 of a binary32, round to nearest even. -/
def bf16Of (v : Nat) : Nat :=
  match f32Val v with
  | .nan => 0x7FC0
  | .inf s => if s then 0xFF80 else 0x7F80
  | .num r => fBf16.encode r

/-! OCP Microscaling MXFP4 (R605 to R607). -/

/-- The magnitude code of FP4 E2M1, round to nearest even, saturating at 6. -/
def fp4Code (a : Rat) : Nat :=
  if a ≤ 1 / 4 then 0 else if a < 3 / 4 then 1 else if a ≤ 5 / 4 then 2 else if a < 7 / 4 then 3
  else if a ≤ 5 / 2 then 4 else if a < 7 / 2 then 5 else if a ≤ 5 then 6 else 7

/-- The value of an FP4 E2M1 code. -/
def fp4Val (c : Nat) : Rat :=
  let m : Rat := match c % 8 with
    | 0 => 0 | 1 => 1 / 2 | 2 => 1 | 3 => 3 / 2 | 4 => 2 | 5 => 3 | 6 => 4 | _ => 6
  if 8 ≤ c then -m else m

/-- An element taken for condensing: its value, whether it was not finite, and whether it was a NaN, which is taken as 0
(R605). -/
def finiteElem (f : FFmt) (v : Nat) : Rat × Bool × Bool :=
  match f.decode v with
  | .num r => (r, false, false)
  | .nan => (0, true, true)
  | .inf neg =>
    let big := match f.decode f.maxBits with | .num r => r | _ => 0
    (if neg then -big else big, true, false)

/-- A block of 32 elements in MXFP4: the scale byte, the 32 codes, and the elements that were not finite (R605). -/
def mxBlock (f : FFmt) (l : List Nat) : Nat × List Nat × Nat :=
  let xs := l.map fun v => (finiteElem f v, bit v (f.bits - 1))
  let amax := xs.foldl (fun a x => if a < ratAbs x.1.1 then ratAbs x.1.1 else a) (0 : Rat)
  let bad := (xs.filter fun x => x.1.2.1).length
  if amax = 0 then (0, l.map fun _ => 0, bad)
  else
    let e0 := floorLog2 amax - 2
    let e : Int := if e0 < -127 then -127 else e0
    ((e + 127).toNat, xs.map fun x => fp4Code (ratAbs x.1.1 / pow2 e) + (if x.2 && !x.1.2.2 then 8 else 0), bad)

/-- An MXFP4 element converted back to a format, a zero with its sign (R607). -/
def mxElem (f : FFmt) (scale code : Nat) : Nat :=
  if code = 8 then 2 ^ (f.eb + f.mb) else f.encode (fp4Val code * pow2 ((scale : Int) - 127))

end Sys2Proof.Machine
end

