-- ==== Sys2Proof/Machine/Park.lean ====
section
/-! DEFINITION. The park tier controller and the condenser: parking, keep-lists, copies, restores, TTL, lost extents
(R578 to R618, R861). -/

namespace Sys2Proof.Machine

/-! Records (R593, R604 to R607). -/

/-- The bytes of an element of a layout; 2 for a code that is no plain format. -/
def elemSize (elem : Nat) : Nat := match formatOf elem with | some f => f.bits / 8 | none => 2

/-- The first `n` positions of a list of ranges. -/
def takeRanges (n : Nat) (l : List (Nat × Nat)) : List (Nat × Nat) :=
  match l with
  | [] => []
  | (a, c) :: r => if n = 0 then [] else if c ≤ n then (a, c) :: takeRanges (n - c) r else [(a, n)]

/-- The part of a list of ranges at or above position `lo`. -/
def clipRanges (lo : Nat) (l : List (Nat × Nat)) : List (Nat × Nat) :=
  (l.map fun (a, c) => if a < lo then (lo, a + c - lo) else (a, c)).filter fun (_, c) => 0 < c

/-- A position lies in a list of ranges. -/
def inRanges (l : List (Nat × Nat)) (p : Nat) : Bool := l.any fun (a, c) => a ≤ p && p < a + c

/-- The offsets of list entry `i` that a record keeps. -/
def keptOffsets (r : ParkRec) (i : Nat) : List Nat :=
  (List.range r.pagePos).filter fun o => inRanges r.keep (i * r.pagePos + o)

/-- The kept positions of list entry `i`, run by run: the first offset and the number. -/
def keptRuns (r : ParkRec) (i : Nat) : List (Nat × Nat) :=
  let base := i * r.pagePos
  (r.keep.map fun (a, c) => (Nat.max a base, Nat.min (a + c) (base + r.pagePos))).filterMap fun (a, b) =>
    if a < b then some (a - base, b - a) else none

/-- Bytes of a condensed position (R606). -/
def condPosBytes (q : Pool) : Nat := q.posBytes / (32 * elemSize q.elem) * 17

/-- The entries of the page list that a record copies (R592 to R594). -/
def ParkRec.entries (r : ParkRec) : List Nat :=
  (List.range (ceilDiv r.written r.pagePos)).filter fun i => r.firstOwn ≤ i

/-- Bytes of a condensed page of `k` kept positions (R606). -/
def condPageBytes (q : Pool) (k : Nat) : Nat := upTo 64 (32 + k * condPosBytes q)

/-- Bytes of a record (R593, R606). -/
def recordSize (q : Pool) (r : ParkRec) : Nat :=
  if r.condensed then r.shards * sumOf (r.entries.map fun i => condPageBytes q (keptOffsets r i).length)
  else r.shards * r.entries.length * q.pageBytes

/-- A keep mask of 32 bytes (R588). -/
def maskBytes (l : List Nat) : List Byte := leBytes 32 (sumOf (l.map fun o => 2 ^ o))

/-- Codes packed two to a byte, the lower-numbered element in bits [3:0] (R606). -/
def packNibbles (l : List Nat) : List Byte :=
  match l with
  | a :: b :: r => BitVec.ofNat 8 (a + 16 * b) :: packNibbles r
  | [a] => [BitVec.ofNat 8 a]
  | [] => []

/-- One position of one shard condensed, with the elements that were not finite (R605). -/
def condensePos (q : Pool) (bs : List Byte) : List Byte × Nat :=
  match formatOf q.elem with
  | none => ([], 0)
  | some f =>
    let es := elemSize q.elem
    let n := q.posBytes / (32 * es)
    let blocks := (List.range n).map fun k =>
      mxBlock f ((List.range 32).map fun j => ofLe (slice bs ((k * 32 + j) * es) es))
    (blocks.map (fun b => BitVec.ofNat 8 b.1) ++ (blocks.map fun b => packNibbles b.2.1).flatten,
      sumOf (blocks.map (·.2.2)))

/-- Bytes that the loads of a copy bring: whole pages, or the kept positions where the record is condensed (R593, R605). -/
def loadedSize (q : Pool) (r : ParkRec) : Nat :=
  if r.condensed then r.shards * sumOf (r.entries.map fun i => (keptOffsets r i).length) * q.posBytes
  else r.shards * r.entries.length * q.pageBytes

/-- Bytes that the stores of a restore carry: whole pages, or the kept positions and each page's mask (R598, R607). -/
def storedSize (q : Pool) (r : ParkRec) : Nat :=
  if r.condensed then
    r.shards * sumOf (r.entries.map fun i => 32 + (keptOffsets r i).length * q.posBytes)
  else r.bytes.length

/-- A condensed record's bytes from the kept positions that were loaded, shard by shard and page by page, with the
elements that were not finite (R606). -/
def condense (q : Pool) (r : ParkRec) (loaded : List Byte) : List Byte × Nat :=
  let page (acc : List Byte × Nat × Nat) (i : Nat) : List Byte × Nat × Nat :=
    let offs := keptOffsets r i
    let poss := (List.range offs.length).map fun k =>
      condensePos q (slice loaded ((acc.2.2 + k) * q.posBytes) q.posBytes)
    let body := maskBytes offs ++ (poss.map (·.1)).flatten
    (acc.1 ++ body ++ List.replicate (upTo 64 body.length - body.length) (0 : Byte), acc.2.1 + sumOf (poss.map (·.2)),
      acc.2.2 + offs.length)
  let all := (List.replicate r.shards r.entries).flatten.foldl page ([], 0, 0)
  (all.1, all.2.1)

/-- A condensed position expanded (R607). -/
def expandPos (q : Pool) (bs : List Byte) : List Byte :=
  match formatOf q.elem with
  | none => []
  | some f =>
    let n := q.posBytes / (32 * elemSize q.elem)
    ((List.range n).map fun k =>
      let scale := ofLe (slice bs k 1)
      ((List.range 32).map fun j =>
        let b := ofLe (slice bs (n + k * 16 + j / 2) 1)
        leBytes (elemSize q.elem) (mxElem f scale (b / 16 ^ (j % 2) % 16))).flatten).flatten

namespace Work

/-- The tenant's park record of a slot, changed. -/
def modPark (w : Work) (s : Nat) (g : ParkRec → ParkRec) : Work :=
  w.modSeq s fun x => { x with park := x.park.map g }

/-- What a copy loads of each shard: the own pages whole, or the runs of their kept positions (R593, R605). -/
def parkParts (w : Work) (s : Nat) (q : Pool) (r : ParkRec) : List PagePart :=
  let l := w.listOf s
  let pages := r.entries.filterMap fun i => (l[i]?).map fun n => (i, n % 2 ^ 26)
  if r.condensed then
    (pages.map fun (i, n) => (keptRuns r i).map fun (o, c) =>
      ({ page := n, at_ := o * q.posBytes, len := c * q.posBytes } : PagePart)).flatten
  else wholePages q (pages.map (·.2))

/-- KEEP_MAX (R601). -/
def keepMax (w : Work) (written : Nat) : Nat := ceilDiv (written * fld (w.reg rPkcKeep) 7 0) 256

/-- Ask for a keep-list (R601). -/
def askKeep (w : Work) (s : Nat) (r : ParkRec) : Work :=
  match w.pool? r.pool, w.shardSource r.pool 0 with
  | some q, some (e, g) =>
    let num := g.keepNum + 1
    let w := w.modEngine e fun g => { g with keepNum := num }
    let bytes := leBytes 32 (pack [(0, 32, seqHandle s (w.entry s)), (32, 32, num), (64, 21, r.written),
      (96, 21, w.keepMax r.written)])
    (w.storeHeld [(e, g.desc.ctrlAddr + q.keepqOffset)] bytes .keep).modPark s fun r => { r with
      copy := .keepList e num none, keepMax := w.keepMax r.written }
  | _, _ => w

/-- Charge a copy's extents and begin it, condense instead, or wait for space (R585, R617). -/
def startCopy (w : Work) (s : Nat) : Work :=
  match (w.seq s).park with
  | none => w
  | some r =>
    match w.pool? r.pool with
    | none => w
    | some q =>
      if r.entries.isEmpty then w.modPark s fun r => { r with copy := .done }
      else
        let c := (w.entry s).ctx
        match w.charge c (ceilDiv (recordSize q r) 65536) with
        | some (l, w) =>
          let w := (w.modPark s fun r => { r with copy := .copying, extents := l }).queueExtents l (recordSize q r) .park c
            (.copy s)
          w.loadParts r.pool q (w.parkParts s q r) (.park s)
        | none =>
          let alt := { r with condensed := true
                              keep := takeRanges (w.keepMax r.written)
                                [(r.firstOwn * r.pagePos, r.written - r.firstOwn * r.pagePos)] }
          if !r.condensed && !r.degraded && w.mayCharge c (ceilDiv (recordSize q alt) 65536) then
            (w.count cModeDown |>.modPark s fun r => { r with condensed := true }).askKeep s alt
          else
            let w := w.whenDo (!r.waited) fun w => (w.count cWaitSpace).event 10 0x0042 false (seqHandle s (w.entry s))
              (ceilDiv (recordSize q r) 65536)
            w.modPark s fun r => { r with copy := .waitSpace, waited := true }

/-- Why a sequence is parked. -/
inductive ParkWhy where
  | pause | growth | stall | handover | degraded
deriving DecidableEq, Repr

/-- Park a sequence (R233, R258, R298, R545, R591 to R595, R610, R859). -/
def park (w : Work) (s : Nat) (why : ParkWhy) : Work :=
  let e := w.entry s
  let x := w.seq s
  let t := (w.fctx e.ctx).tenant
  let written := if e.st = .decoding then e.length - 1 else e.length
  let ttl := if x.pauseTtl = 0 then t.defTtl else x.pauseTtl
  let w := w.modEntry s fun e => { e with
    st := .parked
    deadline := if why = .pause then 0 else e.deadline
    parkTtl := if why = .pause then ttl else e.parkTtl
    fl := { e.fl with bound := false, pausePending := false, displaced := decide (why ≠ .pause) } }
  let resident := sumOf (x.shared.map fun y => match w.fs.segs.get? y.seg with
    | some g => if g.copy.isSome then y.len else 0
    | none => 0)
  let pp := w.pagePos e.model
  match w.pool? x.ownPool with
  | none => w
  | some q =>
    let r : ParkRec :=
      { condensed := t.parkMode = 1 && why ≠ .degraded, stall := why = .stall, written := written, layout := q.kvLayout
        pagePos := pp, pool := x.ownPool, shards := q.kvShards, firstOwn := resident, at_ := w.now
        degraded := why = .degraded }
    let w := (w.writeBack s).queueParkHeader s e.ctx
    let w := w.modSeq s fun x => { x with
      park := some r, staged := none, marked := false, stallAt := none, stallWon := false, kv := written, follows := none
      assigned := none, pauseTtl := 0 }
    if r.condensed ∧ !r.entries.isEmpty then w.askKeep s r else w.startCopy s

/-- The keep-list of a park copy is in hand: the kept positions, up to the KEEP_MAX that was asked for, and the copy (R603,
R604). -/
def keepChosen (w : Work) (s : Nat) (ranges : Option (List (Nat × Nat))) : Work :=
  match (w.seq s).park with
  | none => w
  | some r =>
    let lo := r.firstOwn * r.pagePos
    let keep := match ranges with
      | none => [(lo, r.written - lo)]
      | some l => takeRanges r.keepMax (clipRanges lo l)
    (w.modPark s fun r => { r with keep := keep }).startCopy s

/-- KEEP_REQUEST_ACKED: the keep-list timeouts of an engine's requests begin (R603). -/
def keepRequestAcked (w : Work) (engine : Nat) : Work :=
  let t := w.now
  w.modFs fun f => { f with seqs := f.seqs.mapV fun _ x => { x with park := x.park.map fun r =>
    { r with copy := match r.copy with
      | .keepList e n none => if e = engine then .keepList e n (some t) else .keepList e n none
      | c => c } } }

/-- A park copy has finished (R298). -/
def finishCopy (w : Work) (s : Nat) : Work :=
  match (w.seq s).park with
  | some r => (w.modPark s fun r => { r with copy := .done }).count (if r.condensed then cParksCondensed else cParksFull)
  | none => w

/-- Begin to migrate a park copy to member `d`: the bytes leave in MIG_DATA (R777). -/
def startMigration (w : Work) (s d : Nat) : Work :=
  match (w.seq s).park with
  | some r =>
    let w := w.modFs fun f => { f with peer := { f.peer with
      migrations := f.peer.migrations ++ [({ slot := s, dest := d } : Migration)] } }
    let w := w.queueExtents r.extents r.bytes.length .migrate (w.entry s).ctx (.toMember s)
    w.sendPeer d (.migData (w.entry s).ctx (seqHandle s (w.entry s)) (ceilDiv r.bytes.length 65536) r.bytes)
  | none => w

/-- PARK_COPY_DONE: the last extent write of a copy has completed with its CRC (R298, R593, R606). `pages` holds the
bytes that the loads brought, shard by shard. Under STATE_AND_PARK the twin writes it too before it finishes (R742). -/
def parkCopyDone (w : Work) (s : Nat) (pages : List Byte) : Work :=
  match (w.seq s).park with
  | some r =>
    if r.copy ≠ .copying then w
    else match w.pool? r.pool with
    | none => w
    | some q =>
      let loaded := pages.take (loadedSize q r)
      let (bytes, bad) := if r.condensed then condense q r loaded else (loaded, 0)
      let w := (w.recvLoads fun l => l.why = .park s).memServed (.copy s)
      let w := (w.modPark s fun r => { r with bytes := bytes }).count cCdnNonfinite bad
      let w := w.chargePark (w.entry s).ctx (loaded.length + bytes.length)
      match r.away with
      | some d => (w.modPark s fun r => { r with copy := .migrating }).startMigration s d
      | none =>
        if w.mirrorsPark && !bytes.isEmpty then
          let w := (w.sendParkData s bytes false).queueExtents r.extents bytes.length .mirror (w.entry s).ctx (.toTwin s)
          w.modPark s fun r => { r with copy := .mirroring (w.fs.twin.link.nextSeq - 1) }
        else w.finishCopy s
  | none => w

/-- A member on the other end of a peer link that is up, whose HELLO shows a park tier with room for `n` extents
(R777). -/
def migrateDest (w : Work) (n : Nat) : Option Nat :=
  if !bit (w.reg rGroupCfg) 0 then none
  else (List.range 3).findSome? fun i =>
    let l := w.fs.peer.links.getD i {}
    match l.lastHello with
    | some h => if l.up && w.isMember h.pos && n ≤ h.parkGib * 1024 * 16 * w.idn.memPorts then some h.pos else none
    | none => none

/-- PARK_COPY_RETRY: a waiting copy is retried at a return of extents (R617); one that still finds no space migrates to
another member that has room (R777). -/
def parkCopyRetry (w : Work) (s : Nat) : Work :=
  match (w.seq s).park with
  | some { copy := .waitSpace, .. } =>
    let w := w.startCopy s
    match (w.seq s).park with
    | some r =>
      match r.copy, w.pool? r.pool with
      | .waitSpace, some q =>
        match w.migrateDest (ceilDiv (recordSize q r) 65536) with
        | some d =>
          (w.modPark s fun r => { r with copy := .copying, away := some d }).loadParts r.pool q (w.parkParts s q r) (.park s)
        | none => w
      | _, _ => w
    | none => w
  | _ => w

/-- PARK_TTL_EXPIRY (R259, R610). -/
def parkTtlExpiry (w : Work) (s : Nat) : Work :=
  let e := w.entry s
  match (w.seq s).park with
  | some r =>
    if e.st = .parked ∧ !e.fl.displaced ∧ !r.resumed ∧ w.fired r.at_ e.parkTtl then w.endSeq s 3 0x02 else w
  | none => w

/-! Restores (R596 to R600, R607). -/

/-- The sequence has a park copy that is finished and is due for restoring (R596). -/
def restoreDue (w : Work) (s : Nat) : Bool :=
  let e := w.entry s
  let x := w.seq s
  match x.park with
  | none => false
  | some r =>
    decide (r.copy = .done) && decide (r.restore = .none) &&
      (if e.st = .parked then (if r.stall then 0 < x.credits else e.fl.displaced) else decide (e.st = .queued) && r.resumed)

/-- The segment that holds the residency that a record names (R594). -/
def namedResidency (w : Work) (s : Nat) (r : ParkRec) : Option (Nat × Nat) :=
  if r.firstOwn = 0 then none
  else (w.seq s).refs.findSome? fun g => match w.fs.segs.get? g with
    | some y => (match y.copy with | some c => if r.firstOwn ≤ y.pages.length then some (g, c) else none | none => none)
    | none => none

/-- The residency on pool `p` that a record's first entries lie on. -/
def residentFor (w : Work) (s p : Nat) (r : ParkRec) : Option Nat :=
  match w.namedResidency s r with
  | some (_, c) => (w.residency c p).bind fun (g, y) => if y.placing then none else some g
  | none => none

/-- Pages that a restore reserves on pool `p` (R597). -/
def restorePages (w : Work) (s p : Nat) (r : ParkRec) : Nat :=
  ceilDiv r.written r.pagePos - (if (w.residentFor s p r).isSome then r.firstOwn else 0)

/-- The stores of a condensed restore (R607). -/
def storeCondensed (w : Work) (s p : Nat) (q : Pool) (r : ParkRec) (pages : List Nat) : Work :=
  let go := (List.range r.shards).foldl (fun (acc : Work × Nat) sh =>
    (r.entries.zip pages).foldl (fun (acc : Work × Nat) (i, n) =>
      let offs := keptOffsets r i
      let es := w.shardEngines p sh
      let w := acc.1.multicast (es.map fun (e, g) => (e, pageAddr q g.desc n + r.pagePos * q.posBytes)) (maskBytes offs) (.restore s)
      let w := w.each ((List.range offs.length).zip offs) fun w (k, o) =>
        let bs := slice r.bytes (acc.2 + 32 + k * condPosBytes q) (condPosBytes q)
        w.multicast (es.map fun (e, g) => (e, pageAddr q g.desc n + o * q.posBytes)) (expandPos q bs) (.restore s)
      (w, acc.2 + condPageBytes q offs.length)) acc) (w, 0)
  go.1

/-- What a restore takes from the copy of a handle, where the residency that the record names is not on the pool: the copy and
the number of its pages (R594, R597). -/
def leadCopy (w : Work) (s : Nat) (r : ParkRec) : Option (HandleCopy × Nat) :=
  if r.firstOwn = 0 || !(w.seq s).shared.isEmpty then none
  else (w.namedResidency s r).bind fun (_, c) => (w.fs.copies.get? c).map fun k => (k, r.firstOwn)

/-- Read the first pages of every shard of a handle's copy and store them, as traffic of the restore (R613, R635). -/
def restoreLead (w : Work) (s p : Nat) (q : Pool) (k : HandleCopy) (lead : Nat) : Work :=
  let n := k.q / k.pagePos
  let bs := ((List.range q.kvShards).map fun sh => slice k.bytes (sh * n * q.pageBytes) (lead * q.pageBytes)).flatten
  let w := w.each (List.range q.kvShards) fun w sh =>
    w.queueSpan k.extents (sh * n * q.pageBytes) ((sh * n + lead) * q.pageBytes) .park (w.entry s).ctx (.restore s)
  w.storePages p q ((w.seq s).own.take lead) bs (.restore s)

/-- The stores of a restore into the pages reserved on pool `p` (R594, R597, R598). -/
def restoreStores (w : Work) (s p : Nat) : Work :=
  match (w.seq s).park, w.pool? p with
  | some r, some q =>
    let x := w.seq s
    let lead := if x.shared.isEmpty then r.firstOwn else 0
    let w := match w.leadCopy s r with | some (k, n) => w.restoreLead s p q k n | none => w
    let w := if r.condensed then w.storeCondensed s p q r (x.own.drop lead) else w.storePages p q (x.own.drop lead) r.bytes (.restore s)
    (w.modPark s fun r => { r with restore := .storing p }).queueExtents r.extents r.bytes.length .park (w.entry s).ctx
      (.restore s)
  | _, _ => w

/-- The pages that a copied sequence still holds on the pool that it leaves stay its own until that pool's next phase 1
(R275, R298). -/
def leaveHeld (w : Work) (s : Nat) : Work :=
  let x := w.seq s
  match x.park with
  | some r =>
    if r.held then
      w.modSeq s fun y => { y with
        own := [], shared := [], left := y.left ++ [(x.ownPool, x.own)], park := some { r with held := false } }
    else w
  | none => w

/-- Reserve a restore's pages on pool `p` and begin its stores, or first the read of the extents from the member that
holds them (R597, R598, R778, R779). -/
def startRestore (w : Work) (s p : Nat) : Work :=
  match (w.seq s).park with
  | some r =>
    let w := (w.abandonMigration s).leaveHeld s
    let res := w.residentFor s p r
    let (pages, w) := w.takePages p (w.restorePages s p r)
    let w := w.modSeq s fun x => { x with
      own := pages, ownPool := p, joined := false
      shared := match res with | some g => [{ seg := g, start := 0, len := r.firstOwn }] | none => [] }
    let w := match res with | some g => w.refSeg s g | none => w
    match r.away with
    | some d => (w.sendPeer d (.migRead (seqHandle s (w.entry s)))).modPark s fun r => { r with restore := .fetching p }
    | none => w.restoreStores s p
  | none => w

/-- The memory-port and fabric bytes of a restore: what it reads of the record and of a handle's copy, and what it stores
(R635). -/
def restoreBytes (w : Work) (s p : Nat) (r : ParkRec) : Nat :=
  match w.pool? p with
  | some q =>
    let lead := match w.leadCopy s r with | some (_, n) => n * q.kvShards * q.pageBytes | none => 0
    r.bytes.length + storedSize q r + 2 * lead
  | none => 2 * r.bytes.length

/-- RESTORE_DONE: the last restore store is acknowledged (R598, R599). One that has met a lost extent, of its own or of the
handle's copy, stops (R618). -/
def restoreDone (w : Work) (s : Nat) : Work :=
  match (w.seq s).park with
  | some r =>
    match r.restore with
    | .storing p =>
      let w := (w.memServed (.restore s)).acknowledgeAll (.restore s)
      let lead := match w.leadCopy s r with | some (k, _) => k.extents | none => []
      if (r.extents ++ lead).any fun e => w.fs.park.lost.has e then w.endSeq s 3 0x01
      else
        ((w.modPark s fun r => { r with restore := .done p }).count cRestores).chargePark (w.entry s).ctx
          (w.restoreBytes s p r)
    | _ => w
  | none => w

/-! Lost park-tier data (R618, R861). -/

/-- Restart a copy on fresh extents (R861). -/
def restartCopy (w : Work) (s : Nat) (r : ParkRec) : Work :=
  let w := (w.returnExtents (w.entry s).ctx r.extents).modPark s fun r => { r with extents := [], copy := .waitSpace }
  ((w.closeLoads fun l => l.why = .park s).dropJobs fun y => y = .copy s || y = .toTwin s).startCopy s

/-- The consequence of a lost extent for the records and copies that it held (R861). -/
def extentGone (w : Work) (x : Nat) : Work :=
  let hit := w.fs.seqs.filterV fun _ y =>
    (match y.park with | some r => r.extents.contains x | none => false) ||
      (match y.replay with | some l => l.contains x | none => false)
  let w := w.each (hit.map (·.1)) fun w s =>
    let e := w.entry s
    let y := w.seq s
    let w := match y.replay with
      | some l => if l.contains x then
          ((w.returnExtents e.ctx l).modSeq s fun y => { y with replay := none }).fault 0 10 0x21 x else w
      | none => w
    match y.park with
    | some r =>
      if !r.extents.contains x then w
      else if r.copy = .done then w.faultF1 s 10 0x21
      else (w.fault 0 10 0x21 x).restartCopy s r
    | none => w
  let copies := w.fs.copies.filterV fun _ k => k.extents.contains x
  w.each (copies.map (·.1)) fun w c => ((w.fault 0 10 0x21 x).placementLost c).removeHandles fun _ r => r.copy = c

/-- An extent is marked lost, with what follows from it; a SHADOW decides nothing (R734, R861). -/
def extentLost (w : Work) (x : Nat) : Work :=
  let w := (w.modFs fun f => { f with park := { f.park with lost := f.park.lost.set x () } }).event 10 0x0040 true x
    (x % w.idn.memPorts)
  if w.follows then w else w.extentGone x

/-- The consequence of a lost interleaved unit: the handle table, the count tables or the park directory (R579, R582,
R583, R861). Units are numbered from the lowest usable address. -/
def unitGone (w : Work) (u : Nat) : Work :=
  let tables := if w.idn.isM then 65536 else 262144
  if u < 32768 then
    -- 8 buckets of 512 bytes in a unit of 4 KiB
    (w.fault 0 10 0x21 u).removeHandles fun h _ => bucketOf h / 8 = u
  else if u < 32768 + tables then
    let s := u - 32768
    if (w.entry s).st.live ∧ hasCounts (w.entry s) then w.faultF1 s 10 0x21 else w
  else
    let first := (u - 32768 - tables) * 64
    w.each (w.slotsWhere fun s e => first ≤ s && s < first + 64 && e.st = .parked) fun w s => w.faultF1 s 10 0x21

/-- An interleaved unit is marked lost, with what follows from it; a SHADOW decides nothing (R734, R861). -/
def unitLost (w : Work) (u : Nat) : Work :=
  let w := w.event 10 0x0040 true (u + 2 ^ 63) (u % w.idn.memPorts)
  if w.follows then w else w.unitGone u

end Work

end Sys2Proof.Machine
end

