-- ==== Sys2Proof/Machine/Memory.lean ====
section
/-! DEFINITION. Memory ports and the message gate: in-line CRC, lost data, retraining, refresh, DFI grants, crossings
(R578, R579, R581, R694 to R707, R715, R716). -/

namespace Sys2Proof.Machine

/-- The CRC word of a data block (R704). -/
def blockCrc (port addr : Nat) (data : List Byte) : Word :=
  crc32c (data ++ leBytes 8 (addr % 2 ^ 56 + port % 256 * 2 ^ 56))

/-- A message as the receiving half of the gate finds it (R715, R716). -/
def gateMsgGood (g : GateMsg) : Bool :=
  g.typ < (if g.toFabric then 3 else 5) && g.lenOk && g.ctx < 256 && crc32c g.bytes = g.crc

namespace Work

/-! Where data lies (R579, R581). -/

/-- The interleaved units of 4 KiB before the extent space. -/
def interleaved (w : Work) : Nat := (if w.idn.isM then 128 + 256 + 4 else 128 + 1024 + 16) * 256

/-- The lowest port byte address of the extent space. -/
def extentBase (w : Work) : Nat := ceilDiv w.interleaved w.idn.memPorts * 4096

/-- What a port byte address belongs to. -/
inductive Held where
  | unit (u : Nat)
  | extent (e : Nat)
  | neither
deriving DecidableEq, Repr

/-- The interleaved unit or the extent that holds an address of a port. -/
def heldAt (w : Work) (port addr : Nat) : Held :=
  let n := w.idn.memPorts
  let u := addr / 4096 * n + port
  let e := (addr - w.extentBase) / 65536 * n + port
  if u < w.interleaved then .unit u
  else if w.extentBase ≤ addr ∧ e < w.extentTotal then .extent e
  else .neither

/-! Ports. -/

/-- Change a memory port. -/
def modMem (w : Work) (port : Nat) (g : MemPort → MemPort) : Work :=
  w.modFs fun f => { f with memPorts := f.memPorts.modD port {} g }

/-- The port serves accesses. -/
def memServes (w : Work) (port : Nat) : Bool :=
  let p := w.fs.memPorts.getD port {}
  w.fs.boot.up && !w.fs.boot.shutDone && port < w.idn.memPorts && p.trained && !p.failed

/-- Mark an extent or an interleaved unit lost, once (R702, R706, R861). -/
def markLost (w : Work) (port : Nat) (h : Held) : Work :=
  match h with
  | .extent e =>
    if w.fs.park.lost.has e then w else (w.modMem port fun p => { p with lost := p.lost + 1 }).extentLost e
  | .unit u =>
    if (w.fs.memPorts.getD port {}).lostUnits.has u then w
    else (w.modMem port fun p => { p with lost := p.lost + 1, lostUnits := p.lostUnits.set u () }).unitLost u
  | .neither => w

/-- The bytes of a port's data region: 63/64 of its capacity. The CRC word of data block b lies above, at this offset plus 4b
(R703). -/
def dataRegion (w : Work) : Nat := 63 * w.fs.park.gib * 2 ^ 24

/-- MEM_READ_RETURN: a data block and its CRC word return (R703, R704, R706's steps 1 to 4). -/
def memReadReturn (w : Work) (port addr : Nat) (data : List Byte) (crc : Word) : Work :=
  if !w.memServes port || addr % 256 ≠ 0 || w.dataRegion ≤ addr || data.length ≠ 256 then w
  else
    let tries := match (w.fs.memPorts.getD port {}).retries.find? (·.addr = addr) with | some r => r.tries | none => 0
    let drop (l : List MemRetry) : List MemRetry := l.filter (·.addr ≠ addr)
    if blockCrc port addr data = crc then
      let w := w.modMem port fun p => { p with retries := drop p.retries }
      w.whenDo (0 < tries) fun w => (w.count (cMemRetry port)).fault 0 10 0x11 0
    else if tries < fld (w.reg rMemCfg) 10 8 then
      w.modMem port fun p => { p with retries := drop p.retries ++ [{ addr := addr, tries := tries + 1 }] }
    else
      let w := (w.modMem port fun p => { p with retries := drop p.retries }).count (cMemLost port)
      w.markLost port (w.heldAt port addr)

/-- A port fails in service: everything on it is lost (R702). -/
def portFailed (w : Work) (port : Nat) : Work :=
  let n := w.idn.memPorts
  let w := (w.modMem port fun p => { p with failed := true, jobs := [] }).event 10 0x0041 true port 1
  let w := w.fault 0 10 0x22 0
  let units := (List.range (ceilDiv w.interleaved n)).map fun k => k * n + port
  let extents := (List.range (ceilDiv w.extentTotal n)).map fun k => k * n + port
  let w := (units.filter (· < w.interleaved)).foldl (fun w u => w.markLost port (.unit u)) w
  (extents.filter (· < w.extentTotal)).foldl (fun w e => w.markLost port (.extent e)) w

/-- MEM_RETRAIN: RETRAIN_INTERVAL has passed on a port; the refresh-rate status is read with it (R700 to R702). -/
def memRetrain (w : Work) (port : Nat) (ok : Bool) (rate : Nat) : Work :=
  let p := w.fs.memPorts.getD port {}
  if !w.memServes port || !w.fired p.lastTrain (w.reg rMemRetrain) then w
  else
    let bad := if ok then 0 else p.badRow + 1
    let w := (w.count (cMemRetrains port)).modMem port fun p =>
      { p with lastTrain := w.now, badRow := bad, refresh := rate % 8 }
    if bad = 3 then w.portFailed port else w

/-- MEM_REFRESH: the refresh-rate status is read (R701). -/
def memRefresh (w : Work) (port rate : Nat) : Work :=
  if w.memServes port then w.modMem port fun p => { p with refresh := rate % 8 } else w

/-- DFI_PHY_REQUEST: an update or a PHY master request is granted at the next round boundary (R694). -/
def dfiPhyRequest (w : Work) (port : Nat) : Work :=
  if w.memServes port then w.modMem port fun p => { p with phyWaits := p.phyWaits + 1 } else w

/-! The message gate (R715, R716). -/

/-- A resend is an F0 fault of the sending half (R852). -/
def gateResendFault (w : Work) (fabric : Bool) : Work :=
  if fabric then w.fault 0 0 0x12 0 else w.event 17 0x0050 true 0 0

/-- GATE_CROSSING: the receiving half checks a message; a refused one is sent again, up to three times. -/
def gateCrossing (w : Work) (g : GateMsg) : Work :=
  let tries := if g.toFabric then w.hs.refusedToFs else w.hs.refusedToHs
  let set (w : Work) (n : Nat) : Work :=
    w.modHs fun h => if g.toFabric then { h with refusedToFs := n } else { h with refusedToHs := n }
  if !w.hs.up || !w.fs.boot.up then w
  else if gateMsgGood g then set w 0
  else if tries < 3 then ((set w (tries + 1)).count cGateRetry).gateResendFault (!g.toFabric)
  else (set w 0).faultF4 (!g.toFabric) (if g.toFabric then 17 else 0) 0x30 0

end Work

end Sys2Proof.Machine
end

