-- ==== Sys2Proof/Machine/Peer.lean ====
section
/-! DEFINITION. Groups of instances: HELLO, peer messages, quotas, forwarded admissions, relays and migration (R759 to
R781). -/

namespace Sys2Proof.Machine

namespace Work

/-- PEER_LOSS and REBAL_INTERVAL. -/
def peerLoss (w : Work) : Nat := fld (w.reg rGroupTiming) 15 0
def rebalInterval (w : Work) : Nat := fld (w.reg rGroupTiming) 31 16

/-- Change the peer unit. -/
def modPeer (w : Work) (g : Peer → Peer) : Work := w.modFs fun f => { f with peer := g f.peer }

/-! HELLO and the links (R729, R761, R762). -/

/-- EMPTY of R729: no pool exists and no tenant context is provisioned. -/
def emptyBit (w : Work) : Bool := w.fs.pools.isEmpty && !(w.hs.ctxs.any fun (c, h) => 0 < c && h.key.isSome)

/-- The HEARTBEAT or HELLO body of this instance. -/
def beatNow (w : Work) (pos : Nat) : Heartbeat :=
  { state := w.twinState.code, ready := w.ready, empty := w.emptyBit, takeovers := w.fs.twin.takeovers
    version := 0x00030100, config := b01 w.idn.isM, srcId := w.reg rFabSrc, fabBase := w.reg64 rFabBase
    parkGib := w.fs.park.gib, pos := pos }

/-- HELLO_SEND: every 10 µs on every peer link (R761). -/
def helloSend (w : Work) : Work :=
  w.each (List.range 3) fun w i =>
    let due := match (w.link (i + 1)).lastSent with | some t => w.fired t 100 | none => true
    if due then
      (w.modLink (i + 1) fun l => { l with lastSent := some w.now }).sendUnnumbered (i + 1) (.hello (w.beatNow w.idn.grpPos))
    else w

/-- The quota of a context: GQ_SEQS or GQ_PARK. -/
def quota (w : Work) (c : Nat) (park : Bool) : Nat := w.reg (rGqCfg c + if park then 4 else 0)
/-- The slice that this member holds. -/
def sliceOf (w : Work) (c : Nat) (park : Bool) : Nat := if park then (w.fctx c).gqParkSlice else (w.fctx c).gqSlice
/-- Set the slice. -/
def setSlice (w : Work) (c : Nat) (park : Bool) (n : Nat) : Work :=
  w.modFctx c fun x => if park then { x with gqParkSlice := n } else { x with gqSlice := n }
/-- What the context uses here. -/
def usageOf (w : Work) (c : Nat) (park : Bool) : Nat := if park then (w.fctx c).parkUsed else (w.fctx c).seqs

/-- The coordinator's own slice of a quota is the quota less the last slices reported by the other members (R766). -/
def takeSlice (w : Work) (c : Nat) (park : Bool) : Work :=
  let others := sumOf ((w.fs.peer.lastReports.filter fun r =>
    r.ctx = c && r.park = park && r.member ≠ w.idn.grpPos).map (·.slice))
  w.setSlice c park (w.quota c park - others)

/-- This member is the coordinator of its group. -/
def coordinates (w : Work) : Bool := w.groupEn && w.isMember w.idn.grpPos && w.coordinator = w.idn.grpPos

/-- A member that has become the coordinator since it last looked takes its own slice of every quota (R766). -/
def lead (w : Work) : Work :=
  let now := w.coordinates
  let w := w.whenDo (now && !w.fs.peer.led) fun w =>
    w.each ((List.range 255).map (· + 1)) fun w c => (w.takeSlice c false).takeSlice c true
  w.modPeer fun q => { q with led := now }

/-- A path has come back: unacknowledged records of forwarded sequences go out again, with REPLAYED set (R775). -/
def resendRelays (w : Work) (old : Nat → Bool) : Work :=
  w.each (w.fs.peer.relays.filter fun r => !old r.1 && w.pathTo r.1) fun w (m, num, r) =>
    w.sendPeer m (.relay num { r with replayed := true })

/-- PEER_LINK_LOSS: no valid frame for PEER_LOSS (R762). -/
def peerLinkLoss (w : Work) (k : Nat) : Work :=
  let l := w.link k
  match l.lastValid with
  | some t =>
    if 0 < k && k ≤ 3 && l.up && w.fired t w.peerLoss then
      (w.modLink k fun l => { l with up := false, downAt := w.now }).lead.event 15 0x0071 true (k - 1) 0
    else w
  | none => w

/-- PEER_LOSS has run out on peer link `k` before the frame that now arrives (R88, R762). -/
def linkLate (w : Work) (k : Nat) : Bool :=
  let l := w.link k
  0 < k && k ≤ 3 && l.up && match l.lastValid with | some t => w.lapsed t w.peerLoss | none => false

/-- The member at the other end of a peer link has left reset since its last HELLO: it has taken fewer frames than it had
acknowledged, or it is READY no longer (R727, R773; DEDUCED, log entry 79). -/
def restarted (l : Link) (ackseq : Nat) (h : Heartbeat) : Bool :=
  decide (ackseq < l.acked) || (match l.lastHello with | some o => o.ready && !h.ready | none => false)

/-- The frame numbers of link `k` and the forward numbers to and from the member at its other end, position `pos`, start anew
(R727, R773). -/
def restartMember (w : Work) (k pos : Nat) : Work :=
  let w := w.modLink k fun l => { l with nextSeq := 1, taken := 0, acked := 0, ackAt := w.now, unacked := [] }
  w.modPeer fun q => { q with
    nextForward := q.nextForward.erase pos, answers := q.answers.erase pos
    relayPort := q.relayPort.filter fun r => r.1 ≠ pos }

/-- HELLO_RX: a HELLO arrives on peer link `k` (R762). One that comes after PEER_LOSS has run finds the link down (R88). -/
def helloRx (w : Work) (k ackseq : Nat) (fcrc : Word) (h : Heartbeat) : Work :=
  let l := w.link k
  if k = 0 || 3 < k || fcrc ≠ beatCrc 0x10 ackseq h then w
  else if w.linkLate k then w.peerLinkLoss k
  else
    let right := h.pos = w.idn.grpPos ^^^ 2 ^ (k - 1) && h.version = 0x00030100 && h.config = b01 w.idn.isM
    let paths := w.pathTo
    let w := w.whenDo (right && restarted l ackseq h) fun w => w.restartMember k h.pos
    let w := w.modLink k fun l => { l with
      lastValid := some w.now, lastHello := some h, up := right, miswired := !right
      downAt := if l.up && !right then w.now else l.downAt }
    let w := (w.takeAck k ackseq).lead
    let w := if right then w.whenDo (!l.up) fun w => w.event 15 0x0071 true (k - 1) 1
      else w.whenDo (!l.miswired) fun w => w.event 15 0x0071 true (k - 1) 2
    (w.resendRelays paths).retryPaths

/-- The count since which a position has had no path: that at which its first hop went down, or at which the twin was heard
no longer, whichever came later (R763). -/
def pathLostAt (w : Work) (i : Nat) : Nat :=
  Nat.max (w.link (i + 1)).downAt (match w.fs.twin.link.lastValid with
    | some t => t + w.edges (fld (w.reg rTwinCfg) 15 0)
    | none => 0)

/-- A position has been without a path for PEER_LOSS (R763). -/
def undeliverable (w : Work) (pos : Nat) : Bool :=
  match w.hopTo pos with
  | some i => !w.pathTo pos && w.fired (w.pathLostAt i) w.peerLoss
  | none => false

/-! Arrival of peer messages (R763, R764). -/

/-- This instance is the addressee of a message for its position (R763). -/
def addressee (w : Work) (dest : Nat) : Bool :=
  dest = w.idn.grpPos && (match w.twinState with | .unpaired | .pairedA | .isolated => true | _ => false)

/-- Take a peer message from its frame: `act` at the addressee, passed on elsewhere, discarded for a position outside
MEMBERS. -/
def takePeer (w : Work) (f : FrameIn) (src dest : Nat) (m : PeerMsg) (act : Work → Work) : Work :=
  if !(f.link = 0 || (w.link f.link).up) then w
  else match w.takeFrame f with
  | none => w.badFrame f.link
  | some w =>
    if !w.isMember dest then w
    else if w.addressee dest then act w
    else w.passPeer src dest m

/-- PEER_MESSAGE_TRANSIT (R763). -/
def peerTransit (w : Work) (f : FrameIn) (src dest : Nat) (m : PeerMsg) : Work := w.takePeer f src dest m id

/-! Forwarded admissions (R771 to R776). -/

/-- The home decides a FORWARD with the next number and keeps its answer (R771, R773). -/
def decideForward (w : Work) (src num port : Nat) (p : Packet) (budget : Nat) : Work :=
  let c := p.ctx.toNat
  let (w, a) :=
    if !w.readyFor opSubmit then (w, Ans.refuse stNotReady)
    else
      let (w, r, k) := w.requestOf port (some (src, num)) p budget
      (w.count (cClamp c) k).decideSubmit r
  let reply := replyTo opSubmit p a
  let (_, old) := w.fs.peer.answers.getD src (0, [])
  let kept : Tbl Reply := (old.set num reply).filterV fun n _ => num < n + 1024
  let w := w.modPeer fun q => { q with answers := q.answers.set src (num, kept) }
  (w.count cPeerFwdIn).sendPeer src (.answer num reply)

/-- PEER_FORWARD: a FORWARD reaches its home; repeats are answered from the window under the rules of R688. -/
def peerForward (w : Work) (f : FrameIn) (src dest num port : Nat) (p : Packet) (budget : Nat) : Work :=
  w.takePeer f src dest (.forward num port p budget) fun w =>
    let (h, kept) := w.fs.peer.answers.getD src (0, [])
    if num = h + 1 then w.decideForward src num port p budget
    else match kept.get? num with
    | some r => w.sendPeer src (.answer num r)
    | none => w

/-- Take a forward out of those outstanding, with the context that waits for it. -/
def dropForward (w : Work) (dest num : Nat) : Work × Option Forward :=
  match w.fs.peer.forwards.find? fun x => x.dest = dest && x.num = num with
  | none => (w, none)
  | some x => (w.modPeer fun q => { q with forwards := q.forwards.filter fun y => y ≠ x }, some x)

/-- PEER_ANSWER: the home's reply becomes this member's own (R774): the flag is the context that it goes to. -/
def peerAnswer (w : Work) (f : FrameIn) (src dest num : Nat) (r : Reply) : Work × Option Nat :=
  let wanted := w.addressee dest && w.fs.peer.forwards.find? (fun x => x.dest = src && x.num = num) ≠ none &&
    (w.takeFrame f).isSome && w.isMember dest && (f.link = 0 || (w.link f.link).up)
  let c := match w.fs.peer.forwards.find? fun x => x.dest = src && x.num = num with | some x => x.pkt.ctx.toNat | none => 0
  let w := w.takePeer f src dest (.answer num r) fun w =>
    match w.dropForward src num with
    | (w, some x) =>
      if r.status = stOk then
        w.modPeer fun q => { q with relayPort := q.relayPort ++ [(src, num, x.port, x.pkt.ctx.toNat)] }
      else w
    | (w, none) => w
  (w, if wanted then some c else none)

/-- FORWARD_RETRY: 50 µs without an answer (R773). -/
def forwardRetry (w : Work) (dest num : Nat) : Work :=
  match w.fs.peer.forwards.find? fun x => x.dest = dest && x.num = num with
  | none => w
  | some x =>
    if w.fired x.at_ 500 then
      let w := w.modPeer fun q => { q with forwards := q.forwards.map fun y => if y = x then { y with at_ := w.now } else y }
      w.sendPeer dest (.forward num x.port x.pkt (x.budget - w.hnsUp (w.now - x.firstAt)))
    else w

/-- FORWARD_LOST: no answer after 2 × PEER_LOSS (R776): the flag is the context that is answered NO_PREFIX. -/
def forwardLost (w : Work) (dest num : Nat) : Work × Option Nat :=
  match w.fs.peer.forwards.find? fun x => x.dest = dest && x.num = num with
  | none => (w, none)
  | some x =>
    if w.fired x.firstAt (2 * w.peerLoss) then ((w.dropForward dest num).1.count cPeerFwdLost, some x.pkt.ctx.toNat)
    else (w, none)

/-- 2 × PEER_LOSS has run out for a FORWARD before the answer that now arrives (R88, R776). -/
def forwardLate (w : Work) (dest num : Nat) : Bool :=
  w.fs.peer.forwards.any fun x => x.dest = dest && x.num = num && w.lapsed x.firstAt (2 * w.peerLoss)

/-- FORWARD_PATH_LOST: the sequences forwarded from a member without a path end (R776). -/
def forwardPathLost (w : Work) (pos : Nat) : Work :=
  if !w.undeliverable pos then w
  else
    let from_ (s : Nat) : Bool := match (w.seq s).home with | some (m, _) => m = pos | none => false
    let w := w.each (w.slotsWhere fun s e => e.st.live && from_ s) fun w s => w.endSeq s 3 0x01
    w.modPeer fun q => { q with relays := q.relays.filter fun r => r.1 ≠ pos }

/-- PEER_RELAY: a ring record of a forwarded sequence reaches the receiving member and joins the tenant's reply stream on
the port of the SUBMIT (R775); without a record, the acknowledgement of one reaches the home. -/
def peerRelay (w : Work) (f : FrameIn) (src dest num : Nat) (r : Option RingRec) : Work :=
  match r with
  | some r => w.takePeer f src dest (.relay num r) fun w =>
      match w.fs.peer.relayPort.find? fun x => x.1 = src && x.2.1 = num with
      | some (_, _, port, c) => w.stream c { port := port, msg := .ring r, after := .relayTaken src num }
      | none => w
  | none => w.takePeer f src dest (.relayTaken num 1) fun w =>
      let rec drop (l : List (Nat × Nat × RingRec)) : List (Nat × Nat × RingRec) :=
        match l with
        | [] => []
        | x :: t => if x.1 = src ∧ x.2.1 = num then t else x :: drop t
      w.modPeer fun q => { q with relays := drop q.relays }

/-! Quotas (R765 to R769). -/

/-- A grant arrives. -/
def takeGrant (w : Work) (c : Nat) (park : Bool) (n : Nat) : Work := w.setSlice c park (w.sliceOf c park + n)

/-- The coordinator grants released units to the members below their targets, ascending (R768). What no member lacks it
keeps. -/
def grantOut (w : Work) (c : Nat) (park : Bool) (amount : Nat) (l : List QuotaReport) : Work :=
  match l with
  | [] => w.takeGrant c park amount
  | x :: r =>
    if amount = 0 then w
    else if x.ctx ≠ c ∨ x.park ≠ park then w.grantOut c park amount r
    else
      let n := Nat.min amount x.slice
      let cut (y : QuotaReport) : QuotaReport := if y = x then { y with slice := y.slice - n } else y
      let w := w.modPeer fun q => { q with wants := (q.wants.map cut).filter fun y => 0 < y.slice }
      let w := if x.member = w.idn.grpPos then w.takeGrant c park n else w.sendPeer x.member (.quota (.grant c park n))
      w.grantOut c park (amount - n) r

/-- A member above its target releases the excess that it does not use; the answer is the amount (R768, R769). -/
def releaseSlice (w : Work) (c : Nat) (park : Bool) (target : Nat) : Work × Nat :=
  let slice := w.sliceOf c park
  let n := Nat.min (slice - target) (slice - w.usageOf c park)
  ((w.setSlice c park (slice - n)).count cPeerQuotaMoves n, n)

/-- The coordinator sets the targets of one quota from the reports of the interval (R767, R768). -/
def closeRound (w : Work) (c : Nat) (park : Bool) : Work :=
  let mine (r : QuotaReport) : Bool := r.ctx = c && r.park = park
  let rs := w.fs.peer.reports.filter mine
  if rs.isEmpty then w
  else
    let m := rs.length
    -- a quota lowered below the usage leaves a negative amount to share
    let free : Int := (w.quota c park : Int) - sumOf (rs.map (·.usage))
    let low := minOf 0 (rs.map (·.member))
    let target (r : QuotaReport) : Nat := (r.usage + free.fdiv m + (if r.member = low then free.fmod m else 0)).toNat
    let order := ((List.range 8).map fun p => rs.filter (·.member = p)).flatten
    let below := order.filter fun r => r.slice < target r
    let above := order.filter fun r => target r < r.slice
    let w := w.modPeer fun q => { q with
      reports := q.reports.filter fun r => !mine r
      wants := (q.wants.filter fun r => !mine r) ++ below.map fun r => { r with slice := target r - r.slice } }
    w.each above fun w r =>
      if r.member = w.idn.grpPos then
        let (w, n) := w.releaseSlice c park (target r)
        w.grantOut c park n w.fs.peer.wants
      else w.sendPeer r.member (.quota (.target c park (target r)))

/-- The coordinator takes a report; once every member with a path has reported, the round closes (R767). -/
def takeReport (w : Work) (r : QuotaReport) : Work :=
  let same (x : QuotaReport) : Bool := x.member = r.member && x.ctx = r.ctx && x.park = r.park
  let w := w.modPeer fun q => { q with
    reports := (q.reports.filter fun x => !same x) ++ [r], lastReports := (q.lastReports.filter fun x => !same x) ++ [r] }
  let all := ((List.range 8).filter fun p => w.isMember p && w.pathTo p).all fun p =>
    w.fs.peer.reports.any fun x => x.member = p && x.ctx = r.ctx && x.park = r.park
  if all then w.closeRound r.ctx r.park else w

/-- QUOTA_REBALANCE: the interval ends (R767). The coordinator first closes the rounds still open. -/
def quotaRebalance (w : Work) : Work :=
  if !w.groupEn || !w.isMember w.idn.grpPos || !w.fired w.fs.peer.lastRebal w.rebalInterval then w
  else
    let w := w.modPeer fun q => { q with lastRebal := w.now }
    let quotas := ((List.range 255).map fun i => [(i + 1, false), (i + 1, true)]).flatten.filter fun (c, park) => w.quota c park ≠ 0
    let w := w.each quotas fun w (c, park) => if w.coordinates then w.closeRound c park else w
    w.each quotas fun w (c, park) =>
      let r : QuotaReport := { member := w.idn.grpPos, ctx := c, park := park, usage := w.usageOf c park, slice := w.sliceOf c park }
      if w.coordinates then w.takeReport r
      else w.sendPeer w.coordinator (.quota (.report c park r.usage r.slice))

/-- QUOTA_MESSAGE (R767, R768). -/
def quotaMessage (w : Work) (f : FrameIn) (src dest : Nat) (m : QuotaMsg) : Work :=
  w.takePeer f src dest (.quota m) fun w =>
    match m with
    | .report c park u s =>
      if w.coordinates then w.takeReport { member := src, ctx := c, park := park, usage := u, slice := s } else w
    | .target c park t =>
      let (w, n) := w.releaseSlice c park t
      w.sendPeer src (.quota (.released c park n))
    | .released c park n => w.grantOut c park n w.fs.peer.wants
    | .grant c park n => w.takeGrant c park n

/-! Migration (R777 to R780). -/

/-- A write to PEER_MIGRATE: a finished park copy of a PARKED sequence begins to migrate (R777). -/
def peerMigrateWrite (w : Work) (seq dest : Nat) : Work :=
  let s := handleSlot seq
  let e := w.entry s
  match (w.seq s).park with
  | some r =>
    if w.groupEn && e.fl.issued && handleGen seq = e.gen && e.st = .parked && r.copy = .done && r.restore = .none &&
        r.away.isNone && !w.migrating s && w.isMember dest && dest ≠ w.idn.grpPos then w.startMigration s dest
    else w
  | none => w

/-- A migration finishes, or its destination has no room (R777, R779). -/
def migrationTaken (w : Work) (src seq : Nat) (ok : Bool) : Work :=
  let s := handleSlot seq
  match w.fs.peer.migrations.find? fun m => m.slot = s && m.dest = src && seqHandle s (w.entry s) = seq, (w.seq s).park with
  | some m, some r =>
    let w := (w.modPeer fun q => { q with migrations := q.migrations.filter fun x => x ≠ m }).memServed (.toMember s)
    let fresh := r.copy = .migrating
    if ok then
      let w := (w.returnExtents (w.entry s).ctx r.extents).modPark s fun r => { r with extents := [], bytes := [], away := some src }
      (w.whenDo fresh fun w => w.finishCopy s).count cPeerMigrated
    else w.modPark s fun r => if fresh then { r with copy := .waitSpace, away := none, bytes := [] } else r
  | _, _ => w

/-- The destination charges a migrated copy's extents and writes them (R777, R765). -/
def takeGuest (w : Work) (src c seq n : Nat) (bytes : List Byte) : Work :=
  match w.charge c n with
  | some (l, w) =>
    let w := w.modFs fun f => { f with park := { f.park with
      guests := f.park.guests ++ [{ member := src, seq := seq, ctx := c, extents := l, bytes := bytes }] } }
    let w := w.queueExtents l bytes.length .migrate c (.guest seq)
    w.sendPeer src (.migTaken seq true)
  | none => w.sendPeer src (.migTaken seq false)

/-- The extents of a migrated copy arrive back for a restore (R778); a copy whose extents are lost brings none, and the
restore stops (R618). -/
def migrationBytes (w : Work) (seq : Nat) (bytes : List Byte) : Work :=
  let s := handleSlot seq
  match (w.seq s).park with
  | some r =>
    match r.restore with
    | .fetching p =>
      if seqHandle s (w.entry s) ≠ seq then w
      else if bytes.isEmpty then w.endSeq s 3 0x01
      else (w.modPark s fun r => { r with bytes := bytes }).restoreStores s p
    | _ => w
  | none => w

/-- MIG_DATA_FRAME: the bytes of a migrated copy, or an answer about one (R777 to R779). -/
def migDataFrame (w : Work) (f : FrameIn) (src dest : Nat) (m : PeerMsg) : Work :=
  w.takePeer f src dest m fun w =>
    match m with
    | .migData c seq n bytes => w.takeGuest src c seq n bytes
    | .migTaken seq ok => w.migrationTaken src seq ok
    | .migBytes seq bytes => w.migrationBytes seq bytes
    | _ => w

/-- MIGRATED_EXTENT_READ: the destination serves a restore's read (R778). -/
def migratedRead (w : Work) (f : FrameIn) (src dest seq : Nat) : Work :=
  w.takePeer f src dest (.migRead seq) fun w =>
    match w.fs.park.guests.find? fun g => g.member = src && g.seq = seq with
    | some g =>
      let lost := g.extents.any fun e => w.fs.park.lost.has e
      let w := w.queueExtents g.extents g.bytes.length .migrate g.ctx (.guest seq)
      (w.chargePark g.ctx g.bytes.length).sendPeer src (.migBytes seq (if lost then [] else g.bytes))
    | none => w.sendPeer src (.migBytes seq [])

/-- MIGRATED_EXTENTS_RETURN: the destination frees the extents (R778, R779). -/
def migratedReturn (w : Work) (f : FrameIn) (src dest seq : Nat) : Work :=
  w.takePeer f src dest (.migReturn seq) fun w =>
    match w.fs.park.guests.find? fun g => g.member = src && g.seq = seq with
    | some g =>
      (w.returnExtents g.ctx g.extents).modFs fun f => { f with park := { f.park with
        guests := f.park.guests.filter fun x => x ≠ g } }
    | none => w

/-- MIGRATION_DEST_LOST: the extents held at a member without a path are lost (R780, R618, R861). -/
def migrationDestLost (w : Work) (pos : Nat) : Work :=
  if !w.undeliverable pos then w
  else
    let w := w.each (w.fs.peer.migrations.filter fun m => m.dest = pos) fun w m => w.abandonMigration m.slot
    let there := w.fs.seqs.keys fun _ x => match x.park with | some r => r.away = some pos && r.copy = .done | none => false
    w.each there fun w s =>
      match (w.seq s).park with
      | some r => if r.restore = .none then w.faultF1 s 10 0x21 else w.endSeq s 3 0x01
      | none => w

end Work

end Sys2Proof.Machine
end

