-- ==== Sys2Proof/Machine/Cost.lean ====
section
/-! DEFINITION. The cost model of the step composer: engine cost, route round trips, sampler share, micro-batch split,
planned duration, planned energy (R58 to R62, R327, R359 to R367, R644). -/

namespace Sys2Proof.Machine

/-- Insert into a list ordered by `lt`. -/
def insertBy {α : Type} (lt : α → α → Bool) (x : α) (l : List α) : List α :=
  match l with
  | [] => [x]
  | y :: r => if lt x y then x :: y :: r else y :: insertBy lt x r

/-- A list put in the order of `lt`; equal elements keep their order. -/
def sortBy {α : Type} (lt : α → α → Bool) (l : List α) : List α := l.foldl (fun a x => insertBy lt x a) []

/-- The step composer plans an AE-3 operation of `l` hns with this latency at planning index `p` (R60). -/
def scaled (p l : Nat) : Nat := ceilDiv (l * 4096) p

namespace Work

/-- The planning index (R58, R59). A published index of 0 would leave R60's quotient undefined: it is taken as at least 1
(DESIGN CHOICE, log entry 100). -/
def planIndex (w : Work) : Nat :=
  let x := Nat.min w.fs.speed.idx (fld (w.reg rSpeedCtrl) 15 0)
  Nat.max 1 (if w.fs.speed.underrunHold then Nat.min x 0x1000 else x)

/-- Service order (R300, R250): LC first, then higher PRIORITY, then earlier ADMIT_AT; then FORK and slot. -/
def before (w : Work) (a b : Nat) : Bool :=
  let x := w.entry a
  let y := w.entry b
  if x.fl.lc ≠ y.fl.lc then x.fl.lc
  else if x.priority ≠ y.priority then y.priority < x.priority
  else if x.admitAt ≠ y.admitAt then x.admitAt < y.admitAt
  else if x.fork ≠ y.fork then x.fork < y.fork
  else a < b

/-- Slots in service order. -/
def serviceOrder (w : Work) (l : List Nat) : List Nat := sortBy w.before l

/-- Slots youngest first (R297). -/
def youngestFirst (w : Work) (l : List Nat) : List Nat :=
  sortBy (fun a b =>
    let x := w.entry a
    let y := w.entry b
    if x.admitAt ≠ y.admitAt then y.admitAt < x.admitAt
    else if x.fork ≠ y.fork then y.fork < x.fork
    else b < a) l

end Work

/-- Decode and prefill positions and attended positions of plan entries (R359). -/
def positionsOf (l : List PlanEntry) : Nat × Nat × Nat :=
  l.foldl (fun (d, p, a) e =>
    let att := e.npos * (e.pos + e.npos)
    if e.etype = .decode then (d + e.npos, p, a + att) else (d, p + e.npos, a + att)) (0, 0, 0)

/-- The engine cost of plan entries at an engine, without C_STEP (R359). -/
def entriesCost (d : Desc) (l : List PlanEntry) : Rat :=
  let (dec, pre, att) := positionsOf l
  (d.cDec * dec : Nat) / (1024 : Rat) + (d.cPre * pre : Nat) / (1024 : Rat) + (d.cAtt * att : Nat) / (1048576 : Rat)

/-- The engine that gives the largest engine cost, the lowest number on a tie, with that cost (R359, R632). -/
def costliest (ds : List (Nat × Desc)) (l : List PlanEntry) : Option (Desc × Rat) :=
  (ds.foldl (fun (a : Option (Desc × Rat)) (_, d) =>
    let c := (d.cStep : Rat) + entriesCost d l
    match a with
    | none => some (d, c)
    | some b => if b.2 < c then some (d, c) else a) none)

/-- Planned energy of entries at an engine, before EGV_RATIO (R644). -/
def plannedEnergy (d : Desc) (l : List PlanEntry) : Rat :=
  let (dec, pre, att) := positionsOf l
  (d.eStep : Rat) + (d.ePos * (pre + dec) : Nat) / (1024 : Rat) + (d.eAtt * att : Nat) / (1048576 : Rat)

/-- Positions of a score chunk that are scored: from SCORE_SPLIT - 1 to P - 2 (R434). -/
def scoredIn (e : RqtEntry) (pos npos : Nat) : Nat :=
  let lo := Nat.max pos (e.scoreSplit - 1)
  let hi := Nat.min (pos + npos) (e.promptLen - 1)
  hi - lo

namespace Work

/-- Sketches that an entry sends (R339, R360): verified positions. -/
def verified (w : Work) (e : PlanEntry) : Nat :=
  match e.etype with
  | .decode => e.npos
  | .final => 1
  | .score => scoredIn (w.entry e.slot) e.pos e.npos
  | .prefill | .embed | .forkTail => 0

/-! Forks (R253 to R255). -/

/-- The forks of the sequence's request that still wait for the first output on its prompt, live and not parked, in FORK
order. One that a RESUME has given a prompt of its own goes alone (R256, R262). -/
def promptForks (w : Work) (s : Nat) : List Nat :=
  let e := w.entry s
  let l := w.slotsWhere fun t y => y.reqHandle = e.reqHandle && y.st.live && y.st ≠ .parked && y.emitted = 0 &&
    y.model = e.model && y.kind = .generate && 1 < y.n && !(w.seq t).skipGap
  sortBy (fun a b => (w.entry a).fork < (w.entry b).fork) l

/-- The fork that prefills for the sequence, where it is another one (R254). -/
def leaderOf (w : Work) (s : Nat) : Option Nat :=
  let e := w.entry s
  if e.n ≤ 1 || e.emitted ≠ 0 || e.st = .parked || (w.seq s).skipGap then none
  else match w.promptForks s with
    | l :: _ => if l = s then none else some l
    | [] => none

/-- The forks that follow the sequence's prefill. -/
def followers (w : Work) (s : Nat) : List Nat :=
  match w.promptForks s with
  | l :: r => if l = s then r else []
  | [] => []

/-- MODEL_SAMPLE and the like of a plan, as they stood when its composition began. -/
def modeOf (pl : Plan) (m : Nat) : ModeSet :=
  match pl.modes.find? (·.model = m) with
  | some x => x
  | none => { model := m, sample := 0, draft := 0, route := 0 }

/-- The sampler's and the route unit's guaranteed rates are those of AE-3 L times this over two (R4, R42; DEDUCED, log entry
101). -/
def halves (w : Work) : Nat := if w.idn.isM then 1 else 2

/-- The latency of the expansions of mask states for the FULL-mode positions of a plan, each scaled (R490, R60): the state
is the one that stands when the plan is composed. -/
def maskShare (w : Work) (pl : Plan) (l : List PlanEntry) : Nat :=
  sumOf (l.map fun e =>
    let y := w.entry e.slot
    if bit (modeOf pl e.model).sample 0 && y.fl.stencilEn then
      match w.maskRec y.stencil y.maskState with
      | some r => (w.verified e + (if e.etype = .final then (w.followers e.slot).length else 0)) * scaled pl.index (4 + ceilDiv (r.count * 256) (64 * Nat.max 1 pl.unitShare))
      | none => 0
    else 0)

/-- The sampler share of a plan in hns at the slow corner (R360). MODEL_SAMPLE holds SKETCH_MODE in [0] and SKETCH_K
in [28:16]. -/
def samplerShare (w : Work) (pl : Plan) (l : List PlanEntry) : Nat :=
  let us := Nat.max 1 pl.unitShare
  let (sk, full) := l.foldl (fun (sk, full) e =>
    let v := w.verified e
    let ms := (modeOf pl e.model).sample
    if bit ms 0 then (sk, full + v * (match w.image? e.model with | some i => i.vocab | none => 0))
    else
      let k := fld ms 28 16
      (sk + v * (if k ≤ 1024 then 1024 else k), full)) (0, 0)
  40 + ceilDiv (sk * 25 * 256 * 2) (1024 * 12 * us * w.halves) + ceilDiv (full * 50 * 256 * 2) (3 * 262144 * us * w.halves)

/-- Entries put into `m` micro-batches in service order, each to the one with the fewest positions so far (R366). -/
def splitBatches (w : Work) (m : Nat) (l : List PlanEntry) : List PlanEntry :=
  let ordered := sortBy (fun a b => w.before a.slot b.slot) l
  (ordered.foldl (fun (acc : List PlanEntry × List Nat) e =>
    let fill := acc.2
    let best := (List.range m).foldl (fun b i => if fill.getD i 0 < fill.getD b 0 then i else b) 0
    (acc.1 ++ [{ e with mb := best }], fill.set best (fill.getD best 0 + e.npos))) ([], List.replicate m 0)).1

/-- The layers of a model's segment template, in order, with whether each is a route exchange and its template
segments. -/
def layersOf (i : ModelImage) : List (Nat × Bool × List (Nat × Nat × Nat)) :=
  let body := i.template.filter fun t => t.2.2 ≠ 2
  let names := body.foldl (fun a t => if a.contains t.1 then a else a ++ [t.1]) []
  names.map fun n =>
    let segs := body.filter fun t => t.1 = n
    (n, segs.any fun t => t.2.2 = 1, segs)

/-- A planned time in whole hns, the rounding being open (R340). -/
def planHns (step layer : Nat) (t : Rat) : Nat := if Config.segUp step layer then ratCeil t else ratFloor t

/-- One sub-batch under a split: its planned time and its segment records, starting `t0` hns into the step
(R340, R364). -/
def subBatch (w : Work) (pl : Plan) (ds : List (Nat × Desc)) (m model : Nat) (l : List PlanEntry) (t0 : Rat) :
    Rat × List SegRec :=
  match w.image? model, costliest ds l with
  | some img, some (d, cost) =>
    let layers := layersOf img
    let body := cost - d.cStep
    let n := layers.length
    let c : Rat := if n = 0 then 0 else body / n
    let toks := ceilDiv (sumOf (l.map (·.npos))) m
    let r := scaled pl.index (16 + ceilDiv (toks * 256 * 2) (250 * Nat.max 1 pl.unitShare * w.halves))
    let (t, segs) := layers.foldl (fun (acc : Rat × List SegRec) y =>
      let (_, moe, segs) := y
      let base : Rat := c + (m * d.cMb : Nat)
      let hidden : Rat := (m - 1 : Nat) * c / m
      let lt := if moe then base + r - (if (r : Rat) < hidden then (r : Rat) else hidden) else base
      let recs := ((List.range segs.length).zip segs).map fun (k, (ly, op, sk)) =>
        (List.range m).map fun b =>
          let at_ := if segs.length * m = 1 then (planHns pl.step ly acc.1, planHns pl.step ly lt)
            else Config.segPart pl.step ly k b
          ({ layer := ly, operator := op, model := model, mb := b, skind := sk
             offset := at_.1, dur := at_.2 } : SegRec)
      (acc.1 + lt, acc.2 ++ recs.flatten)) (t0, [])
    let t := if n = 0 then t + body else t
    let ends := (img.template.filter fun s => s.2.2 = 2).map fun (ly, op, sk) =>
      (List.range m).map fun b =>
        ({ layer := ly, operator := op, model := model, mb := b, skind := sk, offset := planHns pl.step ly t, dur := 0 } : SegRec)
    (t, segs ++ ends.flatten)
  | _, _ => (t0, [])

/-- The models of a list of entries, ascending. -/
def modelsOf (l : List PlanEntry) : List Nat :=
  sortBy (fun a b => a < b) (l.foldl (fun a e => if a.contains e.model then a else a ++ [e.model]) [])

/-- The plan under one split (R364 to R366): none where it leaves a micro-batch with fewer than MB_MIN entries. -/
def underSplit (w : Work) (pl : Plan) (ds : List (Nat × Desc)) (mbMin m : Nat) :
    Option (Rat × List PlanEntry × List SegRec) :=
  let c0 : Rat := match costliest ds pl.entries with | some (d, _) => (d.cStep : Nat) | none => 0
  (modelsOf pl.entries).foldl (fun (acc : Option (Rat × List PlanEntry × List SegRec)) model =>
    match acc with
    | none => none
    | some (t, es, segs) =>
      let l := w.splitBatches m (pl.entries.filter (·.model = model))
      let small := (List.range m).any fun b => (l.filter (·.mb = b)).length < mbMin
      if 1 < m ∧ small then none
      else
        let (t', s) := w.subBatch pl ds m model l t
        some (t', es ++ l, segs ++ s)) (some (c0, [], []))

/-- The entries in the order of R338. -/
def orderEntries (l : List PlanEntry) : List PlanEntry :=
  sortBy (fun a b => if a.model ≠ b.model then a.model < b.model else if a.mb ≠ b.mb then a.mb < b.mb
    else a.seq < b.seq) l

/-- Bytes of a plan with `n` delta records (R337 to R340). -/
def bytesOf (entries segs n : Nat) : Nat := 64 + 16 * (entries + n + segs)

/-- Bytes of a plan (R337 to R340). -/
def planBytes (pl : Plan) : Nat := bytesOf pl.entries.length pl.segs.length pl.deltas.length

/-- The executing step of a pool, the held one before the interposed one. -/
def stepOf (q : Pool) : Option Step := match q.held with | some h => some h | none => q.exec

/-- The forks of a final chunk's request that draw from its sketch and have not yet (R255): those that a re-route has meanwhile
made QUEUED too (R571), but not one that a RESUME has given a prompt of its own (R262). -/
def drawsWith (w : Work) (p s : Nat) : List Nat :=
  let e := w.entry s
  if e.n ≤ 1 then []
  else w.slotsWhere fun t y =>
    let x := w.seq t
    t ≠ s && y.reqHandle = e.reqHandle && y.fl.bound && y.pool = p && y.emitted = 0 && !x.skipGap &&
      (w.asNamed t).model = (w.asNamed s).model &&
      (if x.unbind then decide (y.st = .queued) && decide (x.follows = some s) else decide (y.st = .prefilling))

/-- The entries that a step can append, with the forks that draw from its final chunks (R255, R682). -/
def appendable (w : Work) (p : Nat) (st : Step) : Nat :=
  sumOf ((st.plan.entries.filter fun e => e.etype ≠ .prefill && e.etype ≠ .forkTail).map fun e =>
    1 + (if e.etype = .final then (w.drawsWith p e.slot).length else 0))

/-- The bytes of a token return that the next plan of a pool can carry: an outcome record for each entry that the steps in
progress can append, and for those that wait (R680, R682). -/
def returnBytes (w : Work) (p : Nat) : Nat :=
  match w.pool? p with
  | some q => 16 + 16 * (sumOf ((q.exec.toList ++ q.held.toList).map fun st => w.appendable p st) + q.outcomes.length)
  | none => 16

/-- The model's segment template holds a route exchange. -/
def routes (w : Work) (m : Nat) : Bool :=
  match w.image? m with | some i => i.template.any fun t => t.2.2 = 1 | none => false

/-- No micro-batch of a sub-batch with a route exchange holds more than ROUTE_TOKENS tokens (R391). -/
def batchesFit (w : Work) (pl : Plan) (m : Nat) (l : List PlanEntry) : Bool :=
  (modelsOf l).all fun k => !w.routes k || (List.range m).all fun b =>
    sumOf ((l.filter fun e => e.model = k && e.mb = b).map (·.npos)) ≤ pl.unitShare * 256

/-- Descriptors of a plan's engines. -/
def planDescs (w : Work) (pl : Plan) : List (Nat × Desc) :=
  (w.fs.engines.filterV fun e _ => pl.engines.contains e).map fun (e, g) => (e, g.desc)

/-- The splits that a plan with `n` delta records can take with micro-batches of at least `mbMin` entries (R336, R365,
R391). -/
def splitsOf (w : Work) (pl : Plan) (n mbMin : Nat) : List (Nat × Rat × List PlanEntry × List SegRec) :=
  let ds := w.planDescs pl
  let least := minOf (2 ^ 32) (ds.map fun (_, d) => d.planBytes)
  [1, 2, 4].filterMap fun m => (w.underSplit pl ds mbMin m).bind fun x =>
    if w.batchesFit pl m x.2.1 ∧ bytesOf x.2.1.length x.2.2.length n + w.returnBytes pl.pool ≤ least then some (m, x)
    else none

/-- The splits that a plan with `n` delta records can take. -/
def splits (w : Work) (pl : Plan) (n : Nat) : List (Nat × Rat × List PlanEntry × List SegRec) :=
  w.splitsOf pl n (fld (w.reg (rSched2 pl.pool)) 15 0)

/-- Some split holds the plan within the entry limit, the plan buffers and the route buffers (R336, R337, R391). -/
def fitsBuffers (w : Work) (pl : Plan) (n : Nat) : Bool := pl.entries.length ≤ 16384 && !(w.splits pl n).isEmpty

/-- The split, the segments, the planned duration and the planned energy of a plan with `n` delta records (R361, R364 to
R367, R644). Where entries that have left the plan leave fewer than MB_MIN in each micro-batch that ROUTE_TOKENS allows, the
route buffers decide (R391). -/
def costPlan (w : Work) (pl : Plan) (n : Nat) : Plan :=
  let ds := w.planDescs pl
  let whole : List (Nat × Rat × List PlanEntry × List SegRec) := ((w.underSplit pl ds 0 1).map fun x => (1, x)).toList
  match [w.splits pl n, w.splitsOf pl n 0].findSome? (fun l => if l.isEmpty then none else some l) |>.getD whole with
  | [] => pl
  | x0 :: rest =>
    let (m, t, es, segs) := rest.foldl (fun a b => if b.2.1 < a.2.1 then b else a) x0
    let pl := { pl with entries := orderEntries es, segs := segs, mbSplit := m }
    let ops := scaled pl.index (w.samplerShare pl pl.entries) + w.maskShare pl pl.entries + scaled pl.index 10 + 2 +
      ceilDiv (bytesOf es.length segs.length n) 30000
    let energy := ds.map fun (e, d) => (e, plannedEnergy d pl.entries)
    let ratio := w.ratio pl.pool
    let sum := energy.foldl (fun (a : Rat) (x : Nat × Rat) => a + x.2) 0
    let pl := { pl with dur := ratCeil (t + ops), energy := energy, energyK := sum * ratio / 4096 }
    { pl with period := if pl.envMode = 2 then w.pacedPeriod pl.pool pl else pl.dur }

/-- A plan fits its envelope (R646). -/
def fitsEnvelope (w : Work) (pl : Plan) : Bool :=
  let ratio := w.ratio pl.pool
  pl.energyK ≤ (fld (w.reg (rPoolEnv pl.pool)) 13 0 * pl.dur : Nat) / (10 : Rat) &&
    pl.energy.all fun (e, u) => u * ratio / 4096 ≤ (fld (w.reg (rEngEnv e)) 13 0 * pl.dur : Nat) / (10 : Rat)

end Work

end Sys2Proof.Machine
end

