-- ==== Sys2Proof/Machine/Composer.lean ====
section
/-! DEFINITION. The step composer: one composition of a pool (R295 to R305, R323 to R355, R368, R371 to R373, R505,
R543, R565, R569, R597, R647). -/

namespace Sys2Proof.Machine

namespace Work

/-! Entries of a plan. -/

/-- What the composer projects of a sequence after the step in progress: it decodes with at most `M` committed
positions, it has prompt positions left from `a` on, or it has nothing to do in the next plan. -/
inductive Ahead where
  | decode (m : Nat)
  | chunk (a : Nat)
  | nothing
deriving DecidableEq, Repr

/-- What an entry of the executing step leaves for the next plan (R290, R323). -/
def aheadOf (w : Work) (typ : Nat) (pe : PlanEntry) : Ahead :=
  let e := w.entry pe.slot
  let b := pe.pos + pe.npos
  match pe.etype with
  | .decode => .decode (e.length + 1 + pe.draft)
  | .final => if typ = 0 then .nothing else .decode (b + 1)
  | .prefill => .chunk b
  | .score => if b < e.promptLen then .chunk b else .nothing
  | .embed => .nothing
  | .forkTail => .nothing

/-- The sequence decodes: every position below its last is written, and no prompt position is left (R262, R592). -/
def decodes (w : Work) (s : Nat) : Bool :=
  let e := w.entry s
  let x := w.seq s
  e.kind = .generate && 0 < e.emitted && !e.fl.awaitAppend && (e.promptLen ≤ e.length || !x.tokens.isEmpty) &&
    x.kv + 1 = e.length

/-- The sequence's own position: it decodes, or prefills from the positions whose KV stands (R343). A RESUME that leaves
nothing to prefill of a generate sequence goes to DECODING directly (R262). -/
def aheadNow (w : Work) (s : Nat) : Ahead :=
  let e := w.entry s
  let x := w.seq s
  if w.decodes s then .decode e.length
  else if x.skipGap && e.kind = .generate && !e.fl.awaitAppend && x.kv = e.promptLen && e.promptLen = e.length then
    .decode e.length
  else .chunk (if x.kv = e.promptLen && !e.fl.awaitAppend then x.kv - 1 else x.kv)

/-- The projection for slot `s` on pool `p`. -/
def ahead (w : Work) (q : Pool) (s : Nat) : Ahead :=
  match stepOf q with
  | none => w.aheadNow s
  | some st =>
    match st.plan.entries.find? (fun pe => pe.slot = s && pe.etype ≠ .forkTail) with
    | some pe => w.aheadOf q.typ pe
    | none =>
      let led := st.plan.entries.find? fun pe =>
        pe.etype ≠ .forkTail && ((w.seq s).follows = some pe.slot || pe.etype = .final &&
          (w.entry pe.slot).reqHandle = (w.entry s).reqHandle && (w.leaderOf s = some pe.slot || st.appended.contains s))
      match led with
      | some pe => if pe.etype ≠ .final && (w.leaderOf s).isSome then .nothing else w.aheadOf q.typ pe
      | none => if (w.leaderOf s).isSome then .nothing else w.aheadNow s

/-- D of R505 for a sequence. -/
def draftOf (w : Work) (ms : ModeSet) (s : Nat) : Nat :=
  let e := w.entry s
  let shape := fld ms.draft 1 0
  if e.kind ≠ .generate || e.par.specDepth = 0 || shape = 0 then 0
  else if shape = 1 then e.par.specDepth else fld ms.draft 8 2

/-- The last page boundary from `a` whose chunk costs no more than `cap` (R343), at most `hi`. -/
def capBoundary (w : Work) (p pp a hi : Nat) (cap : Rat) : Nat :=
  let first := a / pp
  let k := largestUpTo 24 first (hi / pp) fun k => w.chunkCost p a (k * pp - a) ≤ cap
  k * pp

/-- A chunk end held to a page boundary unless it is the last position received (R344). -/
def pageEnd (pp received b : Nat) : Nat := if b = received then b else b / pp * pp

/-- The chunk of a sequence from position `a` on a pool whose prefill cap leaves `cap`, its end at most `most`
(R343 to R345, R543): its end and type. A replay record is taken whole, up to the positions that an entry can name (R338,
R572). -/
def nextChunk (w : Work) (p s a : Nat) (cap : Rat) (most : Nat) : Option (Nat × EType) :=
  let e := w.entry s
  let x := w.seq s
  let pp := w.pagePos e.model
  let received := e.promptLen
  let lim := if e.fl.awaitAppend && e.kind = .score then Nat.min (e.scoreSplit - 1) (received - 2) else received
  if lim ≤ a then none
  else
    let wide := Nat.min lim (a + if x.replayed then 8192 else w.chunkMax p)
    let capped := w.capBoundary p pp a wide cap
    let b0 := if x.replayed || w.chunkCost p a (wide - a) ≤ cap then wide
      else if capped - a < pp then Nat.min lim (a + pp) else capped
    let b := pageEnd pp received b0
    let b := if most < b then most / pp * pp else b
    -- R543: scored positions within the credits, less what the executing step can still append
    let pending := match w.pool? p with
      | some q => (match stepOf q with
        | some st => sumOf ((st.plan.entries.filter fun pe => pe.slot = s && pe.etype = .score && !st.appended.contains s).map
            fun pe => scoredIn e pe.pos pe.npos)
        | none => 0)
      | none => 0
    let room := x.credits - pending
    let b := if e.kind = .score && !e.fl.awaitAppend && room < scoredIn e a (b - a) then
        let first := Nat.max a (e.scoreSplit - 1)
        if room = 0 then (if a < first then first else a + 1) else first + room
      else b
    if b ≤ a then none
    else
      let last := b = received && !e.fl.awaitAppend
      let t : EType := match e.kind with
        | .generate => if last then .final else .prefill
        | .embed => if last then .embed else .prefill
        | .score => if !e.fl.awaitAppend && (last || 0 < scoredIn e a (b - a)) then .score else .prefill
      some (b, t)

/-- A plan entry of slot `s`. -/
def mkEntry (w : Work) (s pos npos draft : Nat) (t : EType) : PlanEntry :=
  let e := w.entry s
  { slot := s, seq := seqHandle s e, pos := pos, etype := t, model := e.model, variant := e.variant, npos := npos
    draft := draft, lRead := e.length, ctx := e.ctx, lc := e.fl.lc }

/-- The reach of an entry (R270, R290). -/
def reachOf (pe : PlanEntry) : Nat := pe.pos + pe.npos

/-- The fork already has its tail, or it takes it in the executing step. -/
def hasTail (w : Work) (s : Nat) : Bool :=
  (w.entry s).promptLen ≤ (w.seq s).kv ||
    w.fs.pools.any fun (_, q) => match stepOf q with
      | some st => st.plan.entries.any fun pe => pe.slot = s && pe.etype = .forkTail
      | none => false

/-- The tails that the forks of a final chunk's sequence need (R254, R346). -/
def tailsOf (w : Work) (pe : PlanEntry) : List PlanEntry :=
  let e := w.entry pe.slot
  let pp := w.pagePos e.model
  let tail := e.promptLen % pp
  if pe.etype = .final ∧ 0 < tail then
    ((w.followers pe.slot).filter fun s => !w.hasTail s).map fun s => w.mkEntry s (e.promptLen - tail) tail 0 .forkTail
  else []

/-- List entries that an entry's sequence lacks (R290). A fork tail lacks no whole prompt page: those stand in the fork
segment (R253). -/
def lackOf (w : Work) (pe : PlanEntry) : Nat :=
  let pp := w.pagePos pe.model
  let whole := if pe.etype = .forkTail then (w.entry pe.slot).promptLen / pp else 0
  ceilDiv (reachOf pe) pp - Nat.max whole (w.listLen pe.slot)

/-- The forks that follow the prefill of a plan's chunks read the pages of the fork that prefills until these are
committed: no fork keeps a whole prompt page of its own (R253, R294). -/
def followChunks (w : Work) (pl : Plan) : Work :=
  let tails := (pl.entries.filter (·.etype = .forkTail)).map (·.slot)
  let p := pl.pool
  w.each (pl.entries.filter fun pe => pe.etype = .prefill || pe.etype = .final) fun w pe =>
    w.each (w.followers pe.slot) fun w t =>
      let x := w.seq t
      -- a fork with other pages than the leader's gives them up, but for its tail
      let tail := if tails.contains t || (w.entry t).promptLen ≤ x.kv then 1 else 0
      let gone := if x.shared = (w.seq pe.slot).shared || x.ownPool ≠ p then [] else x.own.take (x.own.length - tail)
      let w := if gone.isEmpty then w else (w.returnPages p gone).modPool p fun q => { q with
        cuts := q.cuts.set (seqHandle t (w.entry t)) 0 }
      w.modSeq t fun y => { y with
        own := if gone.isEmpty then y.own else y.own.drop (y.own.length - tail), ownPool := p, follows := some pe.slot }

/-- A fork follows no other one that neither leads it nor is in a plan. -/
def refollow (w : Work) : Work :=
  w.each (w.slotsWhere fun t _ => match (w.seq t).follows with
    | some l => w.leaderOf t ≠ some l && !w.inPlan l
    | none => false) fun w t => w.modSeq t fun x => { x with follows := none }

/-- The cost of entries at the engine where it is largest, without C_STEP (R359). -/
def costOf (ds : List (Nat × Desc)) (l : List PlanEntry) : Rat :=
  ds.foldl (fun a (_, d) => let c := entriesCost d l; if a < c then c else a) (0 : Rat)

/-- A tenant's planned cost: the sum of its entries' engine costs (R350). -/
def tenantCost (ds : List (Nat × Desc)) (c : Nat) (l : List PlanEntry) : Rat :=
  l.foldl (fun a pe => if pe.ctx = c then a + costOf ds [pe] else a) (0 : Rat)

/-- The prefill cost of entries (R910). -/
def prefillOf (w : Work) (p : Nat) (l : List PlanEntry) : Rat :=
  l.foldl (fun a pe => if pe.etype = .decode then a else a + w.chunkCost p pe.pos pe.npos) (0 : Rat)

/-! A composition in progress. -/

/-- What one composition has put together: the work, the plan, the fork tails that its final chunks call for, which join
it after the passes (R346, R368), the joiners of pass 2 in order and what has been shed of them and of the continuing
entries (R647), and whether an LC joiner has ended the phase (R300). -/
structure Comp where
  w : Work
  pl : Plan
  tails : List PlanEntry := []
  pass2 : List Nat := []
  ended : Bool := false
  shed : Nat := 0
deriving DecidableEq, Repr

/-- The pool of a composition. -/
def Comp.pool (c : Comp) : Nat := c.pl.pool
/-- The engine descriptors of the plan's engines. -/
def Comp.descs (c : Comp) : List (Nat × Desc) := c.w.planDescs c.pl
/-- The plan with its fork tails and further entries. -/
def Comp.withTails (c : Comp) (es : List PlanEntry) : Plan := { c.pl with entries := c.pl.entries ++ c.tails ++ es }

/-- The settings of the model slots at the start of a composition (R44, R506). -/
def modesNow (w : Work) : List ModeSet :=
  (List.range 32).map fun m =>
    { model := m, sample := w.reg (rModelSample m), draft := w.reg (rModelDraft m), route := w.reg (rModelRoute m)
      priv := (w.slot m).variants.map fun (v, x) => (v, w.rangesOf m v x.ranges)
      descs := match w.image? m with | some i => i.routes | none => [] }

/-- What trimming has left of the mirror of SEQ `n` since the last plan (R285, R369). -/
def mirrorLeft (q : Pool) (old : List Nat) (n : Nat) : List Nat :=
  match q.cuts.get? n with | some k => old.take k | none => old

/-- SEQs that the pool's previous plan named and a plan does not (R285). -/
def goneFrom (q : Pool) (pl : Plan) : List Nat :=
  if pl.interposed then [] else q.named.filter fun n => !(pl.entries.any fun pe => pe.seq = n)

/-- Delta records that a plan would carry, with the pages that its entries still lack (R283, R285, R288). -/
def deltaCount (w : Work) (pl : Plan) : Nat :=
  match w.pool? pl.pool with
  | none => 0
  | some q =>
    let fresh := (w.fs.engines.filterV fun e g => pl.engines.contains e && g.fresh) ≠ []
    (goneFrom q pl).length + sumOf (pl.entries.map fun pe =>
      let l := w.listOf pe.slot
      let old := mirrorLeft q (q.mirror.getD pe.seq []) pe.seq
      let same := ((l.zip old).filter fun x => x.1 = x.2).length
      b01 (Nat.min old.length l.length < (q.mirror.getD pe.seq []).length) +
        Nat.max l.length (ceilDiv (reachOf pe) (w.pagePos pe.model)) - (if fresh then 0 else same))

/-- A plan as it would be delivered: its split, segments, duration and energy (R361, R364 to R367, R644). -/
def costed (w : Work) (pl : Plan) : Plan := w.costPlan pl (w.deltaCount pl)

/-- The plan fits the plan buffers, the entry limit and the route buffers (R336, R337, R391). -/
def fits (w : Work) (pl : Plan) : Bool := w.fitsBuffers pl (w.deltaCount pl)

/-- The entry of a sequence's next chunk with the tails of its forks. Where those do not fit the buffers, the chunk is
shortened to the last page boundary that does; beside a final chunk that cannot be, as many tails as fit go ahead of it
(R336, R346, R391). -/
def chunkEntries (c : Comp) (s a : Nat) (cap : Rat) : List PlanEntry × List PlanEntry :=
  let w := c.w
  let ok (es : List PlanEntry) : Bool := w.fits (c.withTails es)
  let upTo' (most : Nat) : Option PlanEntry := (w.nextChunk c.pool s a cap most).map fun (b, t) => w.mkEntry s a (b - a) 0 t
  match upTo' (2 ^ 21) with
  | none => ([], [])
  | some pe =>
    let tails := w.tailsOf pe
    if ok (pe :: tails) then ([pe], tails)
    else
      let pp := w.pagePos pe.model
      let short (k : Nat) : Option PlanEntry := (upTo' (k * pp)).bind fun x => if ok [x] then some x else none
      let k := largestUpTo 14 (a / pp) ((reachOf pe - 1) / pp) fun k => (short k).isSome
      match if a < k * pp then short k else none with
      | some x => ([x], [])
      | none => ([], tails.foldl (fun l x => if ok (l ++ [x]) then l ++ [x] else l) [])

/-- Take `n` further own pages of pool `p` for a sequence. -/
def grow (w : Work) (s p n : Nat) : Work :=
  if n = 0 then w
  else
    let (l, w) := w.takePages p n
    w.modSeq s fun x => { x with own := x.own ++ l, ownPool := p }

/-- Reserve the pages of an entry. -/
def growFor (w : Work) (p : Nat) (pe : PlanEntry) : Work := w.grow pe.slot p (w.lackOf pe)

/-- Free pages of a pool that this composition can hand out. -/
def freeOf (w : Work) (p : Nat) : Nat := match w.pool? p with | some q => handable q | none => 0

/-! Continuing sequences (R290, R295, R343, R351). -/

/-- The sequences that continue on pool `p`: bound to it, placed, running, and with no park due at the commit. -/
def continuing (w : Work) (p : Nat) : List Nat :=
  w.serviceOrder (w.slotsWhere fun s e =>
    e.fl.bound && e.pool = p && (e.st = .prefilling || e.st = .decoding) && (w.seq s).joined &&
      !e.fl.pausePending && !(w.seq s).stallWon && !(w.seq s).marked)

/-- The entries of the continuing sequences, in service order, each prefill chunk within what the cap leaves (R343,
R346, R351), with the fork tails that they call for. -/
def continuingEntries (c : Comp) (q : Pool) : Comp :=
  let p := c.pool
  let cap0 := c.w.prefillCap p q.typ
  (c.w.continuing p).foldl (fun c s =>
    let w := c.w
    let e := w.entry s
    match w.ahead q s with
    | .nothing => c
    | .decode m =>
      let d := w.draftOf (modeOf c.pl e.model) s
      let pe := w.mkEntry s (m - 1) (1 + d) d .decode
      if w.fits (c.withTails [pe]) then { c with pl := { c.pl with entries := c.pl.entries ++ [pe] } } else c
    | .chunk a =>
      if (w.leaderOf s).isSome then c
      else
        let (es, tails) := chunkEntries c s a (cap0 - w.prefillOf p (c.pl.entries ++ c.tails))
        { c with pl := { c.pl with entries := c.pl.entries ++ es }, tails := c.tails ++ tails }) c

/-- Mark a sequence for parking (R298). -/
def markGrowth (w : Work) (p s : Nat) : Work :=
  ((w.modSeq s fun x => { x with marked := true }).count (cParkedGrowth p)).event 3 0x0030 false (seqHandle s (w.entry s)) p

/-- Phase 4: idle residencies, oldest first, and then sequences that need growth, BE before LC and youngest first,
until the shortage is gone (R295, R297). -/
def makeRoom (c : Comp) : Comp :=
  let p := c.pool
  let total (w : Work) (es : List PlanEntry) : Nat := sumOf (es.map w.lackOf)
  let es := c.pl.entries ++ c.tails
  let w := (c.w.idleResidencies p).foldl (fun w g => if w.freeOf p < total w es then w.releaseIdle g else w) c.w
  let need (lc : Bool) : List Nat :=
    w.youngestFirst ((es.filter fun pe => pe.lc = lc && 0 < w.lackOf pe).map (·.slot))
  let (w, es, marks) := (need false ++ need true).foldl (fun (acc : Work × List PlanEntry × List Nat) s =>
    let (w, es, marks) := acc
    if w.freeOf p < total w es then (w.markGrowth p s, es.filter (·.slot ≠ s), marks ++ [s]) else acc) (w, es, [])
  let stays (pe : PlanEntry) : Bool := es.any (·.slot = pe.slot)
  { c with w := w, tails := c.tails.filter stays, pl := { c.pl with entries := c.pl.entries.filter stays, marks := marks } }

/-- Phase 2 and phase 4: the continuing entries with their growth reserved. -/
def placeContinuing (c : Comp) (q : Pool) : Comp :=
  let c := makeRoom (continuingEntries c q)
  let es := c.pl.entries ++ c.tails
  let w := es.foldl (fun w pe => w.growFor c.pool pe) c.w
  let grown (s : Nat) : List Nat := (w.seq s).own.drop (c.w.seq s).own.length
  { c with w := w, pl := { c.pl with grown := (es.map fun pe => (pe.slot, grown pe.slot)).filter fun x => !x.2.isEmpty } }

/-! Joiners (R300, R301, R304, R305, R313, R352 to R354, R448, R597). -/

/-- What a joiner is to the composition. -/
inductive Joiner where
  /-- A park record to restore (R597). -/
  | restore
  /-- The residency of its handle is not on the pool (R313). -/
  | placement (copy : Nat)
  /-- A sequence handed over from another pool, with the live forks of its request that move with it (R305). -/
  | handover (forks : List Nat)
  /-- Placed with an entry. -/
  | ordinary
deriving DecidableEq, Repr

/-- The sequence waits for a place on pool `p` (R301, R325, R348). -/
def joinerOf (w : Work) (p s : Nat) : Option Joiner :=
  let e := w.entry s
  let x := w.seq s
  if e.fl.bound then
    (if e.pool = p && e.st = .decoding && !x.joined && x.moveFrom.isSome && !e.fl.pausePending then
      some (.handover (w.slotsWhere fun t y => y.reqHandle = e.reqHandle && y.fl.bound && y.pool = p && y.st = .decoding &&
        !(w.seq t).joined && (w.seq t).moveFrom.isSome))
    else none)
  else if x.assigned ≠ some p || x.unbind || (x.joined && !w.restoreDue s) || x.placing.isSome then none
  else if w.restoreDue s then
    (match x.park, w.pool? p with
      | some r, some q => if r.layout = q.kvLayout then some .restore else none
      | _, _ => none)
  else
    let restored := match x.park with | some r => decide (r.restore = .done p) | none => false
    if e.st = .queued && (x.park.isNone || restored) || e.st = .parked && restored then
      (if (w.leaderOf s).isSome then none
      else match x.handle, x.park with
        | some c, none => if 0 < x.hPos && x.shared.isEmpty && (w.residency c p).isNone then some (.placement c)
          else if (match w.residency c p with | some (_, g) => g.placing | none => false) then none else some .ordinary
        | _, _ => some .ordinary)
    else none

/-- The joiners of a pool in service order. -/
def joiners (w : Work) (p : Nat) : List Nat := w.serviceOrder (w.slotsWhere fun s e => e.st.live && (w.joinerOf p s).isSome)

/-- The staging slots of the pool cannot take the count tables of the given sequences (R448). -/
def stagingFull (w : Work) (p : Nat) (l : List Nat) : Bool :=
  let n := (l.filter fun s => hasCounts (w.entry s) && (w.seq s).staged.isNone).length
  n ≠ 0 && w.unitShare p * 64 < (w.stagedOn p).length + n

/-- Stage the sequence's count table on the pool. -/
def stage (w : Work) (p s : Nat) : Work :=
  if hasCounts (w.entry s) && (w.seq s).staged.isNone then
    let used := (w.stagedOn p).filterMap fun t => (w.seq t).staged
    let free := (List.range (used.length + 1)).find? fun i => !used.contains i
    (w.modSeq s fun x => { x with staged := free }).queueCounts s (w.entry s).ctx
  else w

/-- The entry that a joiner takes in the plan, with the tails of its forks. A sequence that decodes takes position
LENGTH - 1 as a final chunk on a prefill pool, whose plans hold no decode entry (R260, R262, R323; DEDUCED, log entry
102). -/
def joinEntries (c : Comp) (q : Pool) (s : Nat) : List PlanEntry × List PlanEntry :=
  let w := c.w
  match w.aheadNow s with
  | .decode m =>
    if q.typ = 0 then ([w.mkEntry s (m - 1) 1 0 .final], [])
    else
      let d := w.draftOf (modeOf c.pl (w.entry s).model) s
      ([w.mkEntry s (m - 1) (1 + d) d .decode], [])
  | .chunk a =>
    if q.typ = 1 then ([], [])
    else chunkEntries c s a (w.prefillCap c.pool q.typ - w.prefillOf c.pool (c.pl.entries ++ c.tails))
  | .nothing => ([], [])

/-- The residency pages that a joiner's list starts with on pool `p`: the segment and the entries. -/
def prefixOn (w : Work) (p s : Nat) : Option (Nat × Nat) :=
  let x := w.seq s
  match x.handle with
  | some c => if x.hPos = 0 then none else (w.residency c p).map fun (g, _) => (g, x.hPos / w.pagePos (w.entry s).model)
  | none => none

/-- Slices of a handed-over list that are referenced on pool `p` in place of being copied (R304). -/
def sliceOn (w : Work) (p : Nat) (y : SegSlice) : Option SegSlice :=
  match w.fs.segs.get? y.seg with
  | some g => match g.copy with
    | some c => (w.residency c p).bind fun (h, r) => if r.placing then none else some { y with seg := h }
    | none => none
  | none => none

/-- The slices of a handed-over list. -/
def movedSlices (w : Work) (s : Nat) : List SegSlice := match (w.seq s).moveFrom with | some (_, _, sl) => sl | none => []

/-- The slices that a handed-over fork still lists as slices on pool `p`: up to the last one that is resident there, lies in a
fork segment or is another fork's too. The copies behind it are its own pages (R304, R305). -/
def keptSlices (w : Work) (p : Nat) (forks : List Nat) (s : Nat) : List SegSlice :=
  let fork (y : SegSlice) : Bool := match w.fs.segs.get? y.seg with | some g => g.copy.isNone | none => false
  let common (y : SegSlice) : Bool := forks.any fun t => t ≠ s && (w.movedSlices t).contains y
  ((w.movedSlices s).reverse.dropWhile fun y => !((w.sliceOn p y).isSome || fork y || common y)).reverse

/-- The slices that are copied for a group of handed-over forks, each once (R305). -/
def copiedSlices (w : Work) (p : Nat) (forks : List Nat) : List SegSlice :=
  (forks.map fun s => (w.keptSlices p forks s).filter fun y => (w.sliceOn p y).isNone).flatten.foldl
    (fun l y => if l.contains y then l else l ++ [y]) []

/-- Own pages that a handed-over fork takes from pool `p`: its reach in the plan behind its slices. -/
def handoverOwn (w : Work) (p : Nat) (forks : List Nat) (es : List PlanEntry) (s : Nat) : Nat :=
  maxOf ((es.filter (·.slot = s)).map fun pe => ceilDiv (reachOf pe) (w.pagePos pe.model)) -
    sumOf ((w.keptSlices p forks s).map (·.len))

/-- Pages that a group of handed-over forks takes from pool `p`: the copies of their slices once, and their own pages. -/
def handoverPages (w : Work) (p : Nat) (forks : List Nat) (es : List PlanEntry) : Nat :=
  sumOf ((w.copiedSlices p forks).map (·.len)) + sumOf (forks.map (w.handoverOwn p forks es))

/-- Put a group of handed-over forks on pool `p` (R304, R305): resident slices are referenced, the others are copied into a
new fork segment, once for the group. -/
def placeHandover (w : Work) (p : Nat) (forks : List Nat) (es : List PlanEntry) : Work :=
  let copied := w.copiedSlices p forks
  let n := sumOf (copied.map (·.len))
  let g := w.fs.nextSeg
  let plan := forks.map fun s =>
    (s, w.handoverOwn p forks es s, (w.keptSlices p forks s).map fun y => match w.sliceOn p y with
      | some z => z
      | none => { seg := g, start := sumOf ((copied.takeWhile fun z => z ≠ y).map (·.len)), len := y.len })
  let w := if n = 0 then w else
      let (pages, w) := w.takePages p n
      w.modFs fun f => { f with
        nextSeg := g + 1, segs := f.segs.set g { pool := p, copy := none, pages := pages, lastRef := w.now } }
  w.each plan fun w (s, own, slices) =>
    let w := w.modSeq s fun x => { x with shared := slices, own := [], ownPool := p, joined := true }
    let w := slices.foldl (fun w y => w.refSeg s y.seg) w
    (w.grow s p own).stage p s

/-- Release idle residencies other than those of the copies that the joiner needs, oldest first, until `n` pages are free
(R295). -/
def freeUp (w : Work) (p n : Nat) (needs : List Nat) : Work :=
  (w.idleResidencies p).foldl (fun w g =>
    let mine := match w.fs.segs.get? g with
      | some s => (match s.copy with | some c => needs.contains c | none => false)
      | none => false
    if w.freeOf p < n && !mine then w.releaseIdle g else w) w

/-- The handle copies whose residencies a handed-over list names. -/
def moveCopies (w : Work) (s : Nat) : List Nat :=
  match (w.seq s).moveFrom with
  | some (_, _, sl) => sl.filterMap fun y => (w.fs.segs.get? y.seg).bind (·.copy)
  | none => []

/-- What placing a joiner comes to. -/
inductive Placed where
  | done (c : Comp)
  /-- It does not fit in pages (R300). -/
  | noPages (c : Comp)
  /-- It waits: nothing to place, no staging slot, or no room in the plan buffers. -/
  | pass (c : Comp)

/-- Try to place joiner `s`, with the cost tests of `ok` on the plan that would follow. -/
def tryPlace (c : Comp) (q : Pool) (s : Nat) (ok : Plan → Bool) : Placed :=
  let p := c.pool
  let w := c.w
  let x := w.seq s
  match w.joinerOf p s with
  | none => .pass c
  | some .restore =>
    let n := match x.park with | some r => w.restorePages s p r | none => 0
    let w := w.freeUp p n ((x.park.bind fun r => w.namedResidency s r).map (·.2)).toList
    if n ≤ w.freeOf p then .done { c with w := w.startRestore s p } else .noPages { c with w := w }
  | some (.placement k) =>
    let (es, tails) := joinEntries c q s
    let own := sumOf ((es ++ tails).map w.lackOf)
    if w.copyLost k then .pass { c with w := w.endSeq s 3 0x06 }
    else
      let w := w.freeUp p own []
      if own ≤ w.freeOf p then
        match w.placeResidency k p (w.placementCtx s k) with
        | some (g, w) => .done { c with
            w := w.modSeq s fun x => { x with placing := some g }, pl := { c.pl with places := c.pl.places ++ [g] } }
        | none => .noPages { c with w := w }
      else .noPages { c with w := w }
  | some (.handover forks) =>
    let (c', es) := forks.foldl (fun (acc : Comp × List PlanEntry) t =>
      let es := (joinEntries acc.1 q t).1
      ({ acc.1 with pl := { acc.1.pl with entries := acc.1.pl.entries ++ es } }, acc.2 ++ es)) (c, [])
    if es.length ≠ forks.length || !w.fits (c'.withTails []) || w.stagingFull p forks || !ok c'.pl then .pass c
    else
      let n := w.handoverPages p forks es
      let w := w.freeUp p n (w.moveCopies s)
      if n ≤ w.freeOf p ∧ ((w.copiedSlices p forks).isEmpty ∨ w.forkRoom) then
        .done { c' with w := w.placeHandover p forks es, pl := { c'.pl with joins := c'.pl.joins ++ forks } }
      else .noPages { c with w := w }
  | some .ordinary =>
    let (es, tails) := joinEntries c q s
    let pl := { c.pl with entries := c.pl.entries ++ es }
    let all := (if es.isEmpty then tails.map (·.slot) else s :: w.followers s).filter fun t => !(w.seq t).joined
    if (es.isEmpty && tails.isEmpty) || !w.fits (c.withTails (es ++ tails)) || w.stagingFull p all || !ok pl then .pass c
    else
      let slice := if x.shared.isEmpty && x.park.isNone then w.prefixOn p s else none
      let have' := match slice with | some (_, n) => n | none => 0
      let n := sumOf (es.map fun pe => w.lackOf pe - have') + sumOf (tails.map w.lackOf)
      let w := w.freeUp p n x.handle.toList
      if n ≤ w.freeOf p then
        let w := match slice with
          | some (g, n) => all.foldl (fun w t =>
              (w.modSeq t fun x => { x with shared := [{ seg := g, start := 0, len := n }] }).refSeg t g) w
          | none => w
        let w := (es ++ tails).foldl (fun w pe => w.growFor p pe) w
        let w := all.foldl (fun w t => (w.modSeq t fun x => { x with joined := true, ownPool := p }).stage p t) w
        .done { c with w := w, pl := { pl with joins := pl.joins ++ all }, tails := c.tails ++ tails }
      else .noPages { c with w := w }

/-- Take one joiner of a pass: the rule of R300 where it does not fit in pages. -/
def takeJoiner (q : Pool) (ok : Comp → Plan → Bool) (second : Bool) (c : Comp) (s : Nat) : Comp :=
  if c.ended then c
  else match tryPlace c q s (ok c) with
    | .done c => { c with pass2 := if second then c.pass2 ++ [s] else c.pass2 }
    | .noPages c => if (c.w.entry s).fl.lc then { c with ended := true } else c
    | .pass c => c

/-- An interposed plan holds prefill chunks, fork tails and final chunks alone (R345, R372). -/
def interposedOk (w : Work) (pl : Plan) : Bool :=
  pl.entries.all fun pe => match pe.etype with
    | .prefill | .forkTail | .final | .embed => true
    | .score => reachOf pe = (w.entry pe.slot).promptLen
    | .decode => false

/-- Pass 1 (R352): tenants in the order of their first joiner, each while its planned cost is below its reserved
amount. -/
def passOne (c : Comp) (q : Pool) (limit : Rat) (js : List Nat) : Comp :=
  let ctxs := js.foldl (fun l s => let t := (c.w.entry s).ctx; if l.contains t then l else l ++ [t]) ([] : List Nat)
  ctxs.foldl (fun c t =>
    let reserved : Rat := limit * (c.w.fctx t).tenant.resOf q.typ / 65536
    (js.filter fun s => (c.w.entry s).ctx = t).foldl (fun c s =>
      if tenantCost c.descs t c.pl.entries < reserved then takeJoiner q (fun c pl => !pl.interposed || c.w.interposedOk pl) false c s else c) c) c

/-- The deadline monitor flags an LC joiner (R353, R565): the prediction through this plan is within the remaining
budget and the one through the following plan is not. -/
def flagged (w : Work) (p : Nat) (q : Pool) (s : Nat) : Bool :=
  let e := w.entry s
  let now' := w.predictOf s p
  e.deadline ≠ 0 && now' ≤ w.remaining e && (w.remaining e : Rat) < now' + w.planDur p q

/-- The tests of R353 on the plan that placing joiner `s` gives. -/
def passTwoOk (q : Pool) (limit : Rat) (flag : Bool) (s : Nat) (c : Comp) (pl : Plan) : Bool :=
  let e := c.w.entry s
  let cap : Rat := limit * (c.w.fctx e.ctx).tenant.limOf q.typ / 65536
  let floor : Rat := if e.fl.lc && !flag then limit - limit * fld (c.w.reg (rSched2 pl.pool)) 23 16 / 256 else limit
  tenantCost c.descs e.ctx pl.entries ≤ cap && ((c.w.costed pl).dur : Rat) ≤ floor

/-- Pass 2 (R353). -/
def passTwo (c : Comp) (q : Pool) (limit : Rat) (js : List Nat) : Comp :=
  js.foldl (fun c s => takeJoiner q (passTwoOk q limit (c.w.flagged c.pool q s) s) true c s) c

/-! Undoing a placement, and energy shedding (R369, R647). -/

/-- A list of SEQ `q` is trimmed to `n` entries (R285). -/
def noteCut (w : Work) (p q n : Nat) : Work :=
  w.modPool p fun x => { x with cuts := x.cuts.modD q n fun m => Nat.min m n }

/-- Own pages beyond `n` list entries go back to the free list; answers how many. -/
def trimList (w : Work) (s p n : Nat) : Work × Nat :=
  let x := w.seq s
  if x.ownPool ≠ p then (w, 0)
  else
    let keep := n - (w.leadOf s).length
    let gone := x.own.drop keep
    if gone.isEmpty then (w, 0)
    else
      let w := (w.returnPages p gone).modSeq s fun x => { x with own := x.own.take keep }
      (w.noteCut p (seqHandle s (w.entry s)) (w.listLen s), gone.length)

/-- A joiner that its plan does not carry after all gives its reservations back; the pages of a restore stay (R369,
R597). -/
def unjoin (w : Work) (s p : Nat) : Work :=
  let x := w.seq s
  match x.park with
  | some r =>
    let w := (w.trimList s p (ceilDiv r.written r.pagePos)).1
    w.modSeq s fun x => { x with joined := false, staged := none }
  | none =>
    let w := w.returnPages p x.own
    let forks := x.shared.filterMap fun y => match w.fs.segs.get? y.seg with
      | some g => if g.copy.isNone && g.pool = p then some y.seg else none
      | none => none
    (w.modSeq s fun x => { x with
      own := [], shared := [], joined := false, staged := none, follows := none, refs := x.refs.filter fun g => !forks.contains g }).sweepForks p

/-- Take a joiner of pass 2 out of the plan again, with the forks that follow its prefill or that were handed over with it
(R254, R305). -/
def shedJoiner (c : Comp) (s : Nat) : Comp :=
  let moved (t : Nat) : Bool := (c.w.seq t).moveFrom.isSome && (c.w.entry t).reqHandle = (c.w.entry s).reqHandle
  let mine := c.pl.joins.filter fun t => t = s || (c.w.followers s).contains t || (moved s && moved t)
  if !(c.pl.entries.any fun pe => mine.contains pe.slot) then c
  else { c with
    w := mine.foldl (fun w t => w.unjoin t c.pool) c.w
    pl := { c.pl with
      entries := c.pl.entries.filter fun pe => !mine.contains pe.slot
      joins := c.pl.joins.filter fun t => !mine.contains t }
    shed := c.shed + 1 }

/-- Replace an entry of the plan and release the pages that it no longer reaches. -/
def reentry (c : Comp) (pe : PlanEntry) : Comp :=
  let old := c.pl.entries.find? (·.slot = pe.slot)
  let tails : List Nat := match old with | some o => (c.w.tailsOf o).map fun (x : PlanEntry) => x.slot | none => []
  let es := c.pl.entries.filter fun x => !(tails.contains x.slot && pe.etype ≠ .final)
  let w := (c.w.trimList pe.slot c.pool (ceilDiv (reachOf pe) (c.w.pagePos pe.model))).1
  { c with w := w, pl := { c.pl with entries := es.map fun x => if x.slot = pe.slot then pe else x } }

/-- Shorten a continuing BE chunk by pages, down to S positions, until the plan fits (R647). -/
def shorten (c : Comp) (pe : PlanEntry) : Comp :=
  let pp := c.w.pagePos pe.model
  let ends := (List.range (pe.npos / pp + 1)).filterMap fun k =>
    let b := (pe.pos + pe.npos - 1) / pp * pp - k * pp
    if pe.pos + pp ≤ b then some b else none
  let try' (b : Nat) : Comp := reentry c { pe with npos := b - pe.pos, etype := if pe.etype = .score then .score else .prefill }
  match ends with
  | [] => c
  | _ :: _ =>
    let best := match ends.find? fun b => (try' b).w.fitsEnvelope ((try' b).w.costed (try' b).pl) with
      | some b => b
      | none => ends.getLast?.getD (pe.pos + pe.npos)
    let c := try' best
    { c with shed := c.shed + 1 }

/-- R647: shed BE work until the plan fits its envelope. -/
def shedEnergy (c : Comp) : Comp :=
  let fits (c : Comp) : Bool := c.w.fitsEnvelope (c.w.costed c.pl)
  let be2 := (c.pass2.filter fun s => !(c.w.entry s).fl.lc).reverse
  let c := be2.foldl (fun c s => if fits c then c else shedJoiner c s) c
  let young (c : Comp) (p : PlanEntry → Bool) : List Nat :=
    c.w.youngestFirst ((c.pl.entries.filter fun pe => !pe.lc && !c.pl.joins.contains pe.slot && p pe).map (·.slot))
  let one (f : Comp → PlanEntry → Comp) (p : PlanEntry → Bool) (c : Comp) (s : Nat) : Comp :=
    if fits c then c
    else match c.pl.entries.find? fun pe => pe.slot = s && p pe with | some pe => f c pe | none => c
  let isChunk (pe : PlanEntry) : Bool :=
    pe.etype ≠ .decode && pe.etype ≠ .forkTail && c.w.pagePos pe.model < pe.npos
  let c := (young c isChunk).foldl (one shorten isChunk) c
  let isDraft (pe : PlanEntry) : Bool := pe.etype = .decode && 0 < pe.draft
  (young c isDraft).foldl (one (fun c pe =>
    let c := reentry c { pe with draft := 0, npos := 1 }
    { c with shed := c.shed + 1 }) isDraft) c

/-! The whole composition. -/

/-- Joiners whose pool is gone or degraded, and those without one, are assigned again by R347 (R348, R859). -/
def reassign (w : Work) : Work :=
  let lost := w.slotsWhere fun s e =>
    e.st.live && !e.fl.bound && (e.st ≠ .parked || w.restoreDue s) &&
      (match (w.seq s).assigned with
        | none => true
        | some a => match w.pool? a with | some q => q.degraded | none => true)
  w.each lost fun w s =>
    let e := w.entry s
    let x := w.seq s
    let decode := match w.aheadNow s with | .decode _ => true | _ => false
    let copy := if x.hPos = 0 then none else x.handle
    let cands := w.poolNums.filter fun p =>
      w.eligible e.ctx e.model e.kind copy (embedPoolOf x.items) decode p &&
        (match x.park, w.pool? p with | some r, some q => r.layout = q.kvLayout | _, _ => true) &&
        w.pagesOk p e.promptLen (w.residentOn copy p) (w.pagePos e.model) 1
    let q : PredictQ := { slot := some s, bound := none, left := e.promptLen - x.kv, start := x.kv, ctx := e.ctx
                          s := w.pagePos e.model }
    w.modSeq s fun x => { x with assigned := w.choosePool cands copy e.model e.variant q }

/-- Park what a commit of pool `p` parks: sequences bound to it with a pause pending, a stall that has won or a growth
mark (R233). A growth mark waits for the commit of step k (R298). A pause that has lost to the composer's read waits for
the composed plan (R40), a stall does not (R545); neither parks a sequence that a step still open includes. -/
def parkDue (w : Work) (p : Nat) : Work :=
  match w.pool? p with
  | none => w
  | some q =>
    let opened := (q.exec.toList ++ q.held.toList).map (·.plan)
    let names (l : List Plan) (s : Nat) : Bool := l.any fun pl => pl.entries.any (·.slot = s)
    let due := w.slotsWhere fun s e =>
      let x := w.seq s
      e.fl.bound && e.pool = p && (e.st = .prefilling || e.st = .decoding) && !names opened s &&
        (x.stallWon || x.marked && opened.isEmpty || e.fl.pausePending && !names q.next.toList s)
    w.each due fun w s =>
      let e := w.entry s
      let x := w.seq s
      -- a sequence on its way to this pool still has its pages on the pool that it leaves
      let w := match x.moveFrom with
        | some (q, own, sl) => if x.joined then w
          else w.modSeq s fun x => { x with own := own, shared := sl, ownPool := q, moveFrom := none }
        | none => w
      w.park s (if e.fl.pausePending then .pause else if x.stallWon then .stall else .growth)

/-- The empty plan of a composition. -/
def emptyPlan (w : Work) (p : Nat) (q : Pool) (step : Nat) : Plan :=
  let (digest, _, layer, operator) := w.traceNow
  let engines := (w.liveEngines p).map (·.1)
  { step := step, epoch := q.epoch, pool := p, typ := q.typ, entries := [], index := w.planIndex
    engines := engines, modes := w.modesNow, unitShare := w.unitShare p, digest := digest, filter := (layer, operator)
    envMode := fld (w.reg (rPoolEnv p)) 15 14
    noWatts := w.noWatts p }

/-- The fork tails that are due join the plan (R346, R368). -/
def Comp.closed (c : Comp) : Comp := { c with pl := c.withTails [], tails := [] }

/-- A plan's cost is above the step limit. -/
def Comp.exceeds (c : Comp) (limit : Rat) : Bool := limit < ((c.w.costed (c.withTails [])).dur : Rat)

/-- A plan with its costs, and what is counted of it at its delivery: that pass 1 took it above the step limit, and that it
is over its envelope (R355, R648). -/
def judged (w : Work) (pl : Plan) (overrun : Bool) : Plan :=
  let pl := w.costed pl
  { pl with beyond := !w.fitsEnvelope pl, overrun := overrun }

/-- The composition ends: the split and the costs, and the plan stands as the pool's next one. A composition that places
nothing keeps no plan; with no step open, the next one can then hand out every free page (DESIGN CHOICE, log entry 103). What was shed is counted in either case (R647). A paced period that is over by then has held nothing back (R649). -/
def finishPlan (c : Comp) (overrun : Bool) : Work :=
  let shed (w : Work) : Work := w.count (cEgvShed c.pool) c.shed
  if c.pl.entries.isEmpty then
    (shed c.w).modPool c.pool fun q =>
      let idle := q.exec.isNone && q.held.isNone
      { q with
        composedEmpty := !idle, trimDue := idle, unbarred := q.unbarred || idle }
  else
    let w := (shed c.w).followChunks c.pl
    let pl := w.judged c.pl (overrun && c.exceeds (w.stepLimit c.pool))
    w.modPool c.pool fun q => { q with
      next := some pl, composedEmpty := false, trimDue := q.exec.isNone && q.held.isNone
      paceUntil := q.paceUntil.filter fun t => w.now < t }

/-- COMPOSE_PLAN: one composition of pool `p` (R368). With no step open it parks what a commit would park, and where it places
nothing, so that no commit comes, a re-routed sequence leaves the pool as well (DESIGN CHOICE, log entry 144). -/
def composePlan (w : Work) (p : Nat) : Work :=
  match w.pool? p with
  | none => w
  | some q =>
    if q.next.isSome || !w.fs.boot.up then w
    else
      let w := ((w.reassign.rerouteBeforeFirst p).phase1 p).reassign.refollow
      match w.pool? p with
      | none => w
      | some q =>
        if q.degraded || (w.liveEngines p).isEmpty || w.degradedNow p q || !w.mayIssue then w
        else
          let limit := w.stepLimit p
          let c : Comp := { w := w, pl := w.emptyPlan p q (Nat.max q.stepNo q.step + 1) }
          let c := placeContinuing c q
          let within := !c.exceeds limit
          let c := if c.pl.marks.isEmpty then passOne c q limit (c.w.joiners p) else c
          let overrun := within && c.exceeds limit
          let c := if c.pl.marks.isEmpty && !c.ended then passTwo c q limit (c.w.joiners p) else c
          let c := c.closed
          let c := if c.pl.envMode ≠ 0 then shedEnergy c else c
          let idle := q.exec.isNone && q.held.isNone
          let nothing := c.pl.entries.isEmpty
          (finishPlan c overrun).whenDo idle fun w => (w.parkDue p).whenDo nothing fun w => w.unbinds p true

/-! Interposition (R371 to R373). -/

/-- The LC joiners that an interposed plan can serve: QUEUED, with a prefill chunk as their next entry, and predicted to
miss their deadline if they wait for plan k+2 (R371, R372). -/
def interposable (w : Work) (p : Nat) : List Nat :=
  (w.joiners p).filter fun s =>
    let e := w.entry s
    e.fl.lc && e.st = .queued && w.joinerOf p s = some .ordinary && e.deadline ≠ 0 &&
      (match w.aheadNow s with | .chunk _ => true | _ => false) && w.remaining e < w.predictOf s p

/-- The added delay of an interposition: I + max TILE_TIME + max C_SWAP (R373). -/
def addedDelay (w : Work) (p : Nat) (pl : Plan) : Nat := pl.dur + w.maxCoef p (·.tileTime) + w.maxCoef p (·.cSwap)

/-- The time of the plans that a sequence still needs for its first output once it has prefilled up to `b`
(R559, R563). -/
def plansAfter (w : Work) (p : Nat) (q : Pool) (s b : Nat) : Rat :=
  let e := w.entry s
  if e.promptLen ≤ b then 0
  else w.plansLeft p q e.ctx (w.pagePos e.model) b (e.promptLen - b) * w.planDur p q

/-- What is left of the executing step and the composed plan of a pool. -/
def bothLeft (w : Work) (q : Pool) : Rat := w.execLeft q + (match q.next with | some pl => (pl.period : Rat) | none => 0)

/-- The next output of an LC sequence that an entry of step k or of plan k+1 names comes within its budget with a further
delay (R373; DEDUCED, log entry 104). -/
def meetsWith (w : Work) (p : Nat) (q : Pool) (pe : PlanEntry) (delay : Nat) (inNext : Bool) : Bool :=
  let e := w.entry pe.slot
  let more : Rat := if pe.etype = .decode then 0 else w.plansAfter p q pe.slot (reachOf pe)
  let t := if inNext || more ≠ 0 then w.bothLeft q else w.execLeft q
  let named := !inNext && (match q.next with | some pl => pl.entries.any (·.slot = pe.slot) | none => false)
  e.deadline = 0 || named || t + more + delay ≤ (w.remaining e : Rat)

/-- A joiner of an interposed plan is predicted to meet its deadline: with its final chunk at the interposed step's end,
else after step k, plan k+1 and the plans that its prompt still takes (R373; DEDUCED, log entry 104). -/
def joinerMeets (w : Work) (p : Nat) (q : Pool) (pl : Plan) (s : Nat) : Bool :=
  match pl.entries.find? (·.slot = s) with
  | none => true
  | some pe =>
    let first : Rat := (pl.dur + w.maxCoef p (·.tileTime) : Nat)
    let more := w.plansAfter p q s (reachOf pe)
    let t := if more = 0 then first else first + (w.maxCoef p (·.cSwap) : Nat) + w.bothLeft q + more
    t ≤ (w.remaining (w.entry s) : Rat)

/-- Write a mailbox command into the given engines (R332, R333). -/
def mailbox (w : Work) (engines : List Nat) (step cmd : Nat) : Work :=
  w.each engines fun w e =>
    match w.engine? e with
    | none => w
    | some g =>
      let num := (g.mboxNum + 1) % 2 ^ 32
      let w := w.modEngine e fun g => { g with mboxStep := step, mboxNum := num, mboxCmd := cmd }
      w.storeHeld [(e, g.desc.ctrlAddr + 24)] (leBytes 32 (pack [(0, 64, step), (64, 32, num), (96, 2, cmd)])) .mailbox

/-- An interposition can be considered for the pool: the profile permits it, YIELD_EN is 1, step k executes and is not
held, plan k+1 has been composed, and none has been made in step k (R371). -/
def mayInterpose (w : Work) (p : Nat) (q : Pool) (st : Step) : Bool :=
  q.typ = 2 && w.profile p ≠ 2 && fld (w.reg (rSched p)) 2 2 = 1 && q.held.isNone && q.interp.isNone && q.yield = .none &&
    !st.plan.interposed && !st.interposedOnce && st.deliveredAt.isSome && st.failed.isNone && q.next.isSome && !q.degraded &&
    !w.degradedNow p q && w.mayIssue

/-- The interposed plan of a pool over the joiners of R371, composed under R295 and R368 (R372), with whether pass 1 takes it
above the step limit (R355). Its engines are those of any composition that begins now (R206, R220). -/
def interposedPlan (w : Work) (p : Nat) (q : Pool) (st : Step) : Comp × Bool :=
  let js := w.interposable p
  let limit := w.stepLimit p
  let c : Comp := { w := w, pl := { w.emptyPlan p q st.plan.step with interposed := true } }
  let c := passOne c q limit js
  let above := c.exceeds limit
  let c := if c.ended then c else js.foldl (fun c s =>
    takeJoiner q (fun c pl => c.w.interposedOk pl && passTwoOk q limit true s c pl) true c s) c
  (c.closed, above)

/-- The interposed plan of a pool with what it reserves, where it has an entry, no envelope of 0 W holds it and every
deadline of R373 is still met (R650, R652). -/
def interposition (w : Work) (p : Nat) (q : Pool) (st : Step) (nx : Plan) : Option (Work × Plan) :=
  let (c, above) := w.interposedPlan p q st
  let v := c.w.followChunks c.pl
  let pl := v.judged c.pl above
  let delay := w.addedDelay p pl
  let own := c.pl.joins.all fun s => !(w.entry s).fl.lc || w.joinerMeets p q pl s
  let rest := (st.plan.entries.filter (·.lc)).all (fun pe => w.meetsWith p q pe delay false) &&
    (nx.entries.filter (·.lc)).all (fun pe => w.meetsWith p q pe delay true)
  if c.pl.entries.isEmpty || (pl.envMode = 2 && pl.noWatts) || !own || !rest then none else some (v, pl)

/-- INTERPOSE_COMPOSE (R371 to R373): compose an interposed plan and send YIELD; a plan that is not to be delivered gives
its reservations back. -/
def interposeCompose (w : Work) (p : Nat) : Work :=
  match w.pool? p with
  | none => w
  | some q =>
    match q.exec, q.next with
    | some st, some nx =>
      if !w.mayInterpose p q st || (w.interposable p).isEmpty then w
      else
        let w := (w.phase1 p).refollow
        match w.interposition p q st nx with
        | none => w
        | some (v, pl) =>
          let v := v.modPool p fun q => { q with
            interp := some pl, yield := .asked st.plan.engines
            exec := q.exec.map fun st => { st with interposedOnce := true } }
          v.mailbox st.plan.engines st.plan.step 1
    | _, _ => w

end Work

end Sys2Proof.Machine
end

