-- ==== Sys2Proof/Machine/Observer.lean ====
section
/-! DEFINITION. The observation unit: operation counts, tensor digests, export and budget (R796 to R811). -/

namespace Sys2Proof.Machine

/-- What names a digest (R804), besides the record number and the digest itself. -/
structure DigestOf where
  dkind : Nat
  interposed : Bool
  pool : Nat
  mb : Nat := 0
  model : Nat := 0
  engine : Nat := 0
  step : Nat
  epoch : Nat
  layer : Nat := 0xFFFF
  operator : Nat := 0xFFFF
  seq : Nat := 0
  index : Nat := 0
deriving DecidableEq, Repr

/-- The 512 bits of a digest record (R804). -/
def digestBits (recno : Nat) (d : DigestOf) (bs : List Byte) : Nat :=
  pack [(0, 64, recno), (64, 3, d.dkind), (67, 1, b01 d.interposed), (68, 6, d.pool), (74, 2, d.mb), (76, 5, d.model),
    (81, 10, d.engine), (128, 64, d.step), (192, 32, d.epoch), (224, 16, d.layer), (240, 16, d.operator),
    (256, 32, d.seq), (288, 14, d.index), (320, 32, bs.length), (384, 64, (crc64 bs).toNat)]

/-- The index of a reduction word's counter: OPTYPE and FORMAT, unassigned formats as 15 (R796). -/
def opIndex (word : Nat) : Nat := if 10 ≤ word % 16 then word % 128 / 16 * 16 + 15 else word % 128

namespace Work

/-- Change the observation unit's settings and progress. -/
def modObu (w : Work) (g : Obu → Obu) : Work := w.modFs fun f => { f with obu := g f.obu }

/-- Compute and keep a digest of a step's bytes (R802, R803); a plan or token return is kept whatever the filter. -/
def digest (w : Work) (d : DigestOf) (pl : Plan) (bs : List Byte) : Work :=
  let pass (f v : Nat) : Bool := f = 0xFFFF || f = v
  if pl.digest && w.reg64 rSinkAddr ≠ 0 && (4 ≤ d.dkind || (pass pl.filter.1 d.layer && pass pl.filter.2 d.operator)) then
    w.modObu fun o => { o with nextRecno := o.nextRecno + 1, waiting := o.waiting ++ [(o.nextRecno, digestBits o.nextRecno d bs)] }
  else w

/-- The reduction half of a step (R797). -/
def halfOf (step : Nat) (interposed : Bool) : Nat := if interposed then 1 - step % 2 else step % 2

/-- Collect the operation counts of a step that commits or fails (R798, R799). -/
def collectOps (w : Work) (p step : Nat) (interposed : Bool) : Work :=
  match w.pool? p with
  | none => w
  | some q =>
    let h := halfOf step interposed
    let mine (k : Nat) : Bool := k / 4096 = h
    let words := q.redWin.filterV fun k _ => mine k
    let w := w.modPool p fun q => { q with redWin := q.redWin.filterV fun k _ => !mine k
                                           redSat := q.redSat.filter fun k => !mine k }
    if w.traceNow.2.1 then
      w.each words fun w (k, v) =>
        let i := opIndex (k % 4096)
        let m := k % 4096 / 128
        let w := (w.count (cPoolOps p i) v.toNat).count (cModelOps m i) v.toNat
        if q.redSat.contains k then (w.eff (.markSat (cPoolOps p i))).eff (.markSat (cModelOps m i)) else w
    else w

/-- The port of observation traffic to an address. -/
def obsPort (w : Work) (addr : Nat) : Nat :=
  let ports := (List.range w.idn.fabPorts).filter fun i => bit (w.reg rFabCfg) i
  ports.getD (Config.obsPort addr % Nat.max 1 ports.length) 0

/-- B: bytes that an interval may send (R808). -/
def budgetBytes (w : Work) (budget : Nat) : Nat :=
  let ports := ((List.range w.idn.fabPorts).filter fun i => bit (w.reg rFabCfg) i).length
  ports * 300000000000 * budget / 1000 / 100000

/-- Send observation traffic of `n` flits, where the interval's budget allows it. -/
def obsSend (w : Work) (addr n : Nat) (op : FabOp) : Work :=
  ((w.modObu fun o => { o with left := o.left - 256 * n }).eff (.fabric op)).count (cFabTx (w.obsPort addr)) (256 * n)

/-- The counter of an export word (R806). -/
def exportCounter (k : Nat) : Option Nat :=
  let p := k / 256
  let i := k % 256
  if i < 128 then some (cPoolOps p i)
  else if i < 136 then some (cSkTail p (i - 128))
  else if i = 136 then some (cSkParts p)
  else if i = 137 then some (cSkKept p)
  else if i = 138 then some (cSampledPos p)
  else none

/-- COUNTER_EXPORT: one reduction for each export word that has increased, as far as the budget goes (R806, R807,
R809). -/
def counterExport (w : Work) : Work :=
  let base := w.reg64 rExportAddr
  if base = 0 ∨ !w.fired w.fs.obu.lastExport (w.reg rExportCfg) ∨ !w.mayIssue then w
  else
    let w := w.modObu fun o => { o with lastExport := w.now }
    w.each (List.range (64 * 256)) fun w k =>
      match exportCounter k with
      | none => w
      | some off =>
        let v := w.ctrNow off
        let sent := (w.fs.obu.exported.getD k 0).toNat
        if v ≤ sent ∨ w.fs.obu.left < 256 then w
        else
          ((w.modObu fun o => { o with exported := o.exported.set k (BitVec.ofNat 64 v) }).obsSend (base + 8 * k) 1
            (.reduce (base + 8 * k) (v - sent))).count cObuExports

/-- The sink offset of a record (R805). -/
def sinkOffset (w : Work) (recno : Nat) : Nat := (recno - 1) * 64 % 2 ^ (w.reg rSinkCfg)

/-- Store the waiting digest records, up to four that lie together in one store (R809); `fuel` bounds the stores. -/
def storeDigests (fuel : Nat) (w : Work) : Work :=
  match fuel with
  | 0 => w
  | k + 1 =>
    match w.fs.obu.waiting with
    | [] => w
    | (r, x) :: rest =>
      let near := (x :: ((rest.take 3).filter fun y => w.sinkOffset y.1 = w.sinkOffset r + 64 * (y.1 - r)).map (·.2))
      let w := w.modObu fun o => { o with waiting := o.waiting.drop near.length }
      if w.fs.obu.left < 256 ∨ !w.mayIssue then (w.count cObuDropped near.length).storeDigests k
      else
        let addr := w.reg64 rSinkAddr + w.sinkOffset r
        ((w.obsSend addr 1 (.sink addr ((near.map fun y => leBytes 64 y).flatten))).count cObuRecords near.length).storeDigests k

/-- OBS_BUDGET_INTERVAL: the interval of 10 µs ends; its digest records go out or are dropped, and the next one begins
(R808 to R811). -/
def obsBudgetInterval (w : Work) : Work :=
  if !w.fired w.fs.obu.intervalAt 100 then w
  else
    let w := w.storeDigests w.fs.obu.waiting.length
    w.modObu fun o => { o with
      intervalAt := w.now, budgetNow := o.budget, left := w.budgetBytes o.budget
      exported := if o.restart then [] else o.exported
      lastExport := if o.restart then w.now else o.lastExport, restart := false }

end Work

end Sys2Proof.Machine
end

