-- ==== Sys2Proof/Machine/Delivery.lean ====
section
/-! DEFINITION. Trimming and delivery: page-list delta records, plan bytes, token returns, the header and its
acknowledgements (R37, R282 to R293, R335 to R342, R649, R650, R680 to R682). -/

namespace Sys2Proof.Machine

/-! The bytes of a plan (R282, R337 to R340, R525, R680). -/

/-- The 64-byte header of a plan. -/
def planHeader (pl : Plan) : List Byte :=
  leBytes 64 (pack [(0, 64, pl.step), (64, 32, pl.epoch), (96, 6, pl.pool), (102, 2, pl.typ), (104, 1, b01 pl.interposed),
    (112, 15, pl.entries.length), (128, 24, pl.deltas.length), (160, 16, pl.segs.length), (176, 3, pl.mbSplit),
    (192, 32, pl.dur), (224, 16, pl.index), (256, 32, Work.planBytes pl / 16)])

/-- The 16 bytes of a sequence entry. -/
def entryBytes (e : PlanEntry) : List Byte :=
  leBytes 16 (pack [(0, 32, e.seq), (32, 21, e.pos), (53, 3, e.etype.code), (56, 5, e.model), (64, 8, e.variant),
    (72, 14, e.npos), (86, 2, e.mb), (88, 7, e.draft), (96, 15, e.plLen)])

/-- The 16 bytes of a page-list delta record. -/
def deltaBytes (d : Delta) : List Byte :=
  leBytes 16 (pack [(0, 32, d.seq), (32, 2, d.op), (34, 1, b01 d.src.isSome), (48, 14, d.index), (64, 32, d.page),
    (96, 32, d.src.getD 0)])

/-- The 16 bytes of a segment record. -/
def segBytes (s : SegRec) : List Byte :=
  leBytes 16 (pack [(0, 16, s.layer), (16, 16, s.operator), (32, 5, s.model), (37, 2, s.mb), (39, 2, s.skind),
    (64, 32, s.offset), (96, 32, s.dur)])

/-- The 16 bytes of an outcome record, kept as STEP, SEQ, last token and accepted path. -/
def outcomeBytes (l : List Nat) : List Byte :=
  let path := l.drop 3
  leBytes 16 (pack ([(0, 32, l.getD 1 0), (32, 4, path.length), (40, 20, l.getD 2 0)] ++
    ((List.range path.length).zip path).map fun (j, n) => (7 * (j + 1) + 57, 7, n)))

/-- The token return of a plan (R680, R681). -/
def tokenReturn (l : List (List Nat)) : List Byte :=
  leBytes 16 (pack [(0, 64, maxOf (l.map fun o => o.headD 0)), (64, 24, l.length)]) ++ (l.map outcomeBytes).flatten

namespace Work

/-! Reaches that trimming keeps (R270, R290, R291). -/

/-- The entry with the positions that stand now: the previous step has committed. An entry of a sequence that can take
no part any more is dropped; one whose end has been decided keeps its entry (R233), at the positions that its discarded
group leaves (R264, R528, R530). -/
def fixEntry (w : Work) (pe : PlanEntry) : Option PlanEntry :=
  let e := w.entry pe.slot
  let x := w.seq pe.slot
  let restored := match x.park with | some r => decide (r.restore ≠ .none) | none => false
  if e.st = .free || seqHandle pe.slot e ≠ pe.seq || (e.st = .parked && !restored) then none
  else match pe.etype with
  | .decode =>
    if (match w.aheadNow pe.slot with | .decode _ => true | _ => false) then
      some { pe with pos := e.length - 1, npos := 1 + pe.draft, lRead := e.length }
    else if x.kv < e.promptLen then
      some { pe with pos := x.kv, npos := e.promptLen - x.kv, draft := 0, etype := .final, lRead := e.length }
    else if e.st.live then none else some pe
  | .forkTail => some { pe with lRead := e.length }
  -- positions that the last step left uncommitted are planned again, no more of them than the credits allowed (R542, R543)
  | .score => some { pe with pos := Nat.min pe.pos x.kv, lRead := e.length }
  | _ =>
    let b := pe.pos + pe.npos
    if b ≤ x.kv then some { pe with lRead := e.length }
    else some { pe with pos := Nat.min pe.pos x.kv, npos := b - Nat.min pe.pos x.kv, lRead := e.length }

/-- List entries that a sequence keeps on a pool: its reach in the plan, or its committed length (R291). -/
def keepEntries (w : Work) (pl : Option Plan) (s : Nat) : Nat :=
  let e := w.asNamed s
  let pp := w.pagePos e.model
  match (pl.bind fun pl => pl.entries.find? (·.slot = s)).bind w.fixEntry with
  | some pe => ceilDiv (reachOf pe) pp
  | none => ceilDiv e.length pp

/-- Trim every sequence with pages on pool `p` (R291, R292): answers the pages returned. A restore in flight and a copy
in progress keep theirs. -/
def trimPool (w : Work) (p : Nat) (pl : Option Plan) : Work × Nat :=
  (w.fs.seqs.map (·.1)).foldl (fun (acc : Work × Nat) s =>
    let (w, n) := acc
    let x := w.seq s
    let held := match x.park with
      | some r => ceilDiv r.written r.pagePos
      | none => 0
    if x.ownPool ≠ p || x.own.isEmpty then acc
    else
      let (w, k) := w.trimList s p (Nat.max held (w.keepEntries pl s))
      (w, n + k)) (w, 0)

/-- TRIM (R291): the commit of step k and composition k+1 have both finished. -/
def trim (w : Work) (p : Nat) : Work :=
  match w.pool? p with
  | some q =>
    if q.trimDue then
      let (w, n) := w.trimPool p q.next
      (w.count (cTrimmed p) n).modPool p fun q => { q with trimDue := false }
    else w
  | none => w

/-! Delta records (R283 to R288, R304). -/

/-- The source page of an APPEND of list entry `i`, where the page is copied (R304): a residency's pages are not, and
a shared page is copied by the lowest SEQ that holds it. -/
def sourceOf (w : Work) (pl : Plan) (pe : PlanEntry) (i : Nat) : Option Nat :=
  let x := w.seq pe.slot
  if x.moveFrom.isNone || x.moved then none
  else
    let rec inSlice (l : List SegSlice) (i : Nat) : Option SegSlice :=
      match l with
      | [] => none
      | y :: r => if i < y.len then some y else inSlice r (i - y.len)
    match inSlice x.shared i with
    | some y =>
      match w.fs.segs.get? y.seg with
      | some g =>
        if g.copy.isSome then none
        else if pl.entries.any fun o => o.seq < pe.seq && (w.seq o.slot).shared.any (fun z => z.seg = y.seg && z.start = y.start) then none
        else (w.sourceList x)[i]?
      | none => none
    | none => (w.sourceList x)[i]?

/-- The delta records of a plan, with the mirrors that they leave (R283, R285, R288). -/
def deltasFor (w : Work) (q : Pool) (pl : Plan) (fresh : Bool) : List Delta × Tbl (List Nat) :=
  let bySeq := sortBy (fun (a b : PlanEntry) => a.seq < b.seq) pl.entries
  let gone := if pl.interposed then [] else q.named.filter fun n => !(bySeq.any fun pe => pe.seq = n)
  let drops := (sortBy (fun a b => a < b) gone).map fun n => ({ seq := n, op := 3 } : Delta)
  let m0 := gone.foldl (fun (m : Tbl (List Nat)) n => m.erase n) q.mirror
  let trunc := bySeq.filterMap fun pe =>
    let old := m0.getD pe.seq []
    let n := Nat.min (mirrorLeft q old pe.seq).length (w.listLen pe.slot)
    if n < old.length then some ({ seq := pe.seq, op := 2, index := n } : Delta) else none
  let apps := (bySeq.map fun pe =>
    let l := w.listOf pe.slot
    let old := mirrorLeft q (m0.getD pe.seq []) pe.seq
    ((List.range l.length).zip l).filterMap fun (i, page) =>
      if fresh || old[i]? ≠ some page then
        some ({ seq := pe.seq, op := 1, index := i, page := page, src := w.sourceOf pl pe i } : Delta)
      else none).flatten
  (drops ++ trunc ++ apps, bySeq.foldl (fun m pe => m.set pe.seq (w.listOf pe.slot)) m0)

/-! Delivery. -/

/-- The buffer of a plan in an engine's memory (R335). -/
def bufferAddr (pl : Plan) (d : Desc) : Nat :=
  d.planAddr + (if pl.interposed then 2 else pl.step % 2) * d.planBytes

/-- Undo a composed plan that is not delivered: its joiners give their reservations back, the growth that it reserved returns,
and the residencies that it began to place go, their pages with the pool's next phase 1 (R277, R369). -/
def discardPlan (w : Work) (p : Nat) (pl : Plan) : Work :=
  let w := pl.joins.foldl (fun w s => w.unjoin s p) w
  let w := pl.grown.foldl (fun w (s, l) =>
    let x := w.seq s
    let back := if x.ownPool = p then x.own.filter l.contains else []
    if back.isEmpty then w
    else (w.returnPages p back).modSeq s fun x => { x with own := x.own.filter fun n => !l.contains n }) w
  let w := pl.places.foldl (fun w g => match w.fs.segs.get? g with
    | some y => if y.placing then w.dropResidency g else w
    | none => w) w
  pl.marks.foldl (fun w s => w.modSeq s fun x => { x with marked := false }) w

/-- DRAINING becomes DONE once no plan that includes the sequence is open, delivered or composed (R233). -/
def drainDone (w : Work) : Work :=
  w.each (w.slotsWhere fun s e => e.st = .draining && !w.inPlan s) fun w s => w.toDone s

/-- Store a plan to every engine, the body and the token return before the header (R341, R681). -/
def deliver (w : Work) (p : Nat) (pl : Plan) : Work :=
  match w.pool? p with
  | none => w
  | some q =>
    let entries := pl.entries.filterMap w.fixEntry
    let engines := pl.engines.filter fun e => match w.engine? e with | some g => !g.frozen | none => false
    let clear (q : Pool) : Pool := if pl.interposed then { q with interp := none } else { q with next := none }
    if entries.isEmpty || engines.isEmpty then ((w.discardPlan p pl).modPool p clear).drainDone
    else
      let pl := { pl with
        entries := entries.map (fun pe => { pe with plLen := w.listLen pe.slot }), engines := engines
        -- an engine that the plan does not reach is not awaited (R641)
        energy := pl.energy.filter fun x => engines.contains x.1 }
      let es := (w.fs.engines.filterV fun e _ => engines.contains e)
      let (deltas, mirror) := w.deltasFor q pl (es.any fun (_, g) => g.fresh)
      let pl := { pl with deltas := deltas }
      let body := (pl.entries.map entryBytes).flatten ++ (pl.deltas.map deltaBytes).flatten ++ (pl.segs.map segBytes).flatten ++
        tokenReturn q.outcomes
      let w := w.multicast (es.map fun (e, g) => (e, bufferAddr pl g.desc + 64)) body
      let w := w.storeHeld (es.map fun (e, g) => (e, bufferAddr pl g.desc)) (planHeader pl) .plan
      let tokens := tokenReturn q.outcomes
      let w := (w.digest { dkind := 4, interposed := pl.interposed, pool := p, step := pl.step, epoch := pl.epoch } pl
        (planHeader pl ++ body.take (body.length - tokens.length))).digest { dkind := 5, interposed := pl.interposed, pool := p, step := pl.step, epoch := pl.epoch } pl tokens
      let names := pl.entries.map (·.seq)
      w.modPool p fun q =>
        { clear q with
          exec := some { plan := pl, bytes := engines.length * (body.length + 64) }
          mirror := mirror, unbarred := false, cuts := if pl.interposed then q.cuts.filterV (fun n _ => !names.contains n) else []
          named := if pl.interposed then q.named ++ names.filter (fun n => !q.named.contains n) else names
          outcomes := [], sentOutcomes := q.outcomes, stepNo := Nat.max q.stepNo pl.step }

/-- Under CAP_HARD, an envelope of 0 W holds a plan's delivery until ENVELOPE_SET has raised the envelope (R650); the mode
and the envelope are those of its composition (R209). -/
def capHeld (w : Work) (p : Nat) (pl : Plan) : Bool :=
  pl.envMode = 2 && pl.noWatts && w.noWatts p

/-- The pacing of the plans before does not allow a delivery on the pool yet (R649). -/
def paced (w : Work) (q : Pool) : Bool := match q.paceUntil with | some t => decide (w.now < t) | none => false

/-- A plan goes out; what pacing has held it back beyond the commit is counted (R649). -/
def deliverPaced (w : Work) (p : Nat) (q : Pool) (pl : Plan) : Work :=
  let wait := match q.paceUntil with | some t => w.hnsDown (t - Nat.min t q.committedAt) | none => 0
  ((w.count (cEgvPaced p) wait).modPool p fun q => { q with paceUntil := none }).deliver p pl

/-- PLAN_DELIVER: the composed plan goes out once the previous step has committed or failed, trimming is done and the
envelope allows it (R37, R291, R649, R650). An interposed plan whose yield has failed goes out first (R377). -/
def planDeliver (w : Work) (p : Nat) : Work :=
  match w.pool? p with
  | none => w
  | some q =>
    if q.exec.isSome || q.held.isSome || q.degraded || !w.mayIssue || w.paced q then w
    else match q.interp, q.next with
    | some pl, _ => if w.capHeld p pl then w else w.deliverPaced p q pl
    | none, some pl => if q.trimDue || w.capHeld p pl then w else w.deliverPaced p q pl
    | none, none => w

/-- The sequences that a plan names enter their states (R233, R571): the forks of a final or prefill chunk go with it. One
that nothing is left to prefill of goes to DECODING directly, on a prefill pool too (R262). -/
def enterStates (w : Work) (p : Nat) (pl : Plan) : Work :=
  w.each pl.entries fun w pe =>
    let direct := match w.aheadNow pe.slot with | .decode _ => true | _ => false
    let st : SeqState := if pe.etype = .decode || (pe.etype = .final && direct) then .decoding else .prefilling
    let enter (w : Work) (s : Nat) : Work :=
      let e := w.entry s
      if (w.seq s).unbind then w
      else if e.st = .queued || e.st = .parked then
        (w.modEntry s fun e => { e with st := st, pool := p, fl := { e.fl with bound := true, displaced := false } }).stallCheck s
      else w
    if seqHandle pe.slot (w.entry pe.slot) ≠ pe.seq then w
    else
      let w := enter w pe.slot
      if pe.etype = .decode then w else (w.followers pe.slot).foldl enter w

/-- PLAN_HEADER_ACKED: an engine has acknowledged the header; the last one makes the plan delivered (R341, R679). -/
def planHeaderAcked (w : Work) (p engine : Nat) : Work :=
  match w.pool? p with
  | none => w
  | some q =>
    match q.exec with
    | none => w
    | some st =>
      if !st.plan.engines.contains engine || st.acked.has engine || st.failed.isSome then w
      else
        let acked := st.acked.set engine w.now
        let all := st.plan.engines.all fun e => acked.has e
        let pl := st.plan
        let w := w.modPool p fun q => { q with exec := some { st with
          acked := acked, deliveredAt := if all then some w.now else st.deliveredAt } }
        if !all then w
        else
          let w := w.modPool p fun q => { q with
            step := Nat.max q.step pl.step, lastDur := if pl.interposed then q.lastDur else some pl.period
            -- what a failed step's trimming took comes back (R369)
            returned := if pl.interposed then q.returned else q.returned ++ q.lateReturn
            lateReturn := if pl.interposed then q.lateReturn else [] }
          -- an interposed plan does not name the lists of the other sequences, so a new engine still lacks them (R288)
          let w := if pl.interposed then w else w.each pl.engines fun w e => w.modEngine e fun g => { g with fresh := false }
          let w := (w.count (cPlans p)).count (cInterposed p) (b01 pl.interposed)
          let w := (w.count (cOverrun p) (b01 pl.overrun)).count (cEgvPlanned p) (ratFloor pl.energyK)
          let w := w.count (cEgvOver p) (b01 (pl.beyond && pl.envMode = 1))
          let w := w.count (cHandoffPages p) (pl.deltas.filter fun d => d.src.isSome).length
          w.enterStates p pl

end Work

end Sys2Proof.Machine
end

