-- ==== Sys2Proof/Machine/Steps.lean ====
section
/-! DEFINITION. Steps: completions, yields, commit, handover, accounting and energy, failure, engine freezes, degraded
pools and detachment (R34 to R41, R139 to R143, R206, R274, R306, R325, R369 to R380, R631 to R645, R675 to R679,
R855 to R860). -/

namespace Sys2Proof.Machine

/-! Accounting (R631 to R638). -/

/-- Divide a total by weights, each share rounded down, the remainder to the largest weight, the lower SEQ between
equal ones; with no weight at all every entry has the same (R632, R636). -/
def divide (total : Nat) (ws : List (Nat × Rat)) : List Nat :=
  let sum := ws.foldl (fun a x => a + x.2) (0 : Rat)
  let ws : List (Nat × Rat) := if sum = 0 then ws.map fun x => (x.1, 1) else ws
  let sum := ws.foldl (fun a x => a + x.2) (0 : Rat)
  let parts := ws.map fun x => ratFloor (total * x.2 / sum)
  let left := total - sumOf parts
  let best := ((List.range ws.length).zip ws).foldl (fun (a : Option (Nat × Nat × Rat)) (i, s, v) => match a with
    | none => some (i, s, v)
    | some (j, t, u) => if u < v ∨ (u = v ∧ s < t) then some (i, s, v) else some (j, t, u)) none
  match best with
  | some (i, _, _) => ((List.range parts.length).zip parts).map fun (k, n) => if k = i then n + left else n
  | none => []

/-- The weight of an entry at an engine (R632). -/
def entryWeight (d : Desc) (e : PlanEntry) : Rat :=
  ((if e.etype = .decode then d.cDec else d.cPre) * e.npos : Nat) / (1024 : Rat) +
    (d.cAtt * e.npos * (e.pos + e.npos) : Nat) / (1048576 : Rat)

/-- Both copies of a step's done list cover its engines. -/
def Step.allDone (st : Step) : Bool := st.plan.engines.all fun e => st.done.contains e

/-- The commit decision of R856 has been taken: every completion is in and appending has begun. -/
def Step.decided (st : Step) : Bool := st.allDone && !st.appended.isEmpty

namespace Work

/-- The shares of a plan's entries: SEQ, context, class and weight (R632). -/
def sharesOf (w : Work) (pl : Plan) : List (Nat × Nat × Bool × Rat) :=
  let ds := (w.fs.engines.filterV fun e _ => pl.engines.contains e).map fun (e, g) => (e, g.desc)
  match costliest ds pl.entries with
  | some (d, _) => pl.entries.map fun e => (e.seq, e.ctx, e.lc, entryWeight d e)
  | none => pl.entries.map fun e => (e.seq, e.ctx, e.lc, 0)

/-- Charge a total to the entries' contexts, in the LC counter or the BE counter of each (R631, R634, R636). -/
def chargeShares (w : Work) (shares : List (Nat × Nat × Bool × Rat)) (total lcIdx beIdx : Nat) : Work :=
  let parts := divide total (shares.map fun x => (x.1, x.2.2.2))
  (shares.zip parts).foldl (fun w (x, n) => w.count (cAcct x.2.1 (if x.2.2.1 then lcIdx else beIdx)) n) w

/-- The engine time of a step up to now (R633). -/
def engineTime (w : Work) (st : Step) : Nat :=
  match st.deliveredAt with
  | none => 0
  | some t =>
    let held := st.heldFor + (match st.heldAt with | some h => w.now - h | none => 0)
    w.hnsDown (w.now - t - held) * st.plan.engines.length

/-! Energy (R639 to R645). -/

/-- Close the energy of a step: what is missing is taken as planned, except after a failure (R637, R641, R645). -/
def closeEnergy (w : Work) (p : Nat) (x : EnergyWait) : Work :=
  let reported := sumOf (x.reported.map (·.2))
  let missing := x.planned.filter fun (e, _) => !(x.reported.any fun r => r.1 = e)
  if x.failed then w
  else
    let est := sumOf (missing.map fun (_, u) => ratFloor u)
    let w := w.chargeShares x.shares (reported + est) 2 3
    let w := if est = 0 then w else w.chargeShares x.shares est 4 4
    let planned := x.planned.foldl (fun a y => a + y.2) (0 : Rat)
    if missing.isEmpty && 0 < planned then
      let r : Rat := (w.ratio p : Nat) / (4096 : Rat)
      w.modFs fun f => { f with
        ratios := f.ratios.set p (clampTo 0x0800 0x4000 (ratFloor ((r + (reported / planned - r) / 8) * 4096))) }
    else w

/-- A step's energy begins to be awaited; a fifth step that has ended closes the oldest (R641). -/
def awaitEnergy (w : Work) (p : Nat) (x : EnergyWait) : Work :=
  match w.pool? p with
  | none => w
  | some q =>
    let w := match q.closing.filter fun y => y.at_ < 2 ^ 64 with
      | y :: r =>
        if 3 ≤ r.length then (w.closeEnergy p y).modPool p fun q => { q with closing := q.closing.filter (· ≠ y) } else w
      | [] => w
    w.modPool p fun q => { q with closing := q.closing ++ [x] }

/-- Take an engine's energy report (R640, R641): the flag says that it was malformed. -/
def takeEnergy (w : Work) (e : Nat) (r : EnergyReport) : Work × Bool :=
  match w.engine? e with
  | none => (w, false)
  | some g =>
    let p := g.pool
    match w.pool? p with
    | none => (w, false)
    | some q =>
      if r.engine ≠ e || r.pool ≠ p then (w.count (cEgvStale p), true)
      else if r.epoch < q.epoch then (w.count (cEgvStale p), false)
      else match q.closing.find? fun x => x.step = r.step && x.interposed = r.interposed with
      | none =>
        -- the step may still be executing: its energy is awaited from then on
        match [q.exec, q.held].findSome? fun o => match o with
          | some st => if st.plan.step = r.step ∧ st.plan.interposed = r.interposed then some st.plan else none
          | none => none with
        | none => (w.count (cEgvStale p), false)
        | some pl =>
          if !pl.engines.contains e then (w.count (cEgvStale p), true)
          else
            let x : EnergyWait := { step := r.step, epoch := r.epoch, interposed := r.interposed, planned := pl.energy
                                    reported := [(e, r.energy)], at_ := 2 ^ 64, failed := false, shares := w.sharesOf pl }
            ((w.count (cEgvReported p) r.energy).modPool p fun q => { q with closing := q.closing ++ [x] }, false)
      | some x =>
        if !(x.planned.any fun y => y.1 = e) then (w.count (cEgvStale p), true)
        else if x.reported.any fun y => y.1 = e then (w.count (cEgvStale p), false)
        else
          let x' := { x with reported := x.reported ++ [(e, r.energy)] }
          let w := w.count (cEgvReported p) r.energy
          let full := x'.planned.all fun y => x'.reported.any fun z => z.1 = y.1
          if full && x'.at_ < 2 ^ 64 then
            ((w.closeEnergy p x').modPool p fun q => { q with closing := q.closing.filter (· ≠ x) }, false)
          else (w.modPool p fun q => { q with closing := q.closing.map fun y => if y = x then x' else y }, false)

/-- The step's energy is awaited from its commit or failure on (R637, R641); reports that came before count. -/
def endEnergy (w : Work) (p : Nat) (st : Step) (failed : Bool) : Work :=
  let pl := st.plan
  match w.pool? p with
  | none => w
  | some q =>
    match q.closing.find? fun x => x.step = pl.step && x.interposed = pl.interposed && x.at_ = 2 ^ 64 with
    | some x =>
      let x' := { x with at_ := w.now, failed := failed }
      let w := w.modPool p fun q => { q with closing := q.closing.filter (· ≠ x) }
      if x'.planned.all fun y => x'.reported.any fun z => z.1 = y.1 then w.closeEnergy p x' else w.awaitEnergy p x'
    | none =>
      w.awaitEnergy p { step := pl.step, epoch := pl.epoch, interposed := pl.interposed, planned := pl.energy, at_ := w.now
                        failed := failed, shares := w.sharesOf pl }

/-- ENERGY_WAIT_EXPIRY: every step of the pool whose wait has passed is closed (R641). -/
def energyWaitExpiry (w : Work) (p : Nat) : Work :=
  match w.pool? p with
  | none => w
  | some q =>
    let due := q.closing.filter fun x => x.at_ < 2 ^ 64 && w.fired x.at_ (w.reg rAcuCfg)
    let w := due.foldl (fun w x => w.closeEnergy p x) w
    w.modPool p fun q => { q with closing := q.closing.filter fun x => !due.contains x }

/-- ENERGY_WAIT has run out for a step of the engine's pool before the report that now arrives: what it has not brought is
closed first (R88, R641). -/
def energyExpired (w : Work) (e : Nat) : Work :=
  match w.engine? e with
  | none => w
  | some g =>
    match w.pool? g.pool with
    | some q =>
      if q.closing.any fun x => x.at_ < 2 ^ 64 && w.lapsed x.at_ (w.reg rAcuCfg) then w.energyWaitExpiry g.pool else w
    | none => w

/-! Degraded pools (R857 to R860) and detachment (R206, R274). -/

/-- A sequence on its way to a pool keeps its list on the pool that it leaves. -/
def rehome (w : Work) (s : Nat) : Work :=
  match (w.seq s).moveFrom with
  | some (q, own, sl) => w.modSeq s fun x =>
      if x.joined then x else { x with own := own, shared := sl, ownPool := q, moveFrom := none }
  | none => w

/-- The bound sequences of a degraded pool are parked or, where a re-route has them leave it, QUEUED elsewhere, and what was on
its way there turns back (R233, R859). -/
def degradePool (w : Work) (p : Nat) : Work :=
  let w := match w.pool? p with
    | some { next := some pl, .. } => (w.discardPlan p pl).modPool p fun q => { q with next := none }
    | _ => w
  let bound := w.slotsWhere fun _ e => e.fl.bound && e.pool = p && (e.st = .prefilling || e.st = .decoding)
  let w := (w.each bound fun w s => (w.rehome s).park s .degraded).unbinds p true
  let storing := w.fs.seqs.keys fun _ x => match x.park with | some r => decide (r.restore = .storing p) || decide (r.restore = .fetching p) | none => false
  let w := w.each storing fun w s =>
    -- the pages reserved for a restore come back in the pool's next phase 1 (R277)
    w.modSeq s fun x => { x with
      left := x.left ++ [(p, x.own)], own := [], shared := [], assigned := none
      park := x.park.map fun r => { r with restore := .none } }
  let placing := w.fs.segs.keys fun _ g => g.pool = p && g.placing
  placing.foldl (fun w g => w.dropResidency g) w

/-- A degraded sequence's copy failed at its last holder (R859, steps 4 to 6). -/
def copyFailed (w : Work) (s : Nat) : Work :=
  let e := w.entry s
  let x := w.seq s
  let w := w.dropPark s
  if x.replay.isSome then
    let w := w.modEntry s fun e => { e with st := .queued, fl := { e.fl with displaced := false } }
    let w := (w.modSeq s fun x => { x with assigned := none }).leavePool s
    w.replayPrompt s
  else if e.st.live then w.faultF1 s 4 0x05 else w

/-- A copy to the park tier, or a handover, still reads the pages of a pool. -/
def copyingFrom (w : Work) (p : Nat) : Bool :=
  (w.fs.seqs.any fun (_, x) =>
    (match x.park with | some r => r.pool = p && decide (r.copy ≠ .done) | none => false) ||
    (match x.moveFrom with | some (a, _, _) => a = p && !x.moved | none => false)) ||
    w.fs.copies.any fun (c, k) => !k.done && w.fs.segs.any fun (_, s) => s.copy = some c && s.pool = p

/-- Once no plan includes the engines that leave, a pool left without one of its shards parks its sequences (R206,
R857, R859). -/
def leaveShards (w : Work) (p : Nat) : Work :=
  match w.pool? p with
  | some q =>
    if q.plans.isEmpty && !q.degraded && ((w.poolEngines p).any fun (_, g) => g.leaving) && w.degradedNow p q then
      (w.modPool p fun q => { q with degraded := true }).degradePool p
    else w
  | none => w

/-- The idle segments on a pool's pages go, residencies of a destroyed pool among them (R274). -/
def dropIdle (w : Work) (p : Nat) : Work :=
  w.each (w.fs.segs.filter fun (g, s) => s.pool = p && w.segIdle g) fun w (g, s) =>
    let w := w.releaseSeg g
    match s.copy with | some c => w.sweepCopy c | none => w

/-- A pool is destroyed with its last engine. Residencies that sequences still refer to keep its PAGES charged to the budget,
under a number that no pool has (R274). Steps whose energy is still awaited are closed: no engine of the pool is left to
report (R641). -/
def destroyPool (w : Work) (p : Nat) (q : Pool) : Work :=
  let w := q.closing.foldl (fun w x => w.closeEnergy p x) ((w.phase1 p).dropIdle p)
  let rest := w.fs.segs.any fun (_, s) => s.pool = p
  let ghost := 64 + match (List.range (w.fs.ghosts.length + 1)).find? fun k => !w.fs.ghosts.has (64 + k) with | some k => k | none => 0
  w.modFs fun f => { f with
    segs := f.segs.mapV fun _ s => if s.pool = p then { s with pool := ghost } else s
    seqs := f.seqs.mapV fun _ x => { x with
      own := if x.ownPool = p then [] else x.own
      assigned := if x.assigned = some p then none else x.assigned
      left := x.left.filter fun y => y.1 ≠ p
      moveFrom := match x.moveFrom with | some (a, l) => if a = p then none else some (a, l) | none => none }
    ghosts := if rest then f.ghosts.set ghost q.pages else f.ghosts
    pools := f.pools.erase p, units := { f.units with pools := f.units.pools.erase p } }

/-- Finish a detachment: engines that leave go once no step includes them and no copy reads from them, and the pool goes
with the last one (R206, R274). -/
def sweepPool (w : Work) (p : Nat) : Work :=
  let w := w.leaveShards p
  match w.pool? p with
  | none => w
  | some q =>
    let busy (e : Nat) : Bool := q.plans.any fun pl => pl.engines.contains e
    let gone := (w.poolEngines p).filter fun (e, g) => g.leaving && !busy e && !w.copyingFrom p
    let w := w.modFs fun f => { f with engines := f.engines.filterV fun e _ => !(gone.any fun y => y.1 = e) }
    if !(w.poolEngines p).isEmpty || !q.plans.isEmpty then w else w.destroyPool p q

/-- The residencies of a destroyed pool go as sequences let go of them, and its PAGES return to the budget with the last
(R274). -/
def sweepGhost (w : Work) (n : Nat) : Work :=
  let w := w.dropIdle n
  if w.fs.segs.any fun (_, s) => s.pool = n then w else w.modFs fun f => { f with ghosts := f.ghosts.erase n }

/-- What a command leaves of detachments to finish: pools that engines are leaving, and destroyed pools (R206, R274). -/
def sweepEmpty (w : Work) : Work :=
  let w := w.each (w.poolNums.filter fun p => (w.poolEngines p).all (·.2.leaving) || (w.poolEngines p).any (·.2.leaving))
    fun w p => w.sweepPool p
  w.each w.fs.ghosts fun w (n, _) => w.sweepGhost n

/-! The freeze of an engine (R141, R142, R855, R856). -/

/-- The executing step and a held one fail, unless the commit decision has been taken (R141, R380, R856). -/
def markFailed (w : Work) (p cause : Nat) : Work :=
  w.modPool p fun q =>
    let mark (st : Step) : Step := if st.decided || st.failed.isSome then st else { st with failed := some cause }
    { q with exec := q.exec.map mark, held := q.held.map mark }

/-- A route return's header store needs no acknowledgement of the engines that `p` picks any more; with none left the
set's slot is released, and its tokens stay known until the step ends (R398, R417). -/
def setsAcked (l : List RouteSet) (p : RouteSet → Nat → Bool) : List RouteSet :=
  l.map fun x => match x.answering with
    | some es =>
      let es := es.filter fun e => !p x e
      { x with answering := some es, closed := x.closed || es.isEmpty }
    | none => x

/-- Freeze an engine: `cause` is the fault's (R852), `stepCause` the STEP_FAILED event's (R817). -/
def freezeEngine (w : Work) (e cause vclass stepCause : Nat) : Work :=
  match w.engine? e with
  | none => w
  | some g =>
    if g.frozen then w
    else
      let p := g.pool
      let w := (w.modEngine e fun g => { g with frozen := true, atomic := none, stores := [] }).event 4 0x0020 true (e + vclass * 65536) p
      let w := w.modFs fun f => { f with units := { f.units with pools := f.units.pools.mod p fun u => { u with
        sets := setsAcked u.sets fun _ k => k = e } } }
      match w.pool? p with
      | none => w.fault 3 4 cause e vclass p
      | some q =>
        let deg := w.degradedNow p q
        let w := w.modPool p fun q => { q with degraded := deg }
        let w := (w.fault 3 4 cause e vclass p 0 deg).markFailed p stepCause
        if deg && q.exec.isNone && q.held.isNone then w.degradePool p else w

/-- One malformed record toward ENG_DISCARD_LIMIT (R139, R140). -/
def malformed (w : Work) (e : Nat) : Work :=
  match w.engine? e with
  | none => w
  | some g =>
    let w := w.modEngine e fun g => { g with bad := g.bad + 1 }
    if g.desc.discardLimit < g.bad + 1 then w.freezeEngine e 0x03 0x42 4 else w

/-- A step's malformed records are counted no more once it has ended (R139). -/
def clearBad (w : Work) (engines : List Nat) : Work := w.each engines fun w e => w.modEngine e fun g => { g with bad := 0 }
/-- The counts of the executing step and the held one change places (R139, R376). -/
def swapBad (w : Work) (engines : List Nat) : Work :=
  w.each engines fun w e => w.modEngine e fun g => { g with bad := g.badHeld, badHeld := g.bad }

/-! Commit (R36, R233, R306, R325, R600). -/

/-- An entry calls for an append of its sequence. -/
def callsAppend (w : Work) (pe : PlanEntry) : Bool :=
  let e := w.entry pe.slot
  e.st.live && seqHandle pe.slot e = pe.seq &&
    (match pe.etype with
      | .decode | .final | .embed => true
      | .score => 0 < scoredIn e pe.pos pe.npos || e.promptLen ≤ pe.pos + pe.npos
      | .prefill | .forkTail => false)

/-- Slots whose append group the step still waits for (R36). -/
def appendsDue (w : Work) (p : Nat) (st : Step) : List Nat :=
  let own := (st.plan.entries.filter fun pe => w.callsAppend pe && !st.appended.contains pe.slot).map (·.slot)
  let forks := (st.plan.entries.filter (·.etype = .final)).map fun pe =>
    (w.drawsWith p pe.slot).filter fun t => !st.appended.contains t
  own ++ forks.flatten

/-- A slice at the end of a list of slices, one with the last where it goes on from it. -/
def addSlice (l : List SegSlice) (y : SegSlice) : List SegSlice :=
  match l.getLast? with
  | some z => if z.seg = y.seg ∧ z.start + z.len = y.start then l.dropLast ++ [{ z with len := z.len + y.len }] else l ++ [y]
  | none => [y]

/-- Put pages of pool `p` at the end of the fork segment of the sequence's request, a new one where it has none (R253, R280):
the slice that they are. -/
def intoFork (w : Work) (p s : Nat) (pages : List Nat) : SegSlice × Work :=
  match w.forkOf p s with
  | some (g, y) => ({ seg := g, start := y.pages.length, len := pages.length }, w.modFs fun f => { f with
      segs := f.segs.mod g fun t => { t with pages := t.pages ++ pages } })
  | none =>
    let g := w.fs.nextSeg
    ({ seg := g, start := 0, len := pages.length }, w.modFs fun f => { f with
      nextSeg := g + 1, segs := f.segs.set g { pool := p, copy := none, pages := pages, lastRef := w.now } })

/-- The chunk of FORK 0 up to position `b` is committed: the whole pages that it has filled join the fork segment, and the
forks that follow it have them and their positions (R233, R253, R294). The segment takes them also where no other fork is
left to follow, but not the pages of a sequence with a prompt of its own (`alone`). -/
def shareCommitted (w : Work) (p s b : Nat) (alone : Bool) : Work :=
  let forks := w.slotsWhere fun t _ => (w.seq t).follows = some s
  let e := w.entry s
  let x := w.seq s
  let pp := w.pagePos e.model
  let whole := Nat.min b e.promptLen / pp
  let old := sumOf (x.shared.map (·.len))
  if forks.isEmpty && (alone || e.n ≤ 1) then w
  else
    let n := whole - old
    let (new, w) := if n = 0 then ([], w) else
      let (y, w) := w.intoFork p s (x.own.take n)
      ([y], w)
    let mine := new.foldl addSlice x.shared
    let take (w : Work) (t : Nat) : Work :=
      let l := (w.seq t).shared
      let l := if sumOf (l.map (·.len)) = old then new.foldl addSlice l else mine
      l.foldl (fun w y => w.refSeg t y.seg) (w.modSeq t fun y => { y with shared := l })
    let w := take (w.modSeq s fun y => { y with own := y.own.drop n }) s
    let last := e.promptLen ≤ b && !e.fl.awaitAppend
    w.each forks fun w t =>
      (take w t).modEntry t (fun y => { y with length := Nat.max y.length (whole * pp) }) |>.modSeq t fun y => { y with
        kv := Nat.max y.kv (whole * pp), follows := if last then none else y.follows }

/-- What the commit of a step does to one entry's sequence: the positions that now stand, and the restored record
(R233, R600). -/
def commitEntry (w : Work) (p : Nat) (pe : PlanEntry) : Work :=
  let s := pe.slot
  let e := w.entry s
  if seqHandle s e ≠ pe.seq || e.st = .free then w
  else
    let b := pe.pos + pe.npos
    let w := match pe.etype with
      | .decode => w.modSeq s fun x => { x with kv := e.length - 1 }
      | .final | .score => w.modSeq s fun x => { x with kv := Nat.min b e.length }
      | .embed => w.modSeq s fun x => { x with kv := b }
      | .prefill =>
        if e.st.live then
          let w := (w.modEntry s fun e => { e with length := Nat.max e.length b }).modSeq s fun x => { x with kv := b }
          w.count (cAcct e.ctx 9) pe.npos
        else w
      | .forkTail =>
        if e.st.live then
          let w := (w.modEntry s fun e => { e with length := Nat.max e.length b }).modSeq s fun x => { x with kv := b }
          w.count (cAcct e.ctx 9) pe.npos
        else w
    let alone := (w.seq s).park.isSome || (w.seq s).replayed
    let w := match (w.seq s).park with
      | some r => if decide (r.restore = RestoreState.done p) then w.dropPark s else w
      | none => w
    let w := w.modSeq s fun x => { x with moved := x.moved || (x.moveFrom.isSome && x.joined) }
    if pe.etype = .prefill || pe.etype = .final then w.shareCommitted p s b alone else w

/-- The append group of a slot that an end decision has beaten is discarded whole (R264, R524). -/
def discardGroup (w : Work) (p s draft : Nat) : Work :=
  if (w.seq s).group.isSome && !(w.entry s).st.live then
    ((w.modSeq s fun x => { x with group := none }).count cStuDiscarded).count (cDraftSpoiled p) draft
  else w

/-- The groups of an entry that end decisions have beaten: its sequence's, and with a final chunk those that forks of its
request drew from it, with or without an entry of their own (R36, R264). -/
def discardLeft (w : Work) (p : Nat) (pe : PlanEntry) : Work :=
  let e := w.entry pe.slot
  let w := if seqHandle pe.slot e = pe.seq then w.discardGroup p pe.slot pe.draft else w
  if pe.etype ≠ .final || e.n ≤ 1 then w
  else w.each (w.slotsWhere fun t y => t ≠ pe.slot && y.reqHandle = e.reqHandle && !y.st.live) fun w t => w.discardGroup p t 0

/-- Sequences that decode now on a prefill pool move to a decode or shared pool, all live forks of a request to the
same one, or park DISPLACED (R325, R349, R305). -/
def handOver (w : Work) (p : Nat) : Work :=
  match w.pool? p with
  | none => w
  | some q =>
    if q.typ ≠ 0 then w
    else
      let movers := w.slotsWhere fun s e => e.fl.bound && e.pool = p && e.st = .decoding && (w.seq s).joined && !(w.seq s).unbind
      let reqs := movers.foldl (fun l s => let r := (w.entry s).reqHandle; if l.contains r then l else l ++ [r]) ([] : List Nat)
      w.each reqs fun w r =>
        let mine := movers.filter fun s => (w.entry s).reqHandle = r
        match mine with
        | [] => w
        | s0 :: _ =>
          let e := w.entry s0
          let x := w.seq s0
          let copy := if x.hPos = 0 then none else x.handle
          let cands := w.poolNums.filter fun d => d ≠ p && w.eligible e.ctx e.model e.kind copy none true d &&
            (match w.pool? d with | some t => t.kvLayout = q.kvLayout | none => false)
          let pq : PredictQ := { slot := some s0, bound := some p, left := 0, start := e.length, ctx := e.ctx, s := w.pagePos e.model }
          match w.choosePool cands copy e.model e.variant pq with
          | some d => w.each mine fun w s =>
              let w := (w.writeBack s).modEntry s fun e => { e with pool := d }
              w.modSeq s fun x => { x with
                moveFrom := some (p, x.own, x.shared), moved := false, own := [], shared := [], ownPool := d
                joined := false, staged := none, assigned := none }
          | none => w.each mine fun w s => w.park s .handover

/-- A pool that a freeze has degraded while its step's commit was already decided parks its sequences once no step is open
(R142, R856, R859). -/
def degradeDue (w : Work) (p : Nat) : Work :=
  match w.pool? p with
  | some q => w.whenDo (q.degraded && q.exec.isNone && q.held.isNone) fun w => w.degradePool p
  | none => w

/-- What follows the end of a step on its pool: handovers, parks, re-routes, ended sequences, engines that leave. -/
def afterStep (w : Work) (p : Nat) : Work :=
  let w := ((w.parkDue p).degradeDue p).handOver p
  ((w.unbinds p true).drainDone).sweepPool p

/-- Empty the route, sketch and draft stores of a step of pool `p`; parts that waited for a set slot or a position slot are
stale (R397, R417, R432, R522). -/
def clearUnits (w : Work) (p : Nat) (interposed : Bool) : Work :=
  let stale (x : HeldPart) : Bool := x.part.interposed = interposed
  let (n, k) := match w.fs.units.pools.get? p with
    | some u => ((u.heldParts.filter stale).length, (u.heldSketches.filter fun x => x.part.interposed = interposed).length)
    | none => (0, 0)
  ((w.modFs fun f => { f with units := { f.units with pools := f.units.pools.mod p fun u => { u with
    sets := u.sets.filter fun x => x.interposed ≠ interposed || x.answering.isSome && !x.closed
    heldParts := u.heldParts.filter fun x => !stale x
    sketches := u.sketches.filter fun x => x.interposed ≠ interposed
    heldSketches := u.heldSketches.filter fun x => x.part.interposed ≠ interposed
    samples := u.samples.filter fun x => x.interposed ≠ interposed
    drafts := if interposed then u.drafts else [] } } }).count (cRouteStale p) n).count (cSketchStale p) k

/-- Until when the plans of steps that have ended pace the next delivery: their paced periods from their deliveries, the
latest of them, whether they committed or failed (R649). An interposed plan is a plan of its own here, and it is delivered
within step k as R373 says (DEDUCED, log entry 143). -/
def paceAfter (w : Work) (old : Option Nat) (l : List Step) : Option Nat :=
  l.foldl (fun a st => match st.deliveredAt with
    | some t =>
      if st.plan.envMode = 2 then
        let over_ := t + ceilDiv (st.plan.period * w.khz) 10000
        some (match a with | some b => Nat.max b over_ | none => over_)
      else a
    | none => a) old

/-- STEP_COMMIT (R36): every completion is in and every sampled token is appended or discarded. -/
def stepCommit (w : Work) (p : Nat) : Work :=
  match w.pool? p with
  | none => w
  | some q =>
    match q.exec with
    | none => w
    | some st =>
      if st.failed.isSome || st.deliveredAt.isNone || !st.allDone || !(w.appendsDue p st).isEmpty then w
      else
        let pl := st.plan
        let w := pl.entries.foldl (fun w pe => (w.discardLeft p pe).commitEntry p pe) w
        let shares := w.sharesOf pl
        let w := (w.chargeShares shares (w.engineTime st) 0 1).chargeShares shares st.bytes 5 6
        let w := st.ownBytes.foldl (fun w (s, n) => w.count (cAcct (w.entry s).ctx (if (w.entry s).fl.lc then 5 else 6)) n) w
        let w := (w.endEnergy p st false).collectOps p pl.step pl.interposed
        let w := w.clearUnits p pl.interposed
        match q.held with
        | some h =>
          -- the interposed step has committed: step k resumes (R373, event 7)
          let w := w.modPool p fun q => { q with
            exec := some h, held := none, yield := .resuming h.plan.engines, paceUntil := w.paceAfter q.paceUntil [st] }
          ((w.clearBad pl.engines).swapBad h.plan.engines |>.mailbox h.plan.engines h.plan.step 2).afterStep p
        | none =>
          let w := w.modPool p fun q => { q with
            exec := none, yield := .none, committedAt := w.now, paceUntil := w.paceAfter q.paceUntil [st], composedEmpty := false
            trimDue := q.trimDue || q.next.isSome || q.composedEmpty }
          let w := (w.clearBad pl.engines).afterStep p
          if q.interp.isSome then w.planDeliver p else w

/-! Failure (R369, R380, R529, R637, R859). -/

/-- One failed step: its engine time and energy, its units' stores and event, and the tokens drawn in it, by forks without an
entry of their own too (R469, R529, R637, R817). -/
def dropStep (w : Work) (p : Nat) (st : Step) : Work :=
  let w := w.event 4 0x0021 true st.plan.step (p + (st.failed.getD 4) * 256)
  let w := ((w.count (cUncharged p) (w.engineTime st)).endEnergy p st true).collectOps p st.plan.step st.plan.interposed
  let w := w.clearUnits p st.plan.interposed
  st.plan.entries.foldl (fun w pe =>
    let drawn := if pe.etype = .final then
        w.slotsWhere fun t y => y.reqHandle = (w.entry pe.slot).reqHandle && y.fl.bound && y.pool = p && (w.seq t).group.isSome
      else []
    w.each (pe.slot :: drawn) fun w s => w.modSeq s fun x => { x with group := none }) w

/-- STEP_FAIL: the failed step is torn down (R369). -/
def stepFail (w : Work) (p : Nat) : Work :=
  match w.pool? p with
  | none => w
  | some q =>
    let open_ := q.exec.toList ++ q.held.toList
    if !(open_.any fun st => st.failed.isSome) then w
    else
      let undelivered := match q.exec with | some st => st.deliveredAt.isNone | none => false
      let w := open_.foldl (fun w st => w.dropStep p st) w
      let w := match q.next with | some pl => w.discardPlan p pl | none => w
      let w := match q.interp with | some pl => w.discardPlan p pl | none => w
      let w := w.modPool p fun q => { q with
        exec := none, held := none, next := none, interp := none, yield := .none, trimDue := false, committedAt := w.now
        composedEmpty := false
        -- a plan whose header was not acknowledged everywhere was not delivered, so its outcomes go out again (R341, R681)
        paceUntil := w.paceAfter q.paceUntil open_, outcomes := (if undelivered then q.sentOutcomes else []) ++ q.outcomes }
      -- trim to the committed lengths; the pages go back with the recomposed plan's delivery
      let back := match w.pool? p with | some q => q.returned.length | none => 0
      let (w, n) := w.trimPool p none
      let w := (w.count (cTrimmed p) n).modPool p fun q => { q with
        returned := q.returned.take back, lateReturn := q.lateReturn ++ q.returned.drop back }
      let w := w.each ((open_.map fun st => st.plan.engines).flatten) fun w e => w.modEngine e fun g => { g with
        bad := 0, badHeld := 0 }
      let w := if q.degraded then w.degradePool p else w
      ((w.unbinds p false).drainDone).sweepPool p

/-! Completions and yields (R371 to R379, R675 to R679). -/

/-- A yield fails: the engines are told to resume, all but those that have completed the step, as the worked example has it, so
that one whose YIELDED is still on its way goes on too (R377; DEDUCED, log entry 142). -/
def yieldFail (w : Work) (p : Nat) (timeout : Bool) : Work :=
  match w.pool? p with
  | none => w
  | some q =>
    match q.exec with
    | none => w
    | some st =>
      let w := (w.count (if timeout then cYieldTimeout p else cYieldLost p)).event 4 0x0022 false st.plan.step
        (p + b01 timeout * 256)
      let w := w.mailbox (st.plan.engines.filter fun e => !st.done.contains e) st.plan.step 2
      w.modPool p fun q => { q with
        yield := .failed
        exec := q.exec.map fun st => { st with
          acked := st.yielded.foldl (fun (t : Tbl Nat) e => t.set e w.now) st.acked, yielded := [] } }

/-- A yield is in progress on the pool. -/
def yieldPending (q : Pool) : Bool :=
  match q.yield with | .asked _ | .timing _ => true | _ => false

/-- Every engine has yielded: step k is held and the interposed plan is delivered (R373, event 5). Malformed records count
within each of the two steps on its own (R139). -/
def holdStep (w : Work) (p : Nat) : Work :=
  match w.pool? p with
  | none => w
  | some q =>
    match q.exec, q.interp with
    | some st, some pl =>
      let w := w.modPool p fun q => { q with
        exec := none, held := some { st with heldAt := some w.now }, yield := .held }
      let w := (w.swapBad st.plan.engines).deliver p pl
      (match w.pool? p with
        | some { exec := none, .. } =>
          let w := w.modPool p fun q => { q with exec := q.held, held := none, yield := .resuming st.plan.engines }
          (w.swapBad st.plan.engines).mailbox st.plan.engines st.plan.step 2
        | _ => w)
    | _, _ => w

/-- The completion timer that an engine's record is guarded by, where it runs: its start and its duration (R376, R679). -/
def completionTimer (w : Work) (e : Nat) : Option (Nat × Nat) :=
  (w.engine? e).bind fun g => match w.pool? g.pool with
    | some { exec := some st, .. } =>
      if st.plan.engines.contains e ∧ !st.done.contains e ∧ !st.yielded.contains e ∧ st.heldAt.isNone then
        (st.acked.get? e).map fun t => (t, g.desc.completionTimeout)
      else none
    | _ => none

/-- The YIELD timer of a pool, where it runs (R373). -/
def yieldTimer (w : Work) (p : Nat) : Option (Nat × Nat) :=
  match w.pool? p with
  | some { yield := .timing t, exec := some st, .. } =>
    some (t, maxOf (st.plan.engines.map fun e => match w.engine? e with | some g => g.desc.tileTime | none => 0))
  | _ => none

/-- A timer that runs has fired before now (R88). -/
def overdue (w : Work) (timer : Option (Nat × Nat)) : Bool :=
  match timer with
  | some (t, d) => w.lapsed t d
  | none => false

/-- The timers of a record that have fired before it arrives act first (R88, R89). -/
def expireFirst (w : Work) (e : Nat) : Work :=
  if w.overdue (w.completionTimer e) then w.freezeEngine e 0x01 0 1
  else match w.engine? e with
    | some g => if w.overdue (w.yieldTimer g.pool) then w.yieldFail g.pool true else w
    | none => w

/-- A completion record of the executing or the held step that its ring has accepted (R678): the flag says that it is
malformed. One that comes after its
timer has fired finds the timeout's action taken, and is counted as an access of a frozen engine (R88, R89, R142). -/
def takeCompletion (w : Work) (e : Nat) (r : Completion) : Work × Bool :=
  let w := w.expireFirst e
  match w.engine? e with
  | none => (w, false)
  | some g =>
    let p := g.pool
    if g.frozen then (w.count (cIgnoredWrites e), false)
    else match w.pool? p with
    | none => (w, false)
    | some q =>
      let bad (w : Work) : Work × Bool := (w.count cComplBad, true)
      let named (o : Option Step) : Bool := match o with
        | some st => st.plan.step = r.step ∧ st.plan.interposed = r.interposed ∧ st.failed.isNone
        | none => false
      let set (w : Work) (g : Step → Step) : Work :=
        w.modPool p fun q => if named q.exec then { q with exec := q.exec.map g } else { q with held := q.held.map g }
      -- a record of a step that has ended is stale, whatever else it says
      if r.epoch < q.epoch then (w.count cComplStale, false)
      else match (if named q.exec then q.exec else if named q.held then q.held else none) with
      | none => if q.stepNo < r.step then bad w else (w.count cComplStale, false)
      | some st =>
        if r.ckind = 3 || r.pool ≠ p || r.engine ≠ e || !st.plan.engines.contains e then bad w
        else if r.ckind = 2 then (w.freezeEngine e 0x02 0 2, false)
        else if r.ckind = 1 then
          if !yieldPending q || !named q.exec || r.interposed || st.done.contains e || st.yielded.contains e then bad w
          else
            let yielded := st.yielded ++ [e]
            let w := set w fun st => { st with yielded := yielded }
            (if st.plan.engines.all fun x => yielded.contains x then w.holdStep p else w, false)
        else if st.done.contains e then (w.count cComplDup, false)
        else
          let w := set w fun st => { st with done := st.done ++ [e] }
          (if yieldPending q && named q.exec && !r.interposed then w.yieldFail p false else w, false)

/-- COMPLETION_TIMEOUT: an engine's completion timer expires (R41, R679). -/
def completionTimeout (w : Work) (e : Nat) : Work :=
  match w.completionTimer e with
  | some (t, d) => if w.fired t d then w.freezeEngine e 0x01 0 1 else w
  | none => w

/-- MAILBOX_ACKED: an engine has acknowledged a mailbox store (R373, R376). -/
def mailboxAcked (w : Work) (p e : Nat) : Work :=
  match w.pool? p with
  | none => w
  | some q =>
    match q.yield with
    | .asked l =>
      let l := l.filter (· ≠ e)
      w.modPool p fun q => { q with yield := if l.isEmpty then .timing w.now else .asked l }
    | .resuming l =>
      let l := l.filter (· ≠ e)
      w.modPool p fun q =>
        if l.isEmpty then { q with
          yield := .none
          exec := q.exec.map fun st => { st with
            heldFor := st.heldFor + (match st.heldAt with | some h => w.now - h | none => 0), heldAt := none, yielded := []
            acked := st.plan.engines.foldl (fun (t : Tbl Nat) x => t.set x w.now) st.acked } }
        else { q with yield := .resuming l }
    | _ => w

/-- YIELD_TIMEOUT: the YIELD timer fires (R373, R377). -/
def yieldTimeout (w : Work) (p : Nat) : Work :=
  match w.yieldTimer p with
  | some (t, d) => if w.fired t d then w.yieldFail p true else w
  | none => w

end Work

end Sys2Proof.Machine
end

