-- ==== Sys2Proof/Machine/Control.lean ====
section
/-! DEFINITION. CANCEL, PAUSE, RESUME, CREDIT, QUERY and PING (R174 to R182, R187, R191, R258 to R265, R537 to R546,
R596, R616). -/

namespace Sys2Proof.Machine

/-- The first `n` positions of a list of prompt items. -/
def takeItems (n : Nat) (l : List PItem) : List PItem :=
  match l with
  | [] => []
  | i :: r =>
    if n = 0 then []
    else if i.positions ≤ n then i :: takeItems (n - i.positions) r
    else match i with
      | .emb a _ f p => [.emb a n f p]
      | .tok _ => []

namespace Work

/-- The slots that a packet acts on: the named one, or with SCOPE 1 every sequence of its request, in slot order
(R175). -/
def scopeSlots (w : Work) (p : Packet) (s : Nat) : List Nat :=
  if p.opf 192 192 = 1 then w.requestSlots s else [s]

/-! CANCEL. -/

/-- The effect of CANCEL on the sequences it acts on (R176, R177, R263 to R265). -/
def cancelAll (w : Work) (l : List Nat) : Work × Ans :=
  let (w, won, late) := l.foldl (fun (acc : Work × Nat × Nat) s =>
    let (w, won, late) := acc
    if (w.entry s).st.live then (w.endSeq s 2 0, won + 1, late) else (w, won, late + 1)) (w, 0, 0)
  (w, { status := if 0 < won then stOk else stTooLate, result := pack [(0, 16, won), (16, 16, late)] })

/-- Acting on CANCEL. -/
def actCancel (w : Work) (i : QItem) : Work × Act :=
  w.onHandle i.pkt opCancel (handleOf i.pkt) fun s =>
    let (w, a) := w.cancelAll (w.scopeSlots i.pkt s)
    (w, .answer a)

/-! PAUSE. -/

/-- The refusal that PAUSE has for a sequence, if any (R178). -/
def pauseRefusal (w : Work) (s : Nat) : Option Ans :=
  let e := w.entry s
  if !e.st.live then some (Ans.refuse stNotLive)
  else if e.st = .prefilling ∨ e.st = .decoding then none
  else some (Ans.bad .notRunning)

/-- The effect of PAUSE with a clamped TTL (R178, R258, R610). -/
def pauseAll (w : Work) (s ttl : Nat) (l : List Nat) : Work × Ans :=
  let ok := l.filter fun t => (w.pauseRefusal t).isNone
  let w := w.each ok fun w t =>
    (w.modEntry t fun e => { e with fl := { e.fl with pausePending := true } }).modSeq t fun x => { x with pauseTtl := ttl }
  if ok.isEmpty then (w, (w.pauseRefusal s).getD {}) else (w, { result := ok.length })

/-- Acting on PAUSE. -/
def actPause (w : Work) (i : QItem) : Work × Act :=
  w.onHandle i.pkt opPause (handleOf i.pkt) fun s =>
    let c := i.pkt.ctx.toNat
    let (ttl, k) := clampTtl (w.fctx c).tenant (i.pkt.opf 231 200)
    let (w, a) := (w.count (cClamp c) k).pauseAll s ttl (w.scopeSlots i.pkt s)
    (w, .answer a)

/-! RESUME. -/

/-- What a RESUME asks of each sequence: its tokens after filtering, the remaining budget, MAX_TOKENS and MORE. -/
structure ResumeReq where
  tokens : List PItem
  rem : Nat
  maxTokens : Nat
  more : Bool
deriving DecidableEq, Repr

/-- The state test of RESUME (R181, R261). -/
def resumeState (w : Work) (s : Nat) : Option Ans :=
  let e := w.entry s
  if !e.st.live then some (Ans.refuse stNotLive)
  else if e.st ≠ .parked ∨ e.fl.displaced then some (Ans.bad .notParked)
  else none

/-- The sequence still holds the pages of its park copy on a pool that serves (R616). -/
def reclaimable (w : Work) (s : Nat) : Bool :=
  match (w.seq s).park with
  | some r => r.held && (match w.pool? r.pool with | some q => !q.degraded | none => false)
  | none => false

/-- The pool that a resumed sequence is assigned to, and the prediction (R180, R260). -/
def resumePool (w : Work) (s : Nat) (r : ResumeReq) : Except Ans Nat :=
  let e := w.entry s
  let x := w.seq s
  let total := e.length + itemsPositions r.tokens
  if !w.shareOk e.ctx 0 e.fl.lc (w.prefillTypes (embedPoolOf x.items)) then .error (Ans.refuse stNoShare)
  else
    let cands := w.poolNums.filter fun p =>
      w.eligible e.ctx e.model e.kind none (embedPoolOf x.items) false p && w.pagesOk p total 0 (w.pagePos e.model) 1 &&
        (match x.park, w.pool? p with | some k, some q => k.layout = q.kvLayout | _, _ => true)
    let q : PredictQ := { slot := some s, bound := none, left := total - x.kv, start := x.kv, ctx := e.ctx
                          s := w.pagePos e.model }
    match w.choosePool cands none e.model e.variant q with
    | none => .error (Ans.refuse stNoPages)
    | some p => if e.fl.lc ∧ r.rem < w.predict q p then .error (Ans.refuse stInfeasible) else .ok p

/-- A RESUME is admitted for a sequence (R262, R616). One that was parked while its SUBMIT's APPENDs were awaited goes on
awaiting them (R171). -/
def resumeOne (w : Work) (s p : Nat) (r : ResumeReq) : Work :=
  let e := w.entry s
  let back := w.reclaimable s
  let total := e.length + itemsPositions r.tokens
  let w := w.modEntry s fun e => { e with
    st := .queued, promptLen := total, deadline := w.now + w.edges r.rem
    maxTokens := if e.kind = .generate then r.maxTokens else e.maxTokens
    fl := { e.fl with awaitAppend := e.fl.awaitAppend || r.more } }
  let w := w.modSeq s fun x => { x with
    items := takeItems (e.length - x.hPos) (x.items ++ x.tokens.map .tok) ++ r.tokens
    tokens := [], resuming := x.resuming || r.more, skipGap := true, assigned := some p, joined := false
    deadlineFrom := w.now }
  let w := (w.growReplay s e.length total).countPrompt s (tokPositions r.tokens)
  if back then
    let w := (w.dropPark s).modSeq s fun x => { x with assigned := some x.ownPool }
    w.count cReclaim
  else (w.abandonMigration s).modPark s fun k => { k with resumed := true }

/-- Acting on RESUME (R174, R175, R180, R181, R259 to R262). MAX_TOKENS is clamped and counted once for all the sequences that
SCOPE names (DESIGN CHOICE, log entry 131). -/
def actResume (w : Work) (i : QItem) : Work × Act :=
  let p := i.pkt
  w.onHandle p opResume (handleOf p) fun s =>
    let c := p.ctx.toNat
    -- the sequence whose length and kind the clamps take: the named one, or the first live one where that has ended
    let e := w.entry (if (w.entry s).st.live then s else ((w.scopeSlots p s).find? fun t => (w.entry t).st.live).getD s)
    let (tokens, w) := if e.st = .free then ([], w) else w.filterTokens c e.model (promptItems 0 (p.opf 215 200) p.body)
    let total := e.length + itemsPositions tokens
    let raw := p.opf 247 216
    let left := w.budgetLeft i raw
    let (rem, k1) := if raw = 0 then clampBudget (w.fctx c).tenant 0
      else if left = 0 then (0, 0) else clampBudget (w.fctx c).tenant left
    let mt := p.opf 268 248
    let mt' := if e.kind = .generate then clampTo 1 (Nat.max 1 (1048576 - total)) mt else mt
    let w := w.count (cClamp c) (k1 + b01 (mt ≠ mt'))
    let r : ResumeReq := { tokens := tokens, rem := rem, maxTokens := mt', more := p.opf 193 193 = 1 }
    let one (w : Work) (t : Nat) : Except Ans Work :=
      match w.resumeState t with
      | some a => .error a
      | none => match w.resumePool t r with
        | .error a => .error a
        | .ok q => .ok (w.resumeOne t q r)
    let (w, n) := (w.scopeSlots p s).foldl (fun (acc : Work × Nat) t =>
      match one acc.1 t with
      | .ok w => (w, acc.2 + 1)
      | .error _ => acc) (w, 0)
    if 0 < n then (w, .answer {})
    else match one w s with
      | .error a => (w, .answer a)
      | .ok _ => (w, .answer {})

/-! CREDIT. -/

/-- The effect of CREDIT on a sequence's ring credits (R182, R537 to R541, R544, R551). A stall timer that has run out before it
acts first (R88, R545). -/
def creditSeq (w : Work) (c s n : Nat) : Work × Ans :=
  let e := w.entry s
  let x := w.seq s
  if !e.st.live then (w, Ans.refuse stNotLive)
  else
    let room := e.par.ringDepth - 1 - x.credits
    let k := Nat.min n room
    let rec drop (m : Nat) (l : List RingRec) : List RingRec :=
      match l with
      | [] => []
      | r :: t => if m = 0 then r :: t else if r.kind = 1 then r :: drop m t else drop (m - 1) t
    let w := w.count (cClamp c) (b01 (n ≠ k))
    let w := match x.stallAt with | some t => w.whenDo (w.lapsed t (w.reg rRingCfg)) fun w => w.stallExpiry s | none => w
    let w := w.modSeq s fun x => { x with credits := x.credits + k, unreturned := drop k x.unreturned }
    (w.stallCheck s, {})

/-- Acting on CREDIT, which bypasses the submission queue. -/
def actCredit (w : Work) (i : QItem) : Work × Act :=
  w.onHandle i.pkt opCredit (handleOf i.pkt) fun s =>
    let (w, a) := w.creditSeq i.pkt.ctx.toNat s (i.pkt.opf 198 192)
    (w, .answer a)

/-! QUERY and PING. -/

/-- The RESULT of QUERY (R187). -/
def queryResult (w : Work) (s : Nat) : Nat :=
  let e := w.entry s
  pack [(0, 4, e.st.code), (4, 4, e.outcome), (8, 21, e.length), (32, 32, Nat.min (2 ^ 32 - 1) (w.remaining e))]

/-- Acting on QUERY. -/
def actQuery (w : Work) (i : QItem) : Work × Act :=
  w.onHandle i.pkt opQuery (handleOf i.pkt) fun s => (w, .answer { result := w.queryResult s })

/-- ACTIVE in PING's RESULT: ACTIVE in a pair, or unpaired (R191). -/
def activeBit (w : Work) : Bool :=
  match w.twinState with
  | .unpaired | .attachingA | .pairedA | .isolated => true
  | _ => false

/-- The RESULT of PING (R191). -/
def pingResult (w : Work) (i : QItem) : Nat :=
  pack [(0, 32, w.hnsDown (w.hsNow - i.noted)), (32, 1, b01 w.ready), (33, 1, b01 w.activeBit),
    (34, 1, b01 w.clk.fsDegraded), (35, 1, b01 (decide (w.fs.speed.idx < 0x0C00)))]

/-- Acting on PING. -/
def actPing (w : Work) (i : QItem) : Work × Act := (w, .answer { result := w.pingResult i })

end Work

end Sys2Proof.Machine
end

