-- ==== Sys2Proof/Machine/Masks.lean ====
section
/-! DEFINITION. The mask unit: images, what a state allows, advances (R476 to R494). -/

namespace Sys2Proof.Machine

/-! Images (R476 to R479). -/

/-- A state record (R477). -/
def maskStateRec (b : List Byte) : MaskStateRec :=
  let x := ofLe b
  { base := fld x 22 0, count := fld x 43 23, accept := bit x 44, dead := bit x 45 }

/-- A run entry (R478). -/
def maskRunRec (b : List Byte) : MaskRun :=
  let x := ofLe b
  { lo := fld x 19 0, hi := fld x 39 20, next := fld x 61 40 }

/-- The runs of one state, in order. -/
def stateRuns (runs : List MaskRun) (s : MaskStateRec) : List MaskRun := (runs.drop s.base).take s.count

/-- A state's runs ascend and lie inside the vocabulary. -/
def runsAscend (vocab : Nat) (prev : Option Nat) (l : List MaskRun) : Bool :=
  match l with
  | [] => true
  | r :: t =>
    r.lo ≤ r.hi && r.hi < vocab && (match prev with | some h => h < r.lo | none => true) && runsAscend vocab (some r.hi) t

/-- A mask image that passes R479, with its blocks of 64 KiB; none where it fails. -/
def parseMask (bs : List Byte) : Option MaskImage :=
  let h := ofLe (bs.take 64)
  let vocab := fld h 84 64
  let n := fld h 118 96
  let start := fld h 149 128
  let nr := fld h 191 160
  let kind := fld h 49 48
  let runOff := 64 + 8 * n
  if bs.length < 64 ∨ fld h 31 0 ≠ 0x314B4D4A ∨ fld h 47 32 ≠ 1 ∨ 2 ≤ kind then none
  else if vocab < 2 ∨ 1048576 < vocab ∨ n < 1 ∨ 4194304 < n then none
  else if fld h 287 256 ≠ 64 ∨ fld h 319 288 ≠ runOff ∨ fld h 351 320 ≠ runOff + 8 * nr ∨ bs.length ≠ runOff + 8 * nr then
    none
  else
    let states := (chunks 8 n (bs.drop 64)).map maskStateRec
    let runs := (chunks 8 nr (bs.drop runOff)).map maskRunRec
    let okState (s : MaskStateRec) : Bool :=
      s.base + s.count ≤ nr && runsAscend vocab none (stateRuns runs s) && s.dead == (!s.accept && s.count = 0)
    let startOk := match states[start]? with | some s => !s.dead | none => false
    let listOk := match states with
      | [s] => s.accept && (stateRuns runs s).all (·.next = 0)
      | _ => false
    if !startOk ∨ !states.all okState ∨ !(runs.all fun r => r.next < n) ∨ (kind = 1 ∧ !listOk) then none
    else some { vocab := vocab, vocabTag := fld h 255 192, start := start, states := states, runs := runs
                blocks := ceilDiv bs.length 65536, part := 0, grants := 0 }

namespace Work

/-! What a state allows (R480, R481). -/

/-- An end token of a sequence: the model's end-of-sequence token or a valid STOP entry (R169, R480). -/
def isEnd (w : Work) (e : RqtEntry) (t : Nat) : Bool :=
  (match w.image? e.model with | some i => i.eos = t | none => false) ||
    [e.par.stop0, e.par.stop1, e.par.stop2, e.par.stop3].any fun x => bit x 31 && fld x 19 0 = t

/-- Masks apply to the sequence (R162). -/
def masked (e : RqtEntry) : Bool := e.fl.stencilEn && e.kind = .generate

/-- The run of a mask state that holds a token. -/
def runOf (w : Work) (e : RqtEntry) (st t : Nat) : Option MaskRun :=
  match w.fs.masks.images.get? e.stencil with
  | some i => (match i.states[st]? with
    | some s => (stateRuns i.runs s).find? fun r => r.lo ≤ t && t ≤ r.hi
    | none => none)
  | none => none

/-- A token is allowed in a mask state (R480, R481). -/
def allowed (w : Work) (e : RqtEntry) (st t : Nat) : Bool :=
  if !masked e then true
  else if w.isEnd e t then (match w.maskRec e.stencil st with | some r => r.accept | none => false)
  else (w.runOf e st t).isSome

/-- The mask state after a token; an end token advances nothing (R480, R491). -/
def nextMask (w : Work) (e : RqtEntry) (st t : Nat) : Nat :=
  if !masked e || w.isEnd e t then st
  else match w.runOf e st t with | some r => r.next | none => st

/-- A mask state of the sequence is DEAD (R477, R492). -/
def deadState (w : Work) (e : RqtEntry) (st : Nat) : Bool :=
  masked e && match w.maskRec e.stencil st with | some r => r.dead | none => false

end Work

end Sys2Proof.Machine
end

