-- ==== Sys2Proof/Machine/Sampler.lean ====
section
/-! DEFINITION. The sampler's arithmetic: logit formats, penalties, weights, tail bounds, filters, draws and deep
fetches on one position (R420, R428 to R431, R439, R440, R446, R450 to R460, R463). -/

namespace Sys2Proof.Machine

/-! Logits. -/

/-- A logit as the sampler takes it: NaN becomes minus infinity, plus infinity the largest finite value; the flag says
that it was converted (R430). -/
def fixLogit (v : FVal) : Nat × Bool :=
  match v with
  | .nan => (f32NegInf, true)
  | .inf true => (f32NegInf, false)
  | .inf false => (f32Max, true)
  | .num r => (f32 r, false)

/-- A raw logit in a format of R429. -/
def logitOf (code v : Nat) : Nat × Bool :=
  match formatOf code with
  | some f => fixLogit (f.decode (v % 2 ^ f.bits))
  | none => (f32NegInf, true)

/-- Retained full logits of `n` tokens (R428): plain formats back to back, MXINT8 in blocks of 64 bytes. -/
def fullLogits (code n : Nat) (bs : List Byte) : List (Nat × Bool) :=
  if code = 5 then
    (List.range n).map fun i =>
      let blk := slice bs (i / 32 * 64) 64
      let scale := (blk.getD 32 0).toNat
      let e := (blk.getD (i % 32) 0).toInt
      if scale = 255 then fixLogit .nan else fixLogit (.num ((e : Rat) * pow2 ((scale : Int) - 133)))
  else
    let size := match formatOf code with | some f => f.bits / 8 | none => 1
    (List.range n).map fun i => logitOf code (ofLe (slice bs (i * size) size))

/-- Bytes that the retained logits of `n` tokens take. -/
def fullBytes (code n : Nat) : Nat :=
  if code = 5 then ceilDiv n 32 * 64 else n * (match formatOf code with | some f => f.bits / 8 | none => 1)

/-- The 64-byte line that holds token `i` of the shard (R464): its offset. -/
def lineOffset (code i : Nat) : Nat :=
  if code = 5 then i / 32 * 64 else i * (match formatOf code with | some f => f.bits / 8 | none => 1) / 64 * 64

/-- The logit of token `i` of the shard in its 64-byte line. -/
def lineLogit (code i : Nat) (bs : List Byte) : Nat × Bool :=
  if code = 5 then (fullLogits code (i % 32 + 1) bs).getD (i % 32) (f32NegInf, false)
  else
    let size := match formatOf code with | some f => f.bits / 8 | none => 1
    logitOf code (ofLe (slice bs (i * size % 64) size))

/-! Penalties (R446). -/

/-- A bfloat16 as a binary32. -/
def bfTo32 (v : Nat) : Nat := v * 2 ^ 16

/-- The count of a token in a table. -/
def countOf (l : List (Nat × Nat)) (t : Nat) : Nat := match l.find? fun x => x.1 = t with | some x => x.2 | none => 0

/-- The penalised value of a raw logit. -/
def penalised (par : Params) (c l : Nat) : Nat :=
  if c = 0 then l
  else
    let rep := bfTo32 par.repPen
    let a := if f32Lt 0 l then f32Div l rep else f32Mul l rep
    f32Sub (f32Sub a (bfTo32 par.presPen)) (f32Mul (bfTo32 par.freqPen) (f32 (c : Rat)))

/-! One position. -/

/-- What the sampler reads for one draw at one position. -/
structure SampleIn where
  parts : List SkPart
  vocab : Nat
  /-- Ws of R420. -/
  ws : Nat
  allowed : Nat → Bool
  counts : List (Nat × Nat)
  par : Params
  /-- q and pos of R454. -/
  seq : Nat
  pos : Nat
  full : Bool
  /-- The fetch of this position, once every load has arrived. -/
  fetched : Option DeepFetch

/-- What a draw comes to. -/
inductive Drawn where
  /-- The token, its raw logit and the deep-fetch cause. -/
  | tok (t raw deep : Nat)
  /-- A fetch of the given cause is needed; 0 in FULL mode. -/
  | need (cause : Nat)
  /-- No token has a finite value (R460). -/
  | nothing
deriving DecidableEq, Repr

/-- The lowest raw candidate logit m_s; plus infinity for a shard that is wholly tail, minus infinity for one with
neither candidates nor tail (R443). -/
def SkPart.lowest (p : SkPart) : Nat :=
  match p.cands with
  | [] => if p.lse = f32NegInf then f32NegInf else f32PosInf
  | c :: r => r.foldl (fun a x => if f32Lt x.logit a then x.logit else a) c.logit

/-- Tokens of a shard (R420). -/
def shardSize (vocab ws s : Nat) : Nat := Nat.min vocab ((s + 1) * ws) - s * ws

/-- Larger first; the lower token between equal ones. -/
def descending (a b : Nat × Nat × Nat) : Bool := f32Lt b.2.2 a.2.2 || (f32Key a.2.2 = f32Key b.2.2 && a.1 < b.1)

namespace SampleIn

/-- The value of a token after mask and penalties. -/
def value (c : SampleIn) (t raw : Nat) : Nat :=
  if c.allowed t then penalised c.par (countOf c.counts t) raw else f32NegInf

/-- The candidates: token, raw logit, value. -/
def cands (c : SampleIn) : List (Nat × Nat × Nat) :=
  (c.parts.map fun p => p.cands.map fun x => (x.token, x.logit, c.value x.token x.logit)).flatten

/-- The candidates of finite value in draw order. -/
def order (c : SampleIn) : List (Nat × Nat × Nat) := sortBy descending (c.cands.filter fun x => x.2.2 ≠ f32NegInf)

/-- The tail ceiling h (R443). -/
def ceiling (c : SampleIn) : Nat := c.parts.foldl (fun a p => f32Max2 a p.lowest) f32NegInf

/-- The temperature. -/
def tau (c : SampleIn) : Nat := bfTo32 c.par.temperature
/-- The temperature is 0, with either sign (R451). -/
def greedy (c : SampleIn) : Bool := c.par.temperature % 2 ^ 15 = 0

end SampleIn

/-- The common offset for values of which `hi` is the highest, at temperature `tau` (R450): the highest weight under it is
within a bounded factor of 1, so that no distribution is lost to underflow. -/
def commonOffset (tau hi : Nat) : Nat :=
  let d : Rat := ((Config.weightOffset (BitVec.ofNat 32 hi)).toInt : Rat) / 4096
  if hi = f32NegInf then 0 else f32Add hi (f32Mul tau (f32 d))

/-- 1.0 in binary32. -/
def f32One : Nat := 0x3F800000

/-- The weight of a value. -/
def weightOf (tau off v : Nat) : Nat := if v = f32NegInf then 0 else f32Exp (f32Div (f32Sub v off) tau)

/-- The sum of weights in binary32. -/
def sumW (l : List Nat) : Nat := l.foldl f32Add 0

/-- T_s under the common offset (R450). -/
def tailBound (vocab ws tau off : Nat) (p : SkPart) : Nat :=
  let one := f32One
  if p.lse = f32NegInf then 0
  else if tau = one then f32Exp (f32Sub p.lse off)
  else if f32Lt tau one then
    if p.cands.isEmpty then f32PosInf
    else
      let inv := f32Div one tau
      f32Exp (f32Sub (f32Add p.lse (f32Mul (f32Sub inv one) p.lowest)) (f32Div off tau))
  else
    let n := shardSize vocab ws p.shard - p.cands.length
    f32Mul (f32Exp (f32Mul (f32Sub one (f32Div one tau)) (f32Ln (f32 (n : Rat))))) (f32Exp (f32Div (f32Sub p.lse off) tau))

/-- The value whose weight is T_s (R450): where it is the highest, the common offset keeps T_s from underflow. -/
def tailValue (vocab ws tau : Nat) (p : SkPart) : Nat :=
  if p.lse = f32NegInf then f32NegInf
  else if f32Lt tau f32One then
    if p.cands.isEmpty then p.lse else f32Add (f32Mul tau p.lse) (f32Mul (f32Sub f32One tau) p.lowest)
  else f32Add p.lse (f32Mul (f32Sub tau f32One) (f32Ln (f32 ((shardSize vocab ws p.shard - p.cands.length : Nat) : Rat))))

/-- u of draw `d` (R454), binary32. -/
def drawU (seed seq pos d : Nat) : Nat :=
  let ct := aes128 (leBytes 8 seed ++ List.replicate 8 0)
    (leBytes 4 seq ++ leBytes 4 pos ++ leBytes 4 d ++ List.replicate 4 0)
  f32 ((ofLe (ct.take 3) : Nat) / ((2 ^ 24 : Nat) : Rat))

/-- R455: the first item whose running sum exceeds u times W; the last item with weight where rounding leaves none. -/
def pickItem {α : Type} (u : Nat) (items : List (α × Nat)) : Option α :=
  let total := sumW (items.map (·.2))
  let goal := f32Mul u total
  let r := items.foldl (fun (acc : Nat × Option α × Option α) x =>
    let run := f32Add acc.1 x.2
    (run, (match acc.2.1 with
      | some a => some a
      | none => if f32Lt goal run then some x.1 else none), if x.2 ≠ 0 then some x.1 else acc.2.2)) (0, none, none)
  if total = 0 then none else match r.2.1 with | some a => some a | none => r.2.2

/-- The shortest prefix whose weight is at least `p` of the weight of all (R452). -/
def prefixOf (p : Nat) (l : List ((Nat × Nat × Nat) × Nat)) : List ((Nat × Nat × Nat) × Nat) :=
  let goal := f32Mul p (sumW (l.map (·.2)))
  let rec go (run : Nat) (l : List ((Nat × Nat × Nat) × Nat)) : List ((Nat × Nat × Nat) × Nat) :=
    match l with
    | [] => []
    | x :: r =>
      let run := f32Add run x.2
      if f32Lt run goal then x :: go run r else [x]
  go 0 l

/-- The nucleus over the candidates above h while the tail is in (R453), or none where it is undecided. -/
def nucleus (p c tUp : Nat) (l : List ((Nat × Nat × Nat) × Nat)) : Option (List ((Nat × Nat × Nat) × Nat)) :=
  let all := f32Mul p (f32Add c tUp)
  let low := f32Mul p c
  let rec go (run : Nat) (acc l : List ((Nat × Nat × Nat) × Nat)) : Option (List ((Nat × Nat × Nat) × Nat)) :=
    match l with
    | [] => none
    | x :: r =>
      let next := f32Add run x.2
      if f32Lt next all then go next (acc ++ [x]) r
      else if f32Lt run low then some (acc ++ [x]) else none
  go 0 [] l

namespace SampleIn

/-- Top-p is on (R452). -/
def topPOn (c : SampleIn) : Bool := c.par.topP ≠ 0x3F80
/-- Min-p is on (R452); both zeros are off. -/
def minPOn (c : SampleIn) : Bool := c.par.minP % 2 ^ 15 ≠ 0

/-- The offset, C's weights and T_up of the sketch stage. -/
def sketchOffset (c : SampleIn) : Nat :=
  let vals := c.order.map (·.2.2) ++ c.parts.map (tailValue c.vocab c.ws c.tau)
  commonOffset c.tau (vals.foldl f32Max2 f32NegInf)

/-- T_up (R450). -/
def tUp (c : SampleIn) : Nat := sumW (c.parts.map (tailBound c.vocab c.ws c.tau c.sketchOffset))

/-- The candidates of finite value with their weights. -/
def weighted (c : SampleIn) : List ((Nat × Nat × Nat) × Nat) :=
  let off := c.sketchOffset
  c.order.map fun x => (x, weightOf c.tau off x.2.2)

/-- The filters on the sketch (R453): the survivors, and whether the tail is still in; none where undecided. -/
def filters (c : SampleIn) : Option (List ((Nat × Nat × Nat) × Nat) × Bool) :=
  let h := c.ceiling
  let all := c.weighted
  let cTot := sumW (all.map (·.2))
  let above (l : List ((Nat × Nat × Nat) × Nat)) := l.filter fun x => f32Lt h x.1.2.2
  let topK : Option (List ((Nat × Nat × Nat) × Nat) × Bool) :=
    if c.par.topK = 0 then some (all, true)
    else if (above all).length < c.par.topK then none else some ((above all).take c.par.topK, false)
  match topK with
  | none => none
  | some (l, tail) =>
    let topP : Option (List ((Nat × Nat × Nat) × Nat) × Bool) :=
      if !c.topPOn then some (l, tail)
      else if tail then (nucleus (bfTo32 c.par.topP) cTot c.tUp (above l)).map fun x => (x, false)
      else some (prefixOf (bfTo32 c.par.topP) l, false)
    match topP with
    | none => none
    | some (l, tail) =>
      if !c.minPOn then some (l, tail)
      else match l with
        | [] => none
        | x :: _ =>
          let lim := f32Add x.1.2.2 (f32Mul c.tau (f32Ln (bfTo32 c.par.minP)))
          if f32Lt h x.1.2.2 && f32Lt h lim then some (l.filter fun y => !f32Lt y.1.2.2 lim, false) else none

/-- The sketch stage of R443. -/
def fromSketch (c : SampleIn) : Drawn :=
  let tokOf (x : Nat × Nat × Nat) : Drawn := .tok x.1 x.2.1 0
  if c.greedy then
    match c.order with
    | x :: _ => if f32Lt c.ceiling x.2.2 then tokOf x else .need 4
    | [] => .need 4
  else if c.tUp = f32PosInf then .need 3
  else match c.filters with
    | none => .need 3
    | some (l, tail) =>
      if tail && l.isEmpty then .need 2
      else
        let items := l.map (fun x => (some x.1, x.2)) ++ (if tail then [(none, c.tUp)] else [])
        match pickItem (drawU c.par.seed c.seq c.pos 0) items with
        | some (some x) => tokOf x
        | some none => .need 1
        | none => .need 2

/-! After a fetch (R457 to R460, R467). -/

/-- The raw logit of a token in fetched data. -/
def fetchedRaw (c : SampleIn) (f : DeepFetch) (t : Nat) : Nat := (f.data.getD (t / c.ws) []).getD (t % c.ws) f32NegInf

/-- The tail tokens, ascending: token, raw, value. -/
def tailTokens (c : SampleIn) (f : DeepFetch) : List (Nat × Nat × Nat) :=
  (c.parts.map fun p =>
    let lo := p.shard * c.ws
    let mine := p.cands.map (·.token)
    ((List.range (shardSize c.vocab c.ws p.shard)).map (lo + ·)).filterMap fun t =>
      if mine.contains t then none
      else some (t, c.fetchedRaw f t, c.value t (c.fetchedRaw f t))).flatten

/-- Every token in FULL mode. -/
def allTokens (c : SampleIn) (f : DeepFetch) : List (Nat × Nat × Nat) :=
  (List.range c.vocab).map fun t => (t, c.fetchedRaw f t, c.value t (c.fetchedRaw f t))

/-- Draw 0 over the full vocabulary with the filters of R452; `lay` puts the survivors in draw order. -/
def exact (c : SampleIn) (deep : Nat) (l : List (Nat × Nat × Nat))
    (lay : List ((Nat × Nat × Nat) × Nat) → List ((Nat × Nat × Nat) × Nat)) : Drawn :=
  let ord := sortBy descending (l.filter fun x => x.2.2 ≠ f32NegInf)
  match ord with
  | [] => .nothing
  | top :: _ =>
    if c.greedy then .tok top.1 top.2.1 deep
    else
      let off := commonOffset c.tau top.2.2
      let ws := ord.map fun x => (x, weightOf c.tau off x.2.2)
      let ws := if c.par.topK = 0 then ws else ws.take c.par.topK
      let ws := if c.topPOn then prefixOf (bfTo32 c.par.topP) ws else ws
      let hi := match ws with | x :: _ => x.2 | [] => 0
      let ws := if c.minPOn then ws.filter fun y => !f32Lt y.2 (f32Mul (bfTo32 c.par.minP) hi) else ws
      match pickItem (drawU c.par.seed c.seq c.pos 0) (lay ws) with
      | some x => .tok x.1 x.2.1 deep
      | none => .tok top.1 top.2.1 deep

/-- T_true (R458). -/
def tTrue (c : SampleIn) (f : DeepFetch) : Nat :=
  sumW ((c.tailTokens f).map fun x => weightOf c.tau c.sketchOffset x.2.2)

/-- The residual draw (R458, R459). The weights w of R458 are taken under a common offset of their own; where every
candidate is masked the factor of the tail tokens is common to them all. -/
def residual (c : SampleIn) (f : DeepFetch) : Drawn :=
  let cTot := sumW (c.weighted.map (·.2))
  let tt := c.tTrue f
  let share := if f32Lt c.tUp tt then 0 else f32Sub c.tUp tt
  let factor := if f32Add cTot c.tUp = 0 then f32One else f32Add cTot c.tUp
  let items := (if share = 0 then [] else c.order.map fun x => (x, share)) ++
    ((c.tailTokens f).filter fun x => x.2.2 ≠ f32NegInf).map fun x => (x, factor)
  let off := commonOffset c.tau (items.foldl (fun a x => f32Max2 a x.1.2.2) f32NegInf)
  match pickItem (drawU c.par.seed c.seq c.pos 1) (items.map fun x => (x.1, f32Mul (weightOf c.tau off x.1.2.2) x.2)) with
  | some x => .tok x.1 x.2.1 f.cause
  | none => match sortBy descending (items.map (·.1)) with | x :: _ => .tok x.1 x.2.1 f.cause | [] => .nothing

/-- The fetched logits contradict the sketch (R459): a tail token's raw logit exceeds its shard's lowest candidate, or
T_true exceeds T_up. -/
def inconsistent (c : SampleIn) (f : DeepFetch) : Bool :=
  f.cause ≠ 0 && f.cause ≠ 5 &&
    ((c.parts.any fun p => (c.tailTokens f).any fun x => x.1 / c.ws = p.shard && f32Lt p.lowest x.2.1) ||
      (!c.greedy && f32Lt c.tUp (c.tTrue f)))

/-- The draw once the fetch is in. -/
def fromFetch (c : SampleIn) (f : DeepFetch) : Drawn :=
  if f.cause = 0 then c.exact 0 (c.allTokens f) id
  else
    let tail := c.tailTokens f
    let any := !c.order.isEmpty || tail.any fun x => x.2.2 ≠ f32NegInf
    if !any then .nothing
    else if f.cause = 4 then
      match sortBy descending ((c.order ++ tail).filter fun x => x.2.2 ≠ f32NegInf) with
      | x :: _ => .tok x.1 x.2.1 4
      | [] => .nothing
    else if f.cause = 3 then
      let isCand (t : Nat) : Bool := c.order.any fun x => x.1 = t
      c.exact 3 (c.order ++ tail) fun l =>
        (l.filter fun x => isCand x.1.1) ++ sortBy (fun a b => a.1.1 < b.1.1) (l.filter fun x => !isCand x.1.1)
    else c.residual f

/-- Sample the position (R443, R467). -/
def sample (c : SampleIn) : Drawn :=
  match c.fetched with
  | some f => c.fromFetch f
  | none => if c.full then .need 0 else c.fromSketch

/-- The model log-probability of a raw logit, bfloat16 (R463). -/
def logprob (c : SampleIn) (raw : Nat) : Nat :=
  let vals := match c.full, c.fetched with
    | true, some f => (List.range c.vocab).map (c.fetchedRaw f)
    | _, _ => (c.parts.map fun (p : SkPart) => p.lse :: p.cands.map fun (x : Cand) => x.logit).flatten
  let off := commonOffset f32One (vals.foldl f32Max2 f32NegInf)
  let s := sumW (vals.map fun v => if v = f32NegInf then 0 else f32Exp (f32Sub v off))
  bf16Of (f32Sub raw (f32Add off (f32Ln s)))

end SampleIn

/-! Parts (R436, R439, R440). -/

/-- K_eff (R439). -/
def kEff (k unitShare shards : Nat) : Nat := Nat.min k ((unitShare * 98304 / shards - 64) / 8)

/-- The candidates of a part in arrival order, entries outside the shard and repeated tokens dropped: candidates,
entries dropped, logits converted (R430, R436). -/
def takeCands (format lo hi : Nat) (l : List (Nat × Nat)) : List Cand × Nat × Nat :=
  l.foldl (fun (acc : List Cand × Nat × Nat) x =>
    let (cs, bad, conv) := acc
    if x.1 < lo ∨ hi ≤ x.1 then (cs, bad + 1, conv)
    else
      let (v, c) := logitOf format x.2
      let conv := conv + b01 c
      match cs.find? fun y => y.token = x.1 with
      | some y =>
        (if f32Lt y.logit v then cs.map fun z => if z.token = x.1 then { z with logit := v } else z else cs, bad + 1, conv)
      | none => (cs ++ [{ token := x.1, logit := v }], bad, conv)) ([], 0, 0)

/-- ln(exp a + exp b) (R440). -/
def logAdd (a b : Nat) : Nat :=
  let m := f32Max2 a b
  if m = f32NegInf then m else f32Add m (f32Ln (f32Add (f32Exp (f32Sub a m)) (f32Exp (f32Sub b m))))

/-- Keep the K_eff highest candidates and fold the others into the tail: candidates, TAIL_LSE, entries folded (R440). -/
def foldCands (k lse : Nat) (l : List Cand) : List Cand × Nat × Nat :=
  if l.length ≤ k then (l, lse, 0)
  else
    let s := sortBy (fun (a b : Cand) => f32Lt b.logit a.logit || (f32Key a.logit = f32Key b.logit && a.token < b.token)) l
    (s.take k, (s.drop k).foldl (fun a c => logAdd a c.logit) lse, l.length - k)

end Sys2Proof.Machine
end

