-- ==== Sys2Proof/Machine/Sketch.lean ====
section
/-! DEFINITION. Sketch parts, draft lists, the sampling of a step's positions, verification and deep fetches as the pool
holds them (R422 to R469, R504 to R522, R541, R542). -/

namespace Sys2Proof.Machine

/-- Where a walk over an entry's positions stands. -/
inductive Walk where
  /-- The sketch at this offset is not complete. -/
  | wait
  /-- The position at this offset needs a fetch of this cause from these shards. -/
  | fetch (index cause : Nat) (shards : List Nat)
  | done (g : Group)
deriving DecidableEq, Repr

namespace Work

/-- The stores of a pool's units. -/
def unit (w : Work) (p : Nat) : UnitPool := w.fs.units.pools.getD p {}
/-- Change the stores of a pool's units. -/
def modUnit (w : Work) (p : Nat) (g : UnitPool → UnitPool) : Work :=
  w.modFs fun f => { f with units := { f.units with pools := f.units.pools.modD p {} g } }
/-- The open step that a record names, executing or held, unless it has failed (R432). -/
def stepNamed (w : Work) (p step : Nat) (interposed : Bool) : Option Step :=
  match w.pool? p with
  | none => none
  | some q => [q.exec, q.held].findSome? fun o => match o with
    | some st => if st.plan.step = step ∧ st.plan.interposed = interposed ∧ st.failed.isNone then some st else none
    | none => none

/-- A malformed part or list: one malformed record, and the executing step fails (R435, R512). -/
def badPart (w : Work) (e p : Nat) : Work := (w.malformed e).markFailed p 3

/-- Change the open step of a pool that carries a plan's STEP and INTERPOSED, executing or held. -/
def modStepOf (w : Work) (p : Nat) (pl : Plan) (g : Step → Step) : Work :=
  let f (st : Step) : Step := if st.plan.step = pl.step ∧ st.plan.interposed = pl.interposed then g st else st
  w.modPool p fun q => { q with exec := q.exec.map f, held := q.held.map f }

/-- Charge `n` fabric bytes of the step with plan `pl` whole to a sequence (R634). -/
def chargeOwn (w : Work) (p : Nat) (pl : Plan) (s n : Nat) : Work :=
  w.modStepOf p pl fun st => { st with ownBytes := st.ownBytes.modD s 0 (· + n) }

/-! Positions (R434). -/

/-- Offsets in an entry at which a sketch is called for. -/
def calledAt (w : Work) (pe : PlanEntry) : List Nat :=
  let e := w.entry pe.slot
  match pe.etype with
  | .decode => List.range pe.npos
  | .final => [pe.npos - 1]
  | .score => (List.range pe.npos).filter fun i => e.scoreSplit - 1 ≤ pe.pos + i && pe.pos + i + 1 < e.promptLen
  | .prefill | .embed | .forkTail => []

/-- The complete sketch of a position. -/
def sketchAt (w : Work) (p : Nat) (pl : Plan) (pe : PlanEntry) (i : Nat) : Option SketchPos :=
  match (w.unit p).sketches.find? fun x => x.seq = pe.seq && x.index = i && x.interposed = pl.interposed && x.embed.isNone with
  | some x =>
    let n := match w.pool? p with | some q => q.vocabShards | none => 0
    if x.parts.length = n then some x else none
  | none => none

/-- The sampling state of a drawing sequence. -/
def sampleOf (w : Work) (p : Nat) (pl : Plan) (d : Nat) : Option EntrySample :=
  (w.unit p).samples.find? fun x => x.slot = d && x.interposed = pl.interposed

/-- The fetch of a position for a drawing sequence. -/
def deepOf (w : Work) (p : Nat) (pl : Plan) (d i : Nat) : Option DeepFetch :=
  match w.sampleOf p pl d with
  | some x => (match x.draws.find? fun y => y.index = i with | some y => y.deep | none => none)
  | none => none

/-- Every shard of a fetch has arrived. -/
def deepDone (f : DeepFetch) : Bool := f.shards.all fun s => f.data.has s

/-- What the sampler reads at offset `i` of an entry for drawing sequence `d`. -/
def sampleIn (w : Work) (p : Nat) (pl : Plan) (pe : PlanEntry) (d i pos mask : Nat) (counts : List (Nat × Nat))
    (x : SketchPos) : SampleIn :=
  let e := w.asNamed d
  let vocab := match w.image? pe.model with | some im => im.vocab | none => 0
  let n := match w.pool? p with | some q => q.vocabShards | none => 1
  { parts := x.parts, vocab := vocab, ws := ceilDiv vocab n, allowed := w.allowed e mask, counts := counts
    par := e.par, seq := seqHandle d e, pos := pos, full := bit (modeOf pl pe.model).sample 0
    fetched := match w.deepOf p pl d i with | some f => if deepDone f then some f else none | none => none }

/-- The child of a node that a token accepts (R514, R516). -/
def childOf (nodes : List DraftNode) (n t : Nat) : Option Nat :=
  ((List.range nodes.length).zip nodes).findSome? fun (i, x) => if x.parent = n && x.token = t then some (i + 1) else none

/-- The tokens of the path from the root to a node, the node's own last. -/
def pathTokens (nodes : List DraftNode) (fuel i : Nat) : List Nat :=
  match fuel, i with
  | 0, _ | _, 0 => []
  | k + 1, j + 1 => match nodes[j]? with | some x => pathTokens nodes k x.parent ++ [x.token] | none => []

/-- The mask state and counts that a path's tokens reach (R518). -/
def pathState (w : Work) (d : Nat) (path : List Nat) : Nat × List (Nat × Nat) :=
  let e := w.asNamed d
  path.foldl (fun (acc : Nat × List (Nat × Nat)) t =>
    (w.nextMask e acc.1 t, if hasCounts e then (countToken acc.2 t).1 else acc.2)) (e.maskState, (w.seq d).counts)

/-! Verification (R515 to R519) and the draws of other entries. -/

/-- The walk from node `n` at a depth, with the mask state and counts that the path has reached: the offsets begun, and
where it stands. -/
def verifyFrom (w : Work) (p : Nat) (pl : Plan) (pe : PlanEntry) (d g : Nat) (nodes : List DraftNode) (fuel : Nat)
    (index n depth mask : Nat) (counts : List (Nat × Nat)) (grp : Group) : List Nat × Walk :=
  match fuel with
  | 0 => ([], .wait)
  | k + 1 =>
    let e := w.asNamed d
    let pos := (if pe.etype = .final then pe.pos + pe.npos - 1 else pe.pos) + depth
    match w.sketchAt p pl pe index with
    | none => ([], .wait)
    | some x =>
      let c := w.sampleIn p pl pe d index pos mask counts x
      match c.sample with
      | .need cause => ([index], .fetch index cause (x.parts.map (·.shard)))
      | .nothing => ([index], .done { grp with dead := some (if masked e then (5, 0) else (3, 5)) })
      | .tok t raw deep =>
        let next := w.nextMask e mask t
        let o : OutTok := { token := t, logprob := c.logprob raw, deep := deep, pos := pos + 1, mask := next }
        let last := w.isEnd e t || w.deadState e next || grp.toks.length + 1 = g
        let stop : List Nat × Walk := ([index], .done { grp with toks := grp.toks ++ [o] })
        if last then stop
        else match childOf nodes n t with
        | none => stop
        | some i =>
          let counts := if hasCounts e then (countToken counts t).1 else counts
          let r := verifyFrom w p pl pe d g nodes k i i (depth + 1) next counts
            { grp with toks := grp.toks ++ [{ o with drafted := true }], path := grp.path ++ [i] }
          (index :: r.1, r.2)

/-- The token and its shard that a score position scores (R464). -/
def scoredToken (w : Work) (s pos : Nat) : Nat :=
  let x := w.seq s
  (w.tokenList x (pos + 2)).getD (pos + 1) 0 % 2 ^ 20

/-- One score position (R464): the output, or the fetch that it needs. -/
def scoreAt (w : Work) (p : Nat) (pl : Plan) (pe : PlanEntry) (i : Nat) : Option (Sum OutTok (Nat × List Nat)) :=
  match w.sketchAt p pl pe i with
  | none => none
  | some x =>
    let pos := pe.pos + i
    let t := w.scoredToken pe.slot pos
    let c := w.sampleIn p pl pe pe.slot i pos 0 [] x
    let out (raw deep : Nat) : Option (Sum OutTok (Nat × List Nat)) :=
      some (.inl { token := t, logprob := c.logprob raw, deep := deep, pos := pos + 1 })
    match c.fetched with
    | some f => out (if f.cause = 0 then c.fetchedRaw f t else ((f.data.getD (t / c.ws) []).getD 0 f32NegInf)) f.cause
    | none =>
      if c.full then some (.inr (0, x.parts.map (·.shard)))
      else match (x.parts.map (·.cands)).flatten.find? fun y => y.token = t with
        | some y => out y.logit 0
        | none => some (.inr (5, [t / c.ws]))

/-- The score positions of an entry within the credits read: the offsets begun, and the positions in order. -/
def scoreWalk (w : Work) (p : Nat) (pl : Plan) (pe : PlanEntry) (g : Nat) : List Nat × Walk :=
  let called := w.calledAt pe
  let mine := called.take g
  let res := mine.map fun i => (i, w.scoreAt p pl pe i)
  let seen := (res.filter fun r => r.2.isSome).map (·.1)
  let todo := res.findSome? fun (i, r) => match r with
    | some (.inr (cause, shards)) => if (w.deepOf p pl pe.slot i).isNone then some (Walk.fetch i cause shards) else none
    | _ => none
  let outs := res.filterMap fun (_, r) => match r with | some (.inl o) => some o | _ => none
  let walk := match todo with
    | some f => f
    | none =>
      if outs.length < mine.length then .wait
      else
        let upTo' := match mine.getLast? with
          | some i => pe.pos + i + 1
          | none => pe.pos + called.headD 0
        .done { toks := outs, short := mine.length < called.length
                newLength := if mine.length < called.length then upTo' else pe.pos + pe.npos }
  (seen, walk)

/-- The group limit read once for an entry (R515, R541). -/
def groupLimit (w : Work) (pe : PlanEntry) (d : Nat) : Nat :=
  let e := w.asNamed d
  let credits := (w.seq d).credits
  match pe.etype with
  | .decode | .final => Nat.min (Nat.min (e.par.specDepth + 1) credits) e.maxTokens
  | _ => credits

/-- The draft list of an entry, once it may be verified (R511). -/
def draftOf' (w : Work) (p : Nat) (pe : PlanEntry) : Option (List DraftNode) :=
  if pe.draft = 0 then some [] else (w.unit p).drafts.get? pe.seq

/-- Whether the sampler may begin an entry: its first position is complete and its list is in. -/
def mayBegin (w : Work) (p : Nat) (pl : Plan) (pe : PlanEntry) : Bool :=
  match pe.etype with
  | .decode => (w.sketchAt p pl pe 0).isSome && (w.draftOf' p pe).isSome
  | .final => (w.sketchAt p pl pe (pe.npos - 1)).isSome
  | .score => (match w.calledAt pe with | i :: _ => (w.sketchAt p pl pe i).isSome | [] => true)
  | .prefill | .embed | .forkTail => false

/-- Begin an entry for drawing sequence `d`: read its group limit (R515), and count the list (R531). -/
def beginEntry (w : Work) (p : Nat) (pl : Plan) (pe : PlanEntry) (d : Nat) : Work :=
  if (w.sampleOf p pl d).isSome || !w.mayBegin p pl pe then w
  else
    let w := w.modUnit p fun u => { u with
      samples := u.samples ++ [{ slot := d, interposed := pl.interposed, g := w.groupLimit pe d }] }
    if 0 < pe.draft then (w.count (cDraftLists p)).count (cDraftNodes p) pe.draft else w

/-- Where the sampling of an entry stands for drawing sequence `d` with group limit `g`. -/
def walkEntry (w : Work) (p : Nat) (pl : Plan) (pe : PlanEntry) (d g : Nat) : List Nat × Walk :=
  let e := w.asNamed d
  let b := pe.pos + pe.npos
  match pe.etype with
  | .decode =>
    if g = 0 then ([], .done { newLength := pe.pos + 1, short := true })
    else w.verifyFrom p pl pe d g ((w.draftOf' p pe).getD []) 65 0 0 0 e.maskState (w.seq d).counts {}
  | .final =>
    if g = 0 then ([], .done { newLength := b - 1, short := true })
    else w.verifyFrom p pl pe d g [] 1 (pe.npos - 1) 0 0 e.maskState (w.seq d).counts {}
  | .score => w.scoreWalk p pl pe g
  | .embed =>
    (match (w.unit p).sketches.find? fun x => x.seq = pe.seq && x.interposed = pl.interposed && x.embed.isSome with
      | some x => ([], .done { embed := x.embed, newLength := b })
      | none => ([], .wait))
  | .prefill | .forkTail => ([], .wait)

/-- The committed length that a drawn group leaves (R528, R541). -/
def lengthAfter (pe : PlanEntry) (g : Group) : Nat :=
  match pe.etype with
  | .decode => if g.short then g.newLength else pe.pos + 1 + g.toks.length
  | .final => if g.short then g.newLength else pe.pos + pe.npos + g.toks.length
  | _ => g.newLength

/-- The tail bin of a position (R800). -/
def tailBin (c : SampleIn) : Nat :=
  let vals := (c.parts.map fun (p : SkPart) => p.lse :: p.cands.map fun (x : Cand) => x.logit).flatten
  let off := commonOffset f32One (vals.foldl f32Max2 f32NegInf)
  let term (v : Nat) : Nat := if v = f32NegInf then 0 else f32Exp (f32Sub v off)
  let tail := sumW (c.parts.map fun p => term p.lse)
  if tail = 0 then 0
  else
    let f := f32Rat (f32Div tail (sumW (vals.map term)))
    let lim (k : Nat) : Bool := decide (f < 1 / ((2 ^ k : Nat) : Rat))
    if lim 16 then 0 else if lim 12 then 1 else if lim 10 then 2 else if lim 8 then 3 else if lim 6 then 4
    else if lim 4 then 5 else if lim 2 then 6 else 7

/-- The sketch statistics of a position sampled in SKETCH mode (R800). -/
def countPosition (w : Work) (p : Nat) (pl : Plan) (pe : PlanEntry) (i : Nat) : Work :=
  match w.sketchAt p pl pe i with
  | none => w
  | some x =>
    let c := w.sampleIn p pl pe pe.slot i (pe.pos + i) 0 [] x
    if c.full then w
    else ((w.count (cSkParts p) x.parts.length).count (cSkKept p) (sumOf (x.parts.map fun y => y.cands.length))).count
      (cSkTail p (tailBin c))

/-- Mark offsets as begun, counting the positions sampled once each and the mask look-ups (R471, R489, R800). -/
def noteSeen (w : Work) (p : Nat) (pl : Plan) (pe : PlanEntry) (d : Nat) (seen : List Nat) : Work :=
  let begun := match w.sampleOf p pl d with | some x => x.draws.map (fun (y : DrawState) => y.index) | none => []
  let new := seen.filter fun i => !begun.contains i
  let full := bit (modeOf pl pe.model).sample 0
  let w := w.modUnit p fun u => { u with samples := u.samples.map fun x =>
    if x.slot = d && x.interposed = pl.interposed then { x with draws := x.draws ++ new.map fun i => { index := i } } else x }
  let looked := if masked (w.entry d) && !full && pe.etype ≠ .score then sumOf (new.map fun i =>
      match w.sketchAt p pl pe i with | some x => sumOf (x.parts.map fun y => y.cands.length) | none => 0) else 0
  let w := if d = pe.slot then new.foldl (fun w i => w.countPosition p pl pe i) (w.count (cSampledPos p) new.length) else w
  w.count cMkuLookups looked

/-- Open the loads of a fetch (R457, R464, R467). -/
def openFetch (w : Work) (p : Nat) (pl : Plan) (pe : PlanEntry) (d i cause : Nat) (shards : List Nat) : Work :=
  let w := w.modUnit p fun u => { u with samples := u.samples.map fun x =>
    if x.slot = d && x.interposed = pl.interposed then
      { x with draws := x.draws.map fun y => if y.index = i then { y with deep := some { cause := cause, shards := shards } } else y }
    else x }
  let w := if cause = 0 then w else w.count (cDeep p cause)
  let w := if masked (w.entry d) && cause ≠ 5 && pe.etype ≠ .score then w.count cMkuExpansions else w
  match w.sketchAt p pl pe i with
  | none => w
  | some x =>
    let c := w.sampleIn p pl pe d i (pe.pos + i) 0 [] x
    let seq := seqHandle d (w.entry d)
    (x.parts.filter fun y => shards.contains y.shard).foldl (fun w y =>
      let (a, n) := if cause = 5 then
          (y.addr + lineOffset y.fullFormat (w.scoredToken d (pe.pos + i) % c.ws), 64)
        else (y.addr, fullBytes y.fullFormat (shardSize c.vocab c.ws y.shard))
      (w.load y.engine a n (.deep p pl.step seq i y.shard)).chargeOwn p pl d n) w

/-- Sample an entry for one drawing sequence as far as it goes, opening the fetches that it needs; `fuel` bounds how
many it opens. -/
def advanceEntry (w : Work) (p : Nat) (pl : Plan) (pe : PlanEntry) (d : Nat) (fuel : Nat) : Work :=
  match fuel with
  | 0 => w
  | k + 1 =>
    if (w.seq d).group.isSome then w
    else
      let w := w.beginEntry p pl pe d
      let g : Option Nat := match w.sampleOf p pl d with | some x => some x.g | none => if pe.etype = EType.embed then some 0 else none
      match g with
      | none => w
      | some g =>
        let (seen, walk) := w.walkEntry p pl pe d g
        let w := w.noteSeen p pl pe d seen
        match walk with
        | .wait => w
        | .fetch i cause shards =>
          if (w.deepOf p pl d i).isSome then w
          else (w.openFetch p pl pe d i cause shards).advanceEntry p pl pe d k
        | .done grp =>
          let acc := if grp.dead.isSome then grp.toks.length else grp.toks.length - 1
          let grp := { grp with
            newLength := lengthAfter pe grp
            accepted := if pe.etype = EType.decode then acc else 0
            spoiled := if pe.etype = EType.decode then pe.draft - acc else 0 }
          w.modSeq d fun x => { x with group := some grp }

/-- Sample one entry of the executing step of a pool, with the forks that draw from it (R255). -/
def advance (w : Work) (p : Nat) (pe : PlanEntry) : Work :=
  match w.pool? p with
  | some { exec := some st, .. } =>
    if st.failed.isSome || seqHandle pe.slot (w.entry pe.slot) ≠ pe.seq then w
    else
      let pl := st.plan
      let forks := if pe.etype = .final then w.drawsWith p pe.slot else []
      let todo := (pe.slot :: forks).filter fun d => !st.appended.contains d
      todo.foldl (fun w d => w.advanceEntry p pl pe d 70) w
  | _ => w

/-- Sample every entry of the executing step of a pool. -/
def advanceAll (w : Work) (p : Nat) : Work :=
  match w.pool? p with
  | some { exec := some st, .. } => st.plan.entries.foldl (fun w pe => w.advance p pe) w
  | _ => w

/-! Position slots (R439 to R441, R522). -/

/-- The positions of a plan that call for a sketch, in the order in which their slots are allocated (R441). -/
def slotOrder (w : Work) (pl : Plan) : List (PlanEntry × Nat) :=
  (pl.entries.map fun pe => (w.calledAt pe).map fun i => (pe, i)).flatten

/-- The bytes of a position slot (R439). -/
def slotBytes (q : Pool) (pl : Plan) (pe : PlanEntry) : Nat :=
  q.vocabShards * (64 + 8 * kEff (fld (modeOf pl pe.model).sample 28 16) pl.unitShare q.vocabShards)

/-- The position has been sampled for every sequence that draws from it, so that its slot is free again (DEDUCED, log entry
105). One that a verification has not visited keeps its slot until the step ends (R522). -/
def slotFree (w : Work) (p : Nat) (pl : Plan) (pe : PlanEntry) (i : Nat) : Bool :=
  match pe.etype with
  | .score => (match w.scoreAt p pl pe i with | some (.inl _) => true | _ => false)
  | _ => (pe.slot :: (if pe.etype = .final then w.drawsWith p pe.slot else [])).all fun d =>
      match w.sampleOf p pl d with
      | some x => (x.draws.any fun y => y.index = i && match y.deep with | some f => deepDone f | none => true)
      | none => false

/-- The position has a slot: those ahead of it and not yet free leave room for it in the pool's UNIT_SHARE × 98,304 bytes
(R439, R441). -/
def hasSlot (w : Work) (p : Nat) (q : Pool) (pl : Plan) (pe : PlanEntry) (i : Nat) : Bool :=
  let ahead := (w.slotOrder pl).takeWhile fun x => !(x.1.seq = pe.seq && x.2 = i)
  let used := sumOf (ahead.map fun x => if w.slotFree p pl x.1 x.2 then 0 else slotBytes q pl x.1)
  used + slotBytes q pl pe ≤ pl.unitShare * 98304

/-! Taking parts and lists (R432 to R437, R511 to R514). -/

/-- A part that survives R432 is malformed (R433, R466). In FULL mode TAIL_LSE is ignored (R467). -/
def partMalformed (w : Work) (p : Nat) (q : Pool) (pl : Plan) (r : SketchPart) : Bool :=
  match pl.entries.find? fun x => x.seq = r.seq with
  | none => true
  | some pe =>
    r.pool ≠ p || 2 ≤ r.pkind || r.addr % 64 ≠ 0 ||
      (if r.pkind = 1 then
        pe.etype ≠ .embed || r.index + 1 ≠ pe.npos || 5 < r.format || r.dims = 0 || (w.poolEngines r.vpool).isEmpty
      else
        !(w.calledAt pe).contains r.index || r.shards ≠ q.vocabShards || q.vocabShards ≤ r.shard || 2 < r.format ||
          r.fullFormat = 3 || 5 < r.fullFormat ||
          !bit (modeOf pl pe.model).sample 0 && (f32Val r.tailLse = .nan || f32Val r.tailLse = .inf false))

/-- Store a part for its position, in ascending order of shard. -/
def storePart (w : Work) (p : Nat) (r : SketchPart) (x : SkPart) : Work :=
  w.modUnit p fun u =>
    let mine (y : SketchPos) : Bool := y.seq = r.seq && y.index = r.index && y.interposed = r.interposed && y.embed.isNone
    if u.sketches.any mine then
      { u with sketches := u.sketches.map fun y =>
          if mine y then { y with parts := insertBy (fun (a b : SkPart) => a.shard < b.shard) x y.parts } else y }
    else { u with sketches := u.sketches ++ [{ seq := r.seq, index := r.index, interposed := r.interposed, parts := [x] }] }

/-- The shard of a part that has been taken already (R437). -/
def partTaken (w : Work) (p : Nat) (r : SketchPart) : Bool :=
  (w.unit p).sketches.any fun y => y.seq = r.seq && y.index = r.index && y.interposed = r.interposed &&
    (if r.pkind = 1 then y.embed.isSome else y.embed.isNone && y.parts.any fun z => z.shard = r.shard)

/-- Take a sketch part that is well formed and the first of its shard (R436, R439, R440). In FULL mode its entries and its
TAIL_LSE are ignored (R467). -/
def acceptPart (w : Work) (e p : Nat) (q : Pool) (pl : Plan) (pe : PlanEntry) (r : SketchPart) : Work :=
  let vocab := match w.image? pe.model with | some i => i.vocab | none => 0
  let ws := ceilDiv vocab q.vocabShards
  let lo := r.shard * ws
  let ms := (modeOf pl pe.model).sample
  let (cs, bad, conv) := if bit ms 0 then ([], 0, 0) else takeCands r.format lo (lo + shardSize vocab ws r.shard) r.entries
  let (cs, lse, folded) := if bit ms 0 then ([], f32NegInf, 0)
    else foldCands (kEff (fld ms 28 16) pl.unitShare q.vocabShards) r.tailLse cs
  let w := ((w.count (cSketchBadEntry p) bad).count (cSketchNonfinite p) conv).count (cSketchFolded p) folded
  let w := w.storePart p r { shard := r.shard, cands := cs, lse := lse, addr := r.addr, fullFormat := r.fullFormat, engine := e }
  if 0 < bad then w.malformed e else w

/-- The bytes of a part or embed record as received, reserved bits zero (R422, R423). -/
def partBytes (r : SketchPart) : List Byte :=
  leBytes 64 (pack [(0, 64, r.step), (64, 32, r.epoch), (96, 6, r.pool), (104, 1, b01 r.interposed), (105, 2, r.pkind),
    (112, 32, r.seq), (144, 14, r.index), (168, 8, r.shard), (176, 8, r.shards), (184, 13, r.entries.length),
    (200, 4, r.format), (204, 4, r.fullFormat), (208, 20, r.dims), (230, 6, r.vpool), (256, 32, r.tailLse),
    (320, 64, r.addr)]) ++ (r.entries.map fun x => leBytes 8 (pack [(0, 20, x.1), (32, 32, x.2)])).flatten

/-- The digest of a part taken (R802, R803): LAYER and OPERATOR of the last sketch exchange of its micro-batch. -/
def digestPart (w : Work) (e p : Nat) (pl : Plan) (pe : PlanEntry) (r : SketchPart) : Work :=
  let seg := (pl.segs.filter fun s => s.skind = 2 && s.model = pe.model && s.mb = pe.mb).getLast?
  let layer := match seg with | some s => s.layer | none => 0xFFFF
  let operator := match seg with | some s => s.operator | none => 0xFFFF
  w.digest { dkind := r.pkind, interposed := r.interposed, pool := p, mb := pe.mb, model := pe.model, engine := e
             step := r.step, epoch := r.epoch, layer := layer, operator := operator, seq := r.seq, index := r.index }
    pl (partBytes r)

/-- A sketch part or embed record whose turn it is in its engine's window is taken (R432). One for a position without a
slot holds the window (R441). -/
def takeSketchNow (w : Work) (e : Nat) (r : SketchPart) : Work :=
  match w.engine? e with
  | none => w
  | some g =>
    let p := g.pool
    match w.pool? p with
    | none => w
    | some q =>
      if r.epoch < q.epoch then w.count (cSketchStale p)
      else match w.stepNamed p r.step r.interposed with
      | none => if q.stepNo < r.step then w.badPart e p else w.count (cSketchStale p)
      | some st =>
        let pl := st.plan
        if w.partMalformed p q pl r then w.badPart e p
        else if w.partTaken p r then w.count (cSketchDup p)
        else match pl.entries.find? fun x => x.seq = r.seq with
        | none => w
        | some pe =>
          if r.pkind = 0 && !w.hasSlot p q pl pe r.index then
            w.modUnit p fun u => { u with heldSketches := u.heldSketches ++ [{ engine := e, part := r }] }
          else
            let w := (w.chargeOwn p pl pe.slot (64 * (1 + ceilDiv (8 * r.entries.length) 64))).digestPart e p pl pe r
            let w := if r.pkind = 1 then
                w.modUnit p fun u => { u with sketches := u.sketches ++ [{
                  seq := r.seq, index := r.index, interposed := r.interposed
                  embed := some (r.addr, r.dims, r.format, r.vpool) }] }
              else w.acceptPart e p q pl pe r
            w.advance p pe

/-- A part takes its turn in its engine's window: behind one that holds the window, it waits too. -/
def turnSketch (w : Work) (p e : Nat) (r : SketchPart) : Work :=
  if (w.unit p).heldSketches.any fun x => x.engine = e then
    w.modUnit p fun u => { u with heldSketches := u.heldSketches ++ [{ engine := e, part := r }] }
  else w.takeSketchNow e r

/-- Parts that waited for a position slot are taken as slots become free, in the order in which they came; `fuel` bounds
the rounds. -/
def drainSketches (w : Work) (p fuel : Nat) : Work :=
  match fuel with
  | 0 => w
  | k + 1 =>
    let held := (w.unit p).heldSketches
    let v := held.foldl (fun w h => w.turnSketch p h.engine h.part) (w.modUnit p fun u => { u with heldSketches := [] })
    if (v.unit p).heldSketches.length < held.length then v.drainSketches p k else w

/-- Take the parts whose slots have become free. -/
def freeSlots (w : Work) (p : Nat) : Work := w.drainSketches p (w.unit p).heldSketches.length

/-- A sketch part or embed record that its ring has accepted (R432, R441). -/
def takeSketch (w : Work) (e : Nat) (r : SketchPart) : Work :=
  match w.engine? e with
  | none => w
  | some g => (w.turnSketch g.pool e r).freeSlots g.pool

/-- A list that survives R511 is malformed (R512). -/
def listMalformed (p : Nat) (pl : Plan) (r : DraftList) : Bool :=
  match pl.entries.find? fun x => x.seq = r.seq with
  | none => true
  | some pe =>
    let chain := fld (modeOf pl pe.model).draft 1 0 = 1
    r.pool ≠ p || pe.etype ≠ .decode || pe.draft = 0 || r.nodes.length ≠ pe.draft ||
      ((List.range r.nodes.length).zip r.nodes).any fun (i, x) => i + 1 ≤ x.2 || (chain && x.2 ≠ i)

/-- Nodes of a list that R514 never accepts for their own token. -/
def badNodes (vocab : Nat) (l : List (Nat × Nat)) : Nat :=
  (((List.range l.length).zip l).filter fun (i, x) => vocab ≤ x.1 || (l.take i).any fun y => y = x).length

/-- A draft list that its ring has accepted (R511 to R514). -/
def takeDraft (w : Work) (e : Nat) (r : DraftList) : Work :=
  match w.engine? e with
  | none => w
  | some g =>
    let p := g.pool
    match w.pool? p with
    | none => w
    | some q =>
      if r.epoch < q.epoch then w.count (cDraftStale p)
      else match w.stepNamed p r.step false with
      | none => if q.stepNo < r.step then w.badPart e p else w.count (cDraftStale p)
      | some st =>
        let nodes : List DraftNode := r.nodes.map fun x => { parent := x.2, token := x.1 }
        if listMalformed p st.plan r then w.badPart e p
        else match (w.unit p).drafts.get? r.seq with
        | some l => if l = nodes then w.count (cDraftDup p) else w.badPart e p
        | none =>
          match st.plan.entries.find? fun x => x.seq = r.seq with
          | none => w
          | some pe =>
            let vocab := match w.image? pe.model with | some i => i.vocab | none => 0
            let bad := badNodes vocab r.nodes
            let w := (w.modUnit p fun u => { u with drafts := u.drafts.set r.seq nodes }).chargeOwn p st.plan pe.slot
              (64 * (1 + ceilDiv (4 * r.nodes.length) 64))
            let w := if 0 < bad then (w.count (cDraftBadNode p) bad).malformed e else w
            (w.advance p pe).freeSlots p

/-! What is due (R438). -/

/-- What an entry still lacks: for each missing item, the engines of the plan that it is laid to. -/
def lacks (w : Work) (p : Nat) (q : Pool) (pl : Plan) (pe : PlanEntry) : List (List Nat) :=
  let holds (f : Desc → Bool) : List Nat := pl.engines.filter fun e => match w.engine? e with
    | some g => 0 < g.desc.vocabShards && f g.desc
    | none => false
  let parts := (w.calledAt pe).filterMap fun i =>
    let got := match (w.unit p).sketches.find? fun x => x.seq = pe.seq && x.index = i && x.interposed = pl.interposed &&
        x.embed.isNone with
      | some x => x.parts.map (fun (y : SkPart) => y.shard)
      | none => []
    let lack := (List.range q.vocabShards).filter fun k => !got.contains k
    if lack.isEmpty then none else some (holds fun d => lack.contains d.vocabShard)
  let embed := if pe.etype = .embed && !((w.unit p).sketches.any fun x => x.seq = pe.seq && x.interposed = pl.interposed &&
      x.embed.isSome) then [holds fun _ => true] else []
  let list := if 0 < pe.draft && !(w.unit p).drafts.has pe.seq then [holds fun _ => true] else []
  parts ++ embed ++ list

/-- Once every engine has stored DONE and no part waits for a position slot: the step fails where something is missing, and
is sampled to its end otherwise. -/
def inputsDue (w : Work) (p : Nat) : Work :=
  match w.pool? p with
  | some q =>
    match q.exec with
    | some st =>
      if st.failed.isSome || !st.allDone || st.deliveredAt.isNone || !(w.unit p).heldSketches.isEmpty then w
      else
        let live := st.plan.entries.filter fun pe => seqHandle pe.slot (w.entry pe.slot) = pe.seq
        let missing := (live.map fun pe => w.lacks p q st.plan pe).flatten
        if missing.isEmpty then w.advanceAll p
        else
          let w := w.count (cSketchMissing p) missing.length
          (missing.flatten.foldl (fun w e => w.malformed e) w).markFailed p 3
    | none => w
  | none => w

/-- Act on pool `p`; where no part waits for a position slot any more after that, its step's inputs are due (R438). -/
def drained (w : Work) (p : Nat) (act : Work → Work) : Work :=
  if (w.unit p).heldSketches.isEmpty then act w else (act w).inputsDue p

/-! Deep fetches (R457 to R461, R469). -/

/-- The entry that drawing sequence `d` samples in a step. -/
def entryFor (w : Work) (p : Nat) (pl : Plan) (d : Nat) : Option PlanEntry :=
  match pl.entries.find? fun x => x.slot = d && (x.etype = .decode || x.etype = .final || x.etype = .score) with
  | some pe => some pe
  | none => pl.entries.find? fun x => x.etype = .final && (w.drawsWith p x.slot).contains d

/-- The load outstanding of a deep fetch: its number, the load, the pool and the STEP. One that a failed step has left
behind comes first (R469). -/
def deepLoad (w : Work) (seq i shard : Nat) : Option (Nat × LoadOut × Nat × Nat) :=
  w.fs.fab.loads.findSome? fun (k, l) => match l.why with
    | .deep p n s j h => if s = seq ∧ j = i ∧ h = shard then some (k, l, p, n) else none
    | _ => none

/-- The executing step of a pool is the one that opened a load (R469). -/
def stillWanted (w : Work) (p step : Nat) : Bool :=
  match w.pool? p with
  | some { exec := some st, .. } => st.plan.step = step && st.failed.isNone
  | _ => false

/-- Close a load. -/
def dropLoad (w : Work) (k : Nat) : Work :=
  w.modFs fun f => { f with fab := { f.fab with loads := f.fab.loads.erase k } }

/-- The logits that a load brought, and how many of them R430 converted: of tail tokens alone where the sketch's
candidates stand. -/
def deepLogits (w : Work) (f : DeepFetch) (x : SkPart) (ws vocab pos d : Nat) (bs : List Byte) :
    List Nat × Nat :=
  if f.cause = 5 then
    let (v, c) := lineLogit x.fullFormat (w.scoredToken d pos % ws) bs
    ([v], b01 c)
  else
    let l := fullLogits x.fullFormat (shardSize vocab ws x.shard) bs
    let used := ((List.range l.length).zip l).filter fun (i, _) =>
      f.cause = 0 || !(x.cands.any fun y => y.token = x.shard * ws + i)
    (l.map (·.1), (used.filter fun y => y.2.2).length)

/-- The load of a deep fetch fails: its engine is frozen, and the step that opened it fails (R461, R855). -/
def deepFailed (w : Work) (l : LoadOut) (p step : Nat) : Work :=
  let w := w.freezeEngine l.engine 0x05 0 7
  if w.stillWanted p step then w.markFailed p 7 else w

/-- The completion timeout of a deep fetch's load has fired before its data arrives (R88, R461). -/
def deepLapsed (w : Work) (l : LoadOut) : Bool :=
  match w.engine? l.engine with | some g => w.lapsed l.firstAt g.desc.completionTimeout | none => false

/-- Put one shard's data into the fetch of a position, and count what it contradicts (R430, R457, R459). -/
def fillFetch (w : Work) (p : Nat) (pl : Plan) (pe : PlanEntry) (d i : Nat) (f : DeepFetch) (y : SkPart) (x : SketchPos)
    (bs : List Byte) : Work :=
  let c := w.sampleIn p pl pe d i (pe.pos + i) 0 [] x
  let (vals, conv) := w.deepLogits f y c.ws c.vocab (pe.pos + i) d bs
  let f := { f with data := f.data.set y.shard vals }
  let w := (w.count (cSketchNonfinite p) conv).modUnit p fun u => { u with samples := u.samples.map fun s =>
    if s.slot = d && s.interposed = pl.interposed then
      { s with draws := s.draws.map fun y => if y.index = i then { y with deep := some f } else y }
    else s }
  if !deepDone f then w
  else
    let nodes := if pe.etype = .decode then (w.draftOf' p pe).getD [] else []
    let (mask, counts) := w.pathState d (pathTokens nodes 9 (if pe.etype = .decode then i else 0))
    let c := { c with allowed := w.allowed (w.asNamed d) mask, counts := counts, fetched := some f }
    let beyond := if f.cause = 5 then f32Lt y.lowest (vals.headD f32NegInf) else pe.etype ≠ .score && c.inconsistent f
    ((w.whenDo beyond fun w => w.count (cSketchInconsistent p)).advance p pe).freeSlots p

/-- Data that no load waits for any more: from an engine that a timeout has frozen, it is counted as its access (R89,
R142). -/
def lateData (w : Work) (seq shard : Nat) : Work :=
  let d := handleSlot seq
  let from_ := (w.poolEngines (w.entry d).pool).find? fun (_, g) => g.frozen && g.desc.vocabShard = shard
  match from_ with
  | some (e, _) => if (w.entry d).fl.bound then w.count (cIgnoredWrites e) else w
  | none => w

/-- DEEP_FETCH_DATA: one load's data has arrived. What a failed step asked for is discarded (R469), and so is what comes
after the timeout (R88, R89). -/
def deepFetchData (w : Work) (seq i shard : Nat) (bs : List Byte) : Work :=
  match w.deepLoad seq i shard with
  | none => w.lateData seq shard
  | some (k, l, p, step) =>
    if w.deepLapsed l then ((w.dropLoad k).deepFailed l p step).count (cIgnoredWrites l.engine)
    else
      let w := (w.dropLoad k).recv l.engine l.len
      let d := handleSlot seq
      match w.pool? p with
      | some { exec := some st, .. } =>
        let pl := st.plan
        if !w.stillWanted p step || seqHandle d (w.entry d) ≠ seq then w
        else match w.entryFor p pl d with
        | none => w
        | some pe =>
          match w.deepOf p pl d i, w.sketchAt p pl pe i with
          | some f, some x => (match x.parts.find? fun y => y.shard = shard with
            | none => w
            | some y => w.fillFetch p pl pe d i f y x bs)
          | _, _ => w
      | _ => w

/-- DEEP_FETCH_TIMEOUT: the load is not answered within the engine's COMPLETION_TIMEOUT (R461, R855). -/
def deepFetchTimeout (w : Work) (seq i shard : Nat) : Work :=
  match w.deepLoad seq i shard with
  | none => w
  | some (k, l, p, step) =>
    match w.engine? l.engine with
    | some g => if w.fired l.firstAt g.desc.completionTimeout then (w.dropLoad k).deepFailed l p step else w
    | none => let w := w.dropLoad k; if w.stillWanted p step then w.markFailed p 7 else w

end Work

end Sys2Proof.Machine
end

