-- ==== Sys2Proof/Machine/Rings.lean ====
section
/-! DEFINITION. The append group: the commit point of outputs (R233, R263, R264, R491 to R494, R523 to R525, R532 to
R542, R556 to R558, R570). -/

namespace Sys2Proof.Machine

namespace Work

/-- The pool whose executing step waits for the append group of drawing sequence `s`, with the step and the entry. -/
def groupOf (w : Work) (s : Nat) : Option (Nat × Step × PlanEntry) :=
  w.fs.pools.findSome? fun (p, q) => match q.exec with
    | some st =>
      if st.failed.isSome || !st.allDone || st.appended.contains s then none
      else match st.plan.entries.find? fun x => x.slot = s && x.etype ≠ .prefill && x.etype ≠ .forkTail with
        | some pe => some (p, st, pe)
        | none => (st.plan.entries.find? fun x => x.etype = .final && (w.drawsWith p x.slot).contains s).map fun pe => (p, st, pe)
    | none => none

/-- The first output of a sequence: TTFT (R556). -/
def firstOutput (w : Work) (s : Nat) : Work :=
  let e := w.entry s
  let t := w.hnsDown (w.now - e.admitAt) % 2 ^ 32
  let w := w.modEntry s fun e => { e with ttft := t }
  let w := (w.count (cTtftSum e.ctx) t).count (cTtftCount e.ctx)
  if (w.seq s).ttftPred < t then w.count (cTtftLate e.ctx) else w

/-- A later append group of a generate sequence: its gap, and the strike that the gap is (R557, R558). -/
def measureGap (w : Work) (s : Nat) : Work :=
  let e := w.entry s
  if (w.seq s).skipGap then w.modSeq s fun x => { x with skipGap := false }
  else
    let gap := w.hnsDown (w.now - e.lastEmitAt)
    let limit := w.reg (rDlmCfg e.ctx)
    if limit = 0 then w
    else if limit < gap then
      (w.modSeq s fun x => { x with strikes := x.strikes + 1 }).count (cTbtStrike e.ctx)
    else w.modSeq s fun x => { x with strikes := 0 }

/-- Append one TOKEN record, with the count table and the mask state that follow (R449, R491, R523, R532). -/
def appendToken (p : Nat) (w : Work) (s : Nat) (o : OutTok) : Work :=
  let e := w.asNamed s
  let gen := e.kind = .generate
  let ends := gen && w.isEnd e o.token
  let r := { w.recBase s with
    kind := 0, pos := o.pos, token := o.token, logprob := o.logprob, drafted := o.drafted, deep := o.deep, endToken := ends }
  let w := w.appendRec s r
  let w := w.modEntry s fun e => { e with
    emitted := e.emitted + 1, lastEmitAt := w.now
    maxTokens := if gen then e.maxTokens - 1 else e.maxTokens
    maskState := if gen && e.fl.stencilEn then o.mask else e.maskState
    st := if gen && e.st = .prefilling then .decoding else e.st }
  let w := w.modSeq s fun x => { x with
    credits := x.credits - 1, tokens := if gen then x.tokens ++ [o.token] else x.tokens
    scored := if e.kind = .score then x.scored + 1 else x.scored }
  let w := w.count (cAcct e.ctx (if gen then 8 else 10))
  let w := if masked e && !ends then w.count cMkuAdvances else w
  if gen && hasCounts e then
    let (l, ev) := countToken (w.seq s).counts o.token
    (w.modSeq s fun x => { x with counts := l }).whenDo ev fun w => w.count (cPenEvict p)
  else w

/-- Append the EMBED_REF notice (R535). -/
def appendEmbed (w : Work) (s : Nat) (v : Nat × Nat × Nat × Nat) : Work :=
  let (addr, dims, format, pool) := v
  let r := { w.recBase s with kind := 2, code := 1, addr := addr, count := dims, format := format, vpool := pool }
  (w.appendRec s r).modSeq s fun x => { x with credits := x.credits - 1 }

/-- Every output of a sequence has been appended: the group carries the FINAL, and whether by an end token (R169,
R233, R465, R466). -/
def groupEnds (w : Work) (s : Nat) (g : Group) : Option Bool :=
  let e := w.asNamed s
  match e.kind with
  | .generate =>
    (match g.toks.getLast? with
      | some o => if w.isEnd e o.token then some true else if e.maxTokens = 0 then some false else none
      | none => none)
  | .score => if !e.fl.awaitAppend && !g.short && e.promptLen ≤ (w.seq s).scored + e.scoreSplit then some false else none
  | .embed => if g.embed.isSome then some false else none

/-- What follows a group that does not carry the FINAL: the dead ends of R460 and R492, the strike of R570, the stall
timer. -/
def afterGroup (w : Work) (s : Nat) (g : Group) (gap : Bool) : Work :=
  match g.dead with
  | some (o, c) => w.endSeq s o c
  | none =>
    let e := w.entry s
    if !g.toks.isEmpty && w.deadState e e.maskState then (w.endSeq s 5 0).count cMkuDeadEnd
    else
      let w := w.stallCheck s
      if gap then w.strikeReroute s else w

/-- Append a group at the entry of a live sequence. -/
def appendLive (w : Work) (p : Nat) (st : Step) (pe : PlanEntry) (s : Nat) (g : Group) : Work :=
  let e := w.entry s
  let first := e.emitted = 0 && (!g.toks.isEmpty || g.embed.isSome)
  let gap := e.kind = .generate && 0 < e.emitted && !g.toks.isEmpty
  let w := if g.short then w.count cStuNoCredit else w
  let w := if gap then w.measureGap s else w
  let w := if first then (w.firstOutput s).modSeq s fun x => { x with skipGap := false } else w
  let w := if pe.slot = s && pe.etype ≠ .decode then
      w.count (cAcct e.ctx 9) (Nat.min g.newLength (pe.pos + pe.npos) - pe.pos) else w
  let w := w.modEntry s fun e => { e with length := if pe.slot = s then g.newLength else e.promptLen + g.toks.length }
  let w := g.toks.foldl (fun w o => appendToken p w s o) w
  let w := match g.embed with | some v => w.appendEmbed s v | none => w
  let w := if e.kind = .generate then w.growReplay s e.length (w.entry s).length else w
  let w := if pe.etype = .decode && 0 < pe.draft then
      (w.count (cDraftAccepted p) g.accepted).count (cDraftSpoiled p) g.spoiled else w
  match w.groupEnds s g with
  | some byEnd => w.endWith s (if e.fl.fbActive then 4 else 1) 0 byEnd
  | none =>
    let w := match g.toks.getLast?, g.dead with
      | some o, none => w.modPool p fun q => { q with
          outcomes := q.outcomes ++ [[st.plan.step, seqHandle s e, o.token] ++ g.path] }
      | _, _ => w
    w.afterGroup s g (gap && decide (0 < (w.seq s).strikes))

/-- APPEND_GROUP: the group of the sequence with handle `h` reaches its entry (R263). -/
def appendGroup (w : Work) (h : Nat) : Work :=
  let s := handleSlot h
  let e := w.entry s
  if seqHandle s e ≠ h then w
  else match w.groupOf s, (w.seq s).group with
  | some (p, st, pe), some g =>
    let w := w.modPool p fun q => { q with exec := q.exec.map fun st => { st with appended := st.appended ++ [s] } }
    let w := w.modSeq s fun x => { x with group := none }
    if e.st.live then w.appendLive p st pe s g
    else (w.count cStuDiscarded).count (cDraftSpoiled p) (if pe.etype = .decode then pe.draft else 0)
  | _, _ => w

end Work

end Sys2Proof.Machine
end

