-- ==== Sys2Proof/Machine/Route.lean ====
section
/-! DEFINITION. The route unit: router-candidate parts, capacity, dispatch and combine lists (R382 to R417). -/

namespace Sys2Proof.Machine

/-- x rounded up to a multiple of 64 (R409). -/
def up64 (x : Nat) : Nat := upTo 64 x

/-- Ce (R389). -/
def capacity (t k e factor : Nat) : Nat := Nat.min t (ceilDiv (factor * t * k) (4096 * e))

/-- The offsets B and D of the dispatch and combine lists, and the return size (R409). -/
def returnLayout (t k e ce : Nat) : Nat × Nat × Nat :=
  let b := 64 + up64 (4 * e)
  let d := b + up64 (4 * e * ce)
  (b, d, d + up64 (8 * t * k))

/-- A gate score that R400 takes: not NaN, not infinite, not below zero; -0.0 is 0.0. -/
def scoreOk (v : Nat) : Option Nat :=
  if fld v 14 7 = 255 then none else if v % 2 ^ 15 = 0 then some 0 else if bit v 15 then none else some v

/-- The candidates of one record after R400, in slot order: expert and score, with the slots dropped. -/
def filterRecord (experts : Nat) (l : List RouteCand) : List (Nat × Nat) × Nat :=
  (l.take 8).foldl (fun (acc : List (Nat × Nat) × Nat) c =>
    if !c.valid then acc
    else if experts ≤ c.expert then (acc.1, acc.2 + 1)
    else match scoreOk c.score with
    | none => (acc.1, acc.2 + 1)
    | some s =>
      match acc.1.find? fun x => x.1 = c.expert with
      | some x => if x.2 < s then (acc.1.filter (fun y => y.1 ≠ c.expert) ++ [(c.expert, s)], acc.2 + 1) else (acc.1, acc.2 + 1)
      | none => (acc.1 ++ [(c.expert, s)], acc.2)) ([], 0)

/-- The expert is one that a token of variant `v` may use (R385): shared, or among the variant's own. -/
def mayUse (priv : List (Nat × List (Nat × Nat × Nat))) (layer v x : Nat) : Bool :=
  let owned (l : List (Nat × Nat × Nat)) : Bool := l.any fun r => r.1 = layer && r.2.1 ≤ x && x ≤ r.2.2
  !(priv.any fun y => owned y.2) || priv.any fun y => y.1 = v && owned y.2

/-- The expert groups that a token chooses (R402). Scores are non-negative bfloat16 bits, which order as numbers. -/
def chosenGroups (per top : Nat) (c : List (Nat × Nat)) : List Nat :=
  let best := c.foldl (fun (t : Tbl Nat) x => t.modD (x.1 / per) x.2 (Nat.max x.2)) []
  ((sortBy (fun (a b : Nat × Nat) => b.2 < a.2 || (a.2 = b.2 && a.1 < b.1)) best).take top).map (·.1)

/-- A routed set: accepted choices by token in the order of acceptance, loads by expert, and pairs refused (R403 to
R405). -/
structure Routed where
  acc : Tbl (List (Nat × Nat)) := []
  load : Tbl Nat := []
  spilled : Nat := 0
deriving DecidableEq, Repr

/-- Route a set: `cands` holds each token's filtered candidates (R402 to R404, R407). -/
def routeSet (d : RouteDesc) (ce : Nat) (cands : Tbl (List (Nat × Nat))) : Routed :=
  let per := d.experts / d.groups
  let pairs := (cands.map fun (t, c) =>
    let gs := chosenGroups per d.groupTop c
    (c.filter fun x => gs.contains (x.1 / per)).map fun x => (x.2, t, x.1)).flatten
  let sorted := sortBy (fun (a b : Nat × Nat × Nat) =>
    b.1 < a.1 || (a.1 = b.1 && (a.2.1 < b.2.1 || (a.2.1 = b.2.1 && a.2.2 < b.2.2)))) pairs
  sorted.foldl (fun (r : Routed) (s, t, x) =>
    if d.k ≤ (r.acc.getD t []).length then r
    else if ce ≤ r.load.getD x 0 then { r with spilled := r.spilled + 1 }
    else { r with acc := r.acc.modD t [] (· ++ [(x, s)]), load := r.load.modD x 0 (· + 1) }) {}

/-- The combine weights of a token's accepted scores (R406). -/
def combineWeights (renorm : Bool) (l : List Nat) : List Nat :=
  if !renorm then l
  else
    let f := l.map (· * 2 ^ 16)
    let sum := match f with | [] => 0 | a :: r => r.foldl f32Add a
    if sum % 2 ^ 31 = 0 then l.map fun _ => bf16Of (f32 (1 / ((l.length : Nat) : Rat)))
    else f.map fun s => bf16Of (f32Div s sum)

/-- Bytes cut or padded with zeros to a length. -/
def padTo (n : Nat) (bs : List Byte) : List Byte := bs.take n ++ List.replicate (n - bs.length) 0

/-- The arrays of a route return after the header (R409 to R411). -/
def returnBody (d : RouteDesc) (t ce : Nat) (renorm : Bool) (r : Routed) : List Byte :=
  let tokensOf (x : Nat) : List Nat := (List.range t).filter fun k => (r.acc.getD k []).any fun y => y.1 = x
  let loads := ((List.range d.experts).map fun x => leBytes 4 (r.load.getD x 0)).flatten
  let disp := ((List.range d.experts).map fun x =>
    padTo (4 * ce) ((tokensOf x).map fun k => leBytes 4 (k + 2 ^ 31)).flatten).flatten
  let comb := ((List.range t).map fun k =>
    let l := r.acc.getD k []
    let ws := combineWeights renorm (l.map (·.2))
    padTo (8 * d.k) ((l.zip ws).map fun (x, wt) =>
      let slot := ((tokensOf x.1).filter (· < k)).length
      leBytes 8 (pack [(0, 12, x.1), (15, 1, 1), (16, 24, slot), (48, 16, wt)])).flatten).flatten
  padTo (up64 (4 * d.experts)) loads ++ padTo (up64 (4 * d.experts * ce)) disp ++ padTo (up64 (8 * t * d.k)) comb

namespace Work

/-- Entries of a sub-batch's micro-batch, in plan order. -/
def batchEntries (pl : Plan) (model mb : Nat) : List PlanEntry := pl.entries.filter fun e => e.model = model && e.mb = mb

/-- The variant of each token of a set, by token number (R388). -/
def tokenVariants (pl : Plan) (model mb : Nat) : List Nat :=
  ((batchEntries pl model mb).map fun e => List.replicate e.npos e.variant).flatten

/-- The route descriptor of a set, where the plan has a route exchange for it: that of the image which the slot held when
the plan was composed (R390). -/
def routeDesc (pl : Plan) (model mb layer : Nat) : Option RouteDesc :=
  if pl.segs.any fun s => s.layer = layer && s.model = model && s.mb = mb && s.skind = 1 then
    (modeOf pl model).descs.find? fun d => d.layer = layer
  else none

/-- Ce of a set of a plan (R389, R390). -/
def setCapacity (pl : Plan) (d : RouteDesc) (model t : Nat) : Nat :=
  capacity t d.k d.experts (fld (modeOf pl model).route 31 16)

/-- A set is the one that a part belongs to. -/
def isSetOf (r : RouterPart) (x : RouteSet) : Bool :=
  x.step = r.step && x.interposed = r.interposed && x.model = r.model && x.mb = r.mb && x.layer = r.layer

/-- A part that survives R397 is malformed (R398). -/
def routerMalformed (w : Work) (p : Nat) (pl : Plan) (r : RouterPart) : Bool :=
  match routeDesc pl r.model r.mb r.layer with
  | none => true
  | some d =>
    let t := (tokenVariants pl r.model r.mb).length
    let set := (w.unit p).sets.find? (isSetOf r)
    r.pool ≠ p || r.count = 0 || !(pl.entries.any fun e => e.model = r.model) || pl.mbSplit ≤ r.mb || r.tokens ≠ t ||
      t < r.first + r.count ||
      (match set with
        | some x => (List.range r.count).any (fun i => x.got.has (r.first + i)) || x.retAddr ≠ r.retAddr || x.retBytes ≠ r.retBytes
        | none => false) ||
      r.retBytes < (returnLayout t d.k d.experts (setCapacity pl d r.model t)).2.2

/-- The engines that a route return goes to: attached and not frozen. -/
def returnEngines (w : Work) (p : Nat) : List Nat := ((w.poolEngines p).filter fun (_, e) => !e.frozen).map (·.1)

/-- The OPERATOR of a set's route exchange segment (R803). -/
def routeOperator (pl : Plan) (r : RouterPart) : Nat :=
  match pl.segs.find? fun s => s.layer = r.layer && s.model = r.model && s.mb = r.mb && s.skind = 1 with
  | some s => s.operator
  | none => 0xFFFF

/-- The bytes of a part as received, reserved bits zero (R393, R394). -/
def routerBytes (r : RouterPart) : List Byte :=
  leBytes 64 (pack [(0, 64, r.step), (64, 32, r.epoch), (96, 6, r.pool), (104, 5, r.model), (109, 2, r.mb),
    (111, 1, b01 r.interposed), (112, 16, r.layer), (128, 24, r.first), (152, 24, r.count), (176, 24, r.tokens),
    (256, 64, r.retAddr), (320, 32, r.retBytes)]) ++
    (r.records.map fun l => padTo 32 (l.map fun c => leBytes 4 (pack [(0, 12, c.expert), (15, 1, b01 c.valid), (16, 16, c.score)])).flatten).flatten

/-- Answer a complete set (R402 to R412): the arrays, then the header. -/
def answerSet (w : Work) (p : Nat) (pl : Plan) (r : RouterPart) (x : RouteSet) (d : RouteDesc) : Work :=
  let t := (tokenVariants pl r.model r.mb).length
  let ce := setCapacity pl d r.model t
  let out := routeSet d ce x.got
  let taken (k : Nat) : Nat := (out.acc.getD k []).length
  let dropped := ((List.range t).filter fun k => taken k = 0).length
  let short := ((List.range t).filter fun k => 0 < taken k && taken k < d.k).length
  let header := leBytes 64 (pack [(0, 64, r.step), (64, 32, r.epoch), (96, 6, p), (104, 5, r.model), (109, 2, r.mb),
    (111, 1, b01 r.interposed), (112, 16, r.layer), (128, 24, t), (152, 24, ce), (176, 13, d.experts), (192, 4, d.k),
    (200, 24, dropped), (224, 24, short), (256, 32, out.spilled)])
  let body := returnBody d t ce (bit (modeOf pl r.model).route 0) out
  let es := w.returnEngines p
  let w := w.multicast (es.map fun e => (e, x.retAddr + 64)) body
  let w := w.multicast (es.map fun e => (e, x.retAddr)) header .route
  let w := w.digest { dkind := 3, interposed := r.interposed, pool := p, mb := r.mb, model := r.model, step := r.step
                      epoch := r.epoch, layer := r.layer, operator := routeOperator pl r } pl body
  let w := w.modStepOf p pl fun st => { st with bytes := st.bytes + es.length * (body.length + 64) }
  let w := w.modUnit p fun u => { u with sets := u.sets.map fun y => if isSetOf r y then { y with answering := some es, closed := es.isEmpty } else y }
  ((((w.count (cRouteSets p)).count (cRoutings p) t).count (cRouteSpill p) out.spilled).count (cRouteShort p)
    short).count (cRouteDrop p) dropped

/-- Take the records of a part into its set (R400, R401). -/
def fillSet (w : Work) (e p : Nat) (pl : Plan) (r : RouterPart) (d : RouteDesc) : Work :=
  let vars := tokenVariants pl r.model r.mb
  let priv := (modeOf pl r.model).priv
  let recs := ((List.range r.count).zip r.records).map fun (i, l) =>
    let (c, bad) := filterRecord d.experts l
    let ok := c.filter fun (x : Nat × Nat) => mayUse priv r.layer (vars.getD (r.first + i) 0) x.1
    (r.first + i, ok, bad, c.length - ok.length)
  let w := (w.count (cRouteBadSlot p) (sumOf (recs.map fun x => x.2.2.1))).count (cRouteNotAllowed p)
    (sumOf (recs.map fun x => x.2.2.2))
  let w := w.modUnit p fun u =>
    let add (x : RouteSet) : RouteSet := { x with got := recs.foldl (fun (g : Tbl (List (Nat × Nat))) y => g.set y.1 y.2.1) x.got }
    if u.sets.any (isSetOf r) then { u with sets := u.sets.map fun x => if isSetOf r x then add x else x }
    else { u with sets := u.sets ++ [add { step := r.step, interposed := r.interposed, model := r.model, mb := r.mb
                                           layer := r.layer, retAddr := r.retAddr, retBytes := r.retBytes }] }
  let bad := (recs.filter fun x => 0 < x.2.2.1).length
  (List.range bad).foldl (fun w _ => w.malformed e) w

/-- A part waits in its window (R392, R672). -/
def holdPart (w : Work) (p e : Nat) (r : RouterPart) : Work :=
  w.modUnit p fun u => { u with heldParts := u.heldParts ++ [{ engine := e, part := r }] }

/-- A router-candidate part that its ring has accepted (R397 to R401, R405). A part for which no set slot is free waits
in its window, and holds what its engine's ring brings behind it (R49, R392, R672). -/
def takeRouter (w : Work) (e : Nat) (r : RouterPart) : Work :=
  match w.engine? e with
  | none => w
  | some g =>
    let p := g.pool
    match w.pool? p with
    | none => w
    | some q =>
      if r.epoch < q.epoch then w.count (cRouteStale p)
      else match w.stepNamed p r.step r.interposed with
      | none => if q.stepNo < r.step then w.badPart e p else w.count (cRouteStale p)
      | some st =>
        let pl := st.plan
        let sets := (w.unit p).sets
        if (w.unit p).heldParts.any fun x => x.engine = e then w.holdPart p e r
        else if w.routerMalformed p pl r then w.badPart e p
        else if !sets.any (isSetOf r) && 2 ≤ (sets.filter fun x => x.interposed = r.interposed && !x.closed).length then
          w.holdPart p e r
        else match routeDesc pl r.model r.mb r.layer with
        | none => w
        | some d =>
          let w := w.digest { dkind := 2, interposed := r.interposed, pool := p, mb := r.mb, model := r.model, engine := e
                              step := r.step, epoch := r.epoch, layer := r.layer, operator := routeOperator pl r } pl
            (routerBytes r)
          let w := w.fillSet e p pl r d
          match (w.unit p).sets.find? (isSetOf r) with
          | some x => if x.got.length = (tokenVariants pl r.model r.mb).length then w.answerSet p pl r x d else w
          | none => w

/-- Parts that waited for a set slot are taken again, in the order in which they came. -/
def drainParts (w : Work) (p : Nat) : Work :=
  let held := (w.unit p).heldParts
  held.foldl (fun w h => w.takeRouter h.engine h.part) (w.modUnit p fun u => { u with heldParts := [] })

/-- ROUTE_RETURN_ACKED: the header store of the `n`-th set of the pool is acknowledged at an engine; acknowledged at
every engine that is not frozen, the slot is released (R417, R666). -/
def routeReturnAcked (w : Work) (p n e : Nat) : Work :=
  match (w.unit p).sets[n]? with
  | some x =>
    if x.closed then w
    else
      let frozen (k : Nat) : Bool := match w.engine? k with | some g => g.frozen | none => true
      let now := setsAcked [x] fun _ k => k = e || frozen k
      let w := w.modUnit p fun u => { u with sets := u.sets.take n ++ now ++ u.sets.drop (n + 1) }
      w.whenDo (now.any (·.closed)) fun w => w.drainParts p
  | none => w

end Work

end Sys2Proof.Machine
end

