-- ==== Sys2Proof/Machine/RingRecords.lean ====
section
/-! DEFINITION. The records of the rings as bytes: what each lays down in its header and its entries, read and written
(R393, R394, R422, R423, R507, R508, R602, R639, R675). -/

namespace Sys2Proof.Machine

/-- Consecutive fields of `size` bytes each, from byte `at_` on. -/
def fieldsAt (bs : List Byte) (at_ size n : Nat) : List Nat := (List.range n).map fun i => ofLe (slice bs (at_ + size * i) size)

/-- A completion record (R675). -/
def completionOf (bs : List Byte) : Completion :=
  let h := ofLe (slice bs 0 64)
  { step := fld h 63 0, epoch := fld h 95 64, pool := fld h 101 96, interposed := bit h 102, ckind := fld h 105 104
    engine := fld h 121 112, saved := fld h 159 128 }

/-- The bytes of a completion record, reserved bits zero. -/
def completionBytes (r : Completion) : List Byte :=
  leBytes 64 (pack [(0, 64, r.step), (64, 32, r.epoch), (96, 6, r.pool), (102, 1, b01 r.interposed), (104, 2, r.ckind),
    (112, 10, r.engine), (128, 32, r.saved)])

/-- An energy report: 32 bytes (R639). -/
def energyReportOf (bs : List Byte) : EnergyReport :=
  let h := ofLe (slice bs 0 32)
  { step := fld h 63 0, epoch := fld h 95 64, pool := fld h 101 96, interposed := bit h 102, engine := fld h 121 112
    energy := fld h 159 128, peak := fld h 175 160 }

/-- A draft list as its bytes lie in the ring: the header (R507), and node i at byte 64 + 4 × (i - 1) with TOKEN and PARENT
(R508). -/
def draftListOf (bs : List Byte) : DraftList :=
  let h := ofLe (slice bs 0 64)
  { step := fld h 63 0, epoch := fld h 95 64, pool := fld h 101 96, seq := fld h 143 112
    nodes := (fieldsAt bs 64 4 (fld h 150 144)).map fun v => (fld v 19 0, fld v 26 20) }

/-- A keep-list record: the header and RANGES entries of 8 bytes (R602). -/
def keepListOf (bs : List Byte) : KeepList :=
  let h := ofLe (slice bs 0 64)
  { seq := fld h 31 0, num := fld h 63 32
    ranges := (fieldsAt bs 64 8 (fld h 76 64)).map fun v => (fld v 20 0, fld v 52 32) }

/-- The bytes of a keep-list record, reserved bits zero. -/
def keepListBytes (r : KeepList) : List Byte :=
  leBytes 64 (pack [(0, 32, r.seq), (32, 32, r.num), (64, 13, r.ranges.length)]) ++
    (r.ranges.map fun x => leBytes 8 (pack [(0, 21, x.1), (32, 21, x.2)])).flatten

/-- A sketch part or an embed record: the header and COUNT candidate entries of 8 bytes (R422, R423). -/
def sketchPartOf (bs : List Byte) : SketchPart :=
  let h := ofLe (slice bs 0 64)
  { step := fld h 63 0, epoch := fld h 95 64, pool := fld h 101 96, interposed := bit h 104, pkind := fld h 106 105
    seq := fld h 143 112, index := fld h 157 144, shard := fld h 175 168, shards := fld h 183 176, format := fld h 203 200
    fullFormat := fld h 207 204, dims := fld h 227 208, vpool := fld h 235 230, tailLse := fld h 287 256, addr := fld h 383 320
    entries := if fld h 106 105 = 1 then [] else (fieldsAt bs 64 8 (fld h 196 184)).map fun v => (fld v 19 0, fld v 63 32) }

/-- A router-candidate part: the header and COUNT records of eight slots of 4 bytes each (R393, R394). -/
def routerPartOf (bs : List Byte) : RouterPart :=
  let h := ofLe (slice bs 0 64)
  { step := fld h 63 0, epoch := fld h 95 64, pool := fld h 101 96, model := fld h 108 104, mb := fld h 110 109
    interposed := bit h 111, layer := fld h 127 112, first := fld h 151 128, count := fld h 175 152, tokens := fld h 199 176
    retAddr := fld h 319 256, retBytes := fld h 351 320
    records := (List.range (fld h 175 152)).map fun i => (fieldsAt bs (64 + 32 * i) 4 8).map fun v =>
      { expert := fld v 11 0, valid := bit v 15, score := fld v 31 16 } }

end Sys2Proof.Machine
end

