-- ==== Sys2Proof/Machine/Fabric.lean ====
section
/-! DEFINITION. The fabric ports: windows, record rings, completions, reductions, atomics as a target, loads and stores
unanswered (R656 to R691). -/

namespace Sys2Proof.Machine

/-- A record ring of R669: its offset in an engine block, its bytes and M. -/
structure RingDef where
  base : Nat
  size : Nat
  m : Nat
deriving DecidableEq, Repr

def ringCompletion : RingDef := { base := 0, size := 4096, m := 64 }
def ringEnergy : RingDef := { base := 0x1000, size := 4096, m := 64 }
def ringDraft : RingDef := { base := 0x4000, size := 16384, m := 320 }
def ringKeep : RingDef := { base := 0x10000, size := 65536, m := 32832 }
def ringSketch : RingDef := { base := 0x40000, size := 262144, m := 32832 }
def ringRouter : RingDef := { base := 0x100000, size := 1048576, m := 262208 }

namespace Work

/-! Windows (R667, R668). -/

/-- FAB_BASE. -/
def fabBase (w : Work) : Nat := w.reg64 rFabBase
/-- The engine block of engine `e`. -/
def blockAddr (w : Work) (e : Nat) : Nat := w.fabBase + e * 0x200000
/-- The reduction window of pool `p`. -/
def redAddr (w : Work) (p : Nat) : Nat := w.fabBase + 0x80000000 + p * 0x10000
/-- The atomic window of pool `p`. -/
def atomAddr (w : Work) (p : Nat) : Nat := w.fabBase + 0x80400000 + p * 0x1000

/-- Bytes [a, a + n) lie in a window of `size` bytes at `base`. -/
def inWindow (base size a n : Nat) : Bool := base ≤ a && a + n ≤ base + size

/-- The first byte from `a` on that lies outside a window of the list, windows one after the other; `fuel` bounds how many
are crossed. -/
def firstOutside (fuel : Nat) (l : List (Nat × Nat)) (a : Nat) : Nat :=
  match fuel, l.find? fun x => x.1 ≤ a && a < x.1 + x.2 with
  | k + 1, some x => firstOutside k l (x.1 + x.2)
  | _, _ => a

/-- Bytes [a, a + n) lie in the windows of engine `e` of pool `p`, which may touch (R668). -/
def ownWindow (w : Work) (e p a n : Nat) : Bool :=
  a + n ≤ firstOutside 3 [(w.blockAddr e, 0x200000), (w.redAddr p, 0x10000), (w.atomAddr p, 0x1000)] a

/-- A write of engine `src` to `n` bytes at `a` (R141, R663, R668): an unknown source and a frozen engine are counted,
a write outside the windows freezes its engine; otherwise `act`. -/
def engineWrite (w : Work) (src a n : Nat) (act : Work → Engine → Work) : Work :=
  if !w.fs.boot.up then w
  else match w.engine? src with
  | none => (w.recv src n).count cUnknownSrc
  | some g =>
    let w := w.recv src n
    if g.frozen then w.count (cIgnoredWrites src)
    else if !w.ownWindow src g.pool a n then w.freezeEngine src 0x03 0x41 4
    else act w g

/-! Record rings (R669 to R673). -/

/-- Bytes of a body unit are held until their record is taken (R672). -/
def holdBody (w : Work) (src off : Nat) (bs : List Byte) : Work :=
  w.modEngine src fun g => { g with body := g.body.set off bs }

/-- What a ring holds from offset `off` of an engine's block on: `n` bytes. The spec does not state what a byte holds that no
store has written since the record there before was taken: a free value (DESIGN CHOICE, log entry 145). -/
def heldBytes (e : Nat) (g : Engine) (off n : Nat) : List Byte :=
  (List.range n).map fun i =>
    match g.body.findSome? fun (o, bs) => if o ≤ off + i then bs[off + i - o]? else none with
    | some b => b
    | none => Config.ringByte e (off + i)

/-- The unit at which the next record begins after one of `units` units (R670). -/
def nextUnit (r : RingDef) (unit units : Nat) : Nat :=
  let u := unit + units
  if r.size / 64 < u + r.m / 64 then 0 else u

/-- A store of a record of `units` units at address `a` (R671, R673): taken where the ring's next record begins,
otherwise a body store of its `bytes`. `owner` takes the record; `exceeded` is the owner's treatment of a record beyond M. -/
def takeRecord (w : Work) (src a : Nat) (r : RingDef) (units : Nat) (bytes : List Byte) (owner exceeded : Work → Work) : Work :=
  w.engineWrite src a 64 fun w g =>
    let off := a - w.blockAddr src
    let unit := (off - r.base) / 64
    if a < w.blockAddr src ∨ off < r.base ∨ r.base + r.size ≤ off ∨ off % 64 ≠ 0 ∨ unit ≠ g.ringPos.getD r.base 0 then
      w.holdBody src off bytes
    else
      let w := w.modEngine src fun g => { g with
        ringPos := g.ringPos.set r.base (nextUnit r unit units)
        body := g.body.filterV fun o _ => !(off ≤ o && o < off + 64 * units) }
      if r.m < 64 * units then exceeded w else owner w

/-! Records. -/

/-- The pool of an attached engine; 64 for none. -/
def poolOf (w : Work) (e : Nat) : Nat := match w.engine? e with | some g => g.pool | none => 64

/-- What the records of an engine's pool have made due of its step's inputs (R438). -/
def inputsNow (w : Work) (src : Nat) : Work := w.inputsDue (w.poolOf src)

/-- A completion record (R675 to R679). -/
def completion (w : Work) (src a : Nat) (r : Completion) : Work :=
  w.takeRecord src a ringCompletion 1 (completionBytes r) (fun w =>
    let (w, bad) := w.takeCompletion src r
    let w := if bad then w.malformed src else w
    w.inputsNow src) id

/-- CKIND of a record under the command that carries it: 0b11 stays, since no command names it (R678). -/
def withKind (k : Nat) (r : Completion) : Completion := if r.ckind = 3 then r else { r with ckind := k }

/-- A router-candidate part (R393 to R401). -/
def routerPart (w : Work) (src a : Nat) (r : RouterPart) : Work :=
  w.takeRecord src a ringRouter (1 + ceilDiv (32 * r.count) 64) (routerBytes r) (fun w => w.takeRouter src r)
    fun w => w.badPart src (w.poolOf src)

/-- A sketch part or embed record (R422 to R441). -/
def sketchPart (w : Work) (src a : Nat) (r : SketchPart) : Work :=
  w.takeRecord src a ringSketch (if r.pkind = 1 then 1 else 1 + ceilDiv (8 * r.entries.length) 64) (partBytes r)
    (fun w => w.takeSketch src r) fun w => w.badPart src (w.poolOf src)

/-- A draft list (R507 to R514), by the bytes of its record. -/
def draftList (w : Work) (src a : Nat) (bytes : List Byte) : Work :=
  let r := draftListOf bytes
  w.takeRecord src a ringDraft (1 + ceilDiv (4 * r.nodes.length) 64) bytes (fun w => w.takeDraft src r)
    fun w => w.badPart src (w.poolOf src)

/-- An energy report, by its bytes (R639 to R641). -/
def energyReport (w : Work) (src a : Nat) (bytes : List Byte) : Work :=
  let r := energyReportOf bytes
  w.takeRecord src a ringEnergy 1 bytes (fun w =>
    let (w, bad) := (w.energyExpired src).takeEnergy src r
    if bad then w.malformed src else w) id

/-- The ranges of a keep-list ascend, do not overlap, hold at least one position each and end below W (R602, R603). -/
def rangesOk (written lo : Nat) (l : List (Nat × Nat)) : Bool :=
  match l with
  | [] => true
  | (a, n) :: r => lo ≤ a && 0 < n && a + n ≤ written && rangesOk written (a + n) r

/-- The park copy that waits for a keep-list of `e` with SEQ and NUM. -/
def keepWaiting (w : Work) (e : Nat) (r : KeepList) : Option (Nat × ParkRec) :=
  w.fs.seqs.findSome? fun (s, _) => match (w.seq s).park with
    | some k => (match k.copy with
      | .keepList e' n _ => if e' = e ∧ n = r.num ∧ seqHandle s (w.entry s) = r.seq then some (s, k) else none
      | _ => none)
    | none => none

/-- KEEP_LIST_TIMEOUT: it counts as a malformed keep-list does, and every written position is kept (R603). -/
def keepListTimeout (w : Work) (s : Nat) : Work :=
  match (w.seq s).park with
  | some { copy := .keepList e _ (some t), .. } =>
    let limit := match w.engine? e with | some g => g.desc.completionTimeout | none => 0
    if w.fired t limit then ((w.count cKeepTimeout).malformed e).keepChosen s none else w
  | _ => w

/-- The timer of a keep-list has fired before the record arrives: its action comes first, and the record is ignored and
counted as an access of its engine (R88, R89, R603; DESIGN CHOICE, log entry 138). -/
def keepExpired (w : Work) (src : Nat) (r : KeepList) : Work :=
  match w.keepWaiting src r with
  | some (s, { copy := .keepList e _ (some t), .. }) =>
    if (match w.engine? e with | some g => w.lapsed t g.desc.completionTimeout | none => false) then
      (w.keepListTimeout s).count (cIgnoredWrites src)
    else w
  | _ => w

/-- A keep-list record (R602, R603). -/
def keepList (w : Work) (src a : Nat) (r : KeepList) : Work :=
  let w := w.keepExpired src r
  let bad (w : Work) : Work :=
    let w := (w.count cKeepBad).malformed src
    match w.keepWaiting src r with
    | some (s, _) => w.keepChosen s none
    | none => w
  w.takeRecord src a ringKeep (1 + ceilDiv (8 * r.ranges.length) 64) (keepListBytes r) (fun w =>
    match w.keepWaiting src r with
    | none => w
    | some (s, k) =>
      if r.ranges.isEmpty || !rangesOk k.written 0 r.ranges then bad w else w.keepChosen s (some r.ranges)) bad

/-- The ring whose next record begins with unit `off` of an engine's block (R670, R671). -/
def ringNext (g : Engine) (off : Nat) : Option RingDef :=
  [ringCompletion, ringEnergy, ringDraft, ringKeep, ringSketch, ringRouter].find? fun r =>
    r.base ≤ off && off < r.base + r.size && off % 64 = 0 && (off - r.base) / 64 = g.ringPos.getD r.base 0

/-- RING_BODY_STORE: `bytes` stored to a ring of the engine's block (R671, R672). Sixty-four of them at the unit where the ring's
next record begins are that record's header, its body what the ring holds behind it. -/
def ringBodyStore (w : Work) (src a : Nat) (bytes : List Byte) : Work :=
  let off := a - w.blockAddr src
  let next := (w.engine? src).bind fun g =>
    if bytes.length = 64 ∧ w.blockAddr src ≤ a then (ringNext g off).map fun r => (g, r) else none
  match next with
  | none => w.engineWrite src a bytes.length fun w _ => w.holdBody src off bytes
  | some (g, r) =>
    let whole (n : Nat) : List Byte := bytes ++ heldBytes src g (off + 64) n
    if r = ringCompletion then w.completion src a (completionOf bytes)
    else if r = ringEnergy then w.energyReport src a bytes
    else if r = ringDraft then w.draftList src a (whole 256)
    else if r = ringKeep then w.keepList src a (keepListOf (whole (8 * fld (ofLe bytes) 76 64)))
    else if r = ringSketch then
      w.drained (w.poolOf src) fun w => w.sketchPart src a (sketchPartOf (whole (8 * fld (ofLe bytes) 196 184)))
    else w.routerPart src a (routerPartOf (whole (32 * fld (ofLe bytes) 175 152)))

/-! Reductions and atomics (R683 to R689). -/

/-- A reduction (R683, R684). -/
def reduction (w : Work) (src a width value : Nat) : Work :=
  w.engineWrite src a width fun w g =>
    let off := a - w.redAddr g.pool
    if width ≠ 8 ∨ a % 8 ≠ 0 ∨ !inWindow (w.redAddr g.pool) 0x10000 a 8 then w.malformed src
    else
      let k := off / 8
      w.modPool g.pool fun q =>
        let sum := (q.redWin.getD k 0).toNat + value % 2 ^ 64
        { q with
          redWin := q.redWin.set k (BitVec.ofNat 64 (Nat.min sum (2 ^ 64 - 1)))
          redSat := if 2 ^ 64 ≤ sum ∧ !q.redSat.contains k then q.redSat ++ [k] else q.redSat }

/-- The new value of a word under an atomic operation (R687). -/
def atomicNew (op : AtomicOp) (old : DWord) : DWord :=
  match op with
  | .cas c n => if old = c then n else old
  | .fetchAdd x => old + x
  | .swap n => n

/-- Answer an atomic with ASEQ `n` under a source's window (R688). -/
def atomicStatus (h n : Nat) : AtomicStatus :=
  let d := (h + 2 ^ 32 - n) % 2 ^ 32
  if n = (h + 1) % 2 ^ 32 then .applied
  else if 1 ≤ n ∧ n ≤ h ∧ h - n < 1024 then .replayed
  else if 1024 ≤ d ∧ d ≤ 2 ^ 31 then .expired
  else .refused

/-- An atomic of an engine (R685 to R689). -/
def atomicRequest (w : Work) (src aseq a : Nat) (op : AtomicOp) : Work :=
  w.engineWrite src a 8 fun w g =>
    let win := w.fs.fab.windows.getD src {}
    let n := aseq % 2 ^ 32
    let ok := a % 8 = 0 && inWindow (w.atomAddr g.pool) 0x1000 a 8
    let st := if ok then atomicStatus win.h n else .refused
    let reply (w : Work) (r : DWord) : Work := w.issue src (.atomicReply src n st r) 32 0
    match st with
    | .applied =>
      let k := (a - w.atomAddr g.pool) / 8
      let old := match w.pool? g.pool with | some q => q.atomWin.getD k 0 | none => 0
      let w := w.modPool g.pool fun q => { q with atomWin := q.atomWin.set k (atomicNew op old) }
      let kept := (win.results.set n old).filterV fun k _ => (n + 2 ^ 32 - k) % 2 ^ 32 < 1024
      let w := w.modFs fun f => { f with
        fab := { f.fab with windows := f.fab.windows.set src ({ h := n, results := kept } : AtomWindow) } }
      (reply w old).count cAtomApplied
    | .replayed => (reply w (win.results.getD n 0)).count cAtomReplayed
    | .expired => (reply w 0).count cAtomExpired
    | .refused => ((reply w 0).count cAtomRefused).malformed src

/-- APERTURE_LOAD (R662, R663). -/
def apertureLoad (w : Work) (src : Nat) : Work :=
  if !w.fs.boot.up then w
  else match w.engine? src with
  | none => (w.recv src 32).count cUnknownSrc
  | some _ => ((w.recv src 32).issue src (.zeros src) 32 0).count cApertureLoad

/-- FABRIC_PARTIAL_TIMEOUT (R663). -/
def fabricPartialTimeout (w : Work) : Work := if w.fs.boot.up then w.count cFabPartial else w

/-- ACK_TIMEOUT. -/
def ackTimeout (w : Work) : Nat := fld (w.reg rFabTiming) 15 0

/-- STORE_ACK_TIMEOUT: a store to the engine has gone unacknowledged for ACK_TIMEOUT (R660, R855). -/
def storeAckTimeout (w : Work) (e : Nat) : Work :=
  match w.engine? e with
  | some g => if g.stores.any fun x => w.fired x.at_ w.ackTimeout then w.freezeEngine e 0x04 0 5 else w
  | none => w

/-- What is left unacknowledged once a store of kind `why` is acknowledged: the acknowledgement is of the oldest such store,
and an engine acknowledges its stores in the order in which they reach it (R656; DEDUCED, log entry 136). -/
def ackedUpTo (why : StoreWhy) (l : List StoreOut) : List StoreOut :=
  match l.dropWhile fun x => x.why ≠ why with
  | _ :: r => r
  | [] => l

/-- ACK_TIMEOUT has run out for the store that is now acknowledged (R88, R660). -/
def storeLate (w : Work) (e : Nat) (why : StoreWhy) : Bool :=
  match w.engine? e with
  | some g => (match g.stores.find? fun x => x.why = why with | some x => w.lapsed x.at_ w.ackTimeout | none => false)
  | none => false

/-! Loads (R661). -/

/-- Load again what the copy of a handle still needs of the shard of engine `e`, or give the copy up (R312, R593). -/
def reloadCopy (w : Work) (c e : Nat) : Work :=
  match w.fs.copies.get? c, w.fs.segs.find fun _ s => s.copy = some c with
  | some k, some (_, s) => if k.done then w else (w.reloadShard e (fun q => wholePages q s.pages) (.handleCopy c)).getD (w.abandonCopy c)
  | _, _ => w

/-- Load again what a park copy needs of the shard of engine `e`; where no engine holds it any more, the copy fails
(R593, R859). -/
def reloadPark (w : Work) (s e : Nat) : Work :=
  match (w.seq s).park with
  | some r => (w.reloadShard e (fun q => w.parkParts s q r) (.park s)).getD (w.copyFailed s)
  | none => w

/-- A load that has failed, besides the fetches of packets (R461, R661, R855, R859). -/
def loadFailed (w : Work) (k : Nat) (l : LoadOut) : Work :=
  let w := w.dropLoad k
  match l.why with
  | .deep p step _ _ _ => w.deepFailed l p step
  | .park s => (w.freezeEngine l.engine 0x05 0 4).reloadPark s l.engine
  | .handleCopy c => (w.freezeEngine l.engine 0x05 0 4).reloadCopy c l.engine
  | .epochWord => (w.freezeEngine l.engine 0x07 0 6).modFs fun f => { f with twin := { f.twin with
      fencing := f.twin.fencing.filter (· ≠ l.engine) } }
  | .descriptor _ | .image _ => if w.mayIssue then w.freezeEngine l.engine 0x05 0 4 else w

/-- A load may be issued again: where the block issues at all, and the images of a SHADOW, which it fetches with its own
loads (R734, R743, R748, R749). What an ISOLATED ACTIVE may not issue waits (DESIGN CHOICE, log entry 137). -/
def mayLoad (w : Work) (why : LoadWhy) : Bool :=
  w.mayIssue || match why with
    | .image _ => w.follows
    | .epochWord => w.twinState = .taking
    | _ => false

/-- LOAD_RETRY: ACK_TIMEOUT has passed without the data of load `k` (R661). The flag says that the load has failed for
a packet that waits for it, with the context. -/
def loadRetry (w : Work) (k : Nat) : Work × Option Nat :=
  match w.fs.fab.loads.get? k with
  | none => (w, none)
  | some l =>
    if !w.fired l.at_ w.ackTimeout then (w, none)
    else if l.issues < fld (w.reg rFabTiming) 19 16 then
      if !w.mayLoad l.why then (w, none)
      else
        let w := (w.emit l.engine (.load l.engine l.addr l.len) 32 0).count cFabLoadRetry
        (w.modFs fun f => { f with fab := { f.fab with loads := f.fab.loads.set k { l with issues := l.issues + 1, at_ := w.now } } },
          none)
    else
      (w.loadFailed k l, match l.why with | .descriptor c | .image c => some c | _ => none)

end Work

end Sys2Proof.Machine
end

