-- ==== Sys2Proof/Machine/Pools.lean ====
section
/-! DEFINITION. Pools and engines by the steward's hand: attachment, detachment, freezes, thaws and envelopes (R204 to
R209, R271 to R274, R323 to R334, R363, R587, R654, R726). -/

namespace Sys2Proof.Machine

namespace Work

/-! POOL_ATTACH. -/

/-- R726: the pairing link shows a twin of the same aperture that is not empty, at an UNPAIRED instance. -/
def twinHolds (w : Work) : Bool :=
  match w.twinState, w.fs.twin.heartbeat with
  | .unpaired, some (h, t) =>
    !w.fired t (fld (w.reg rTwinCfg) 15 0) && h.fabBase = w.reg64 rFabBase && !h.empty
  | _, _ => false

/-- The refusals of POOL_ATTACH that need no descriptor (R205, R208, R726). -/
def attachRefusal (w : Work) (pool typ engine : Nat) : Option Cause :=
  if (w.engine? engine).isSome then some .exists_
  else if typ = 3 then some .encoding
  else match w.pool? pool with
    | some q => if q.typ ≠ typ then some .poolType else none
    | none => if w.twinHolds then some .twinState else none

/-- Acting on POOL_ATTACH: the descriptor's fetch begins (R204). -/
def actPoolAttach (w : Work) (i : QItem) : Work × Act :=
  let p := i.pkt
  match w.attachRefusal (p.opf 197 192) (p.opf 199 198) (p.opf 209 200) with
  | some c => (w, .answer (Ans.bad c))
  | none => (w.load (p.opf 209 200) (p.opf 287 224) 128 (.descriptor 0), .wait .descriptor)

/-- The lowest valid KV layout entry that carries a code (R587). -/
def layoutEntry (w : Work) (code : Nat) : Option Nat :=
  (List.range 16).find? fun i => bit (w.reg (kvlBase i)) 20 && fld (w.reg (kvlBase i)) 15 0 = code

/-- A KV layout entry whose POS_BYTES is a multiple of 64 and of 32 elements (R587). -/
def layoutOk (w : Work) (i : Nat) : Bool :=
  let pos := w.reg (kvlBase i + 0x14)
  match fld (w.reg (kvlBase i)) 19 16 with
  | 0 | 1 => pos % 64 = 0
  | 3 | 4 => pos % 64 = 0
  | _ => false

/-- The control block of an engine (R331, R332). -/
def controlBlock (epoch : Nat) (g : Engine) : List Byte :=
  leBytes 64 (pack [(0, 32, epoch), (64, 64, g.desc.saveAddr), (128, 32, g.desc.saveBytes), (192, 64, g.mboxStep),
    (256, 32, g.mboxNum), (288, 2, g.mboxCmd)])

/-- Create pool `p` for a first engine, with its pages, its share and its layout (R271, R272, R334, R363): none when no
share is left. -/
def createPool (w : Work) (p typ layout : Nat) (d : Desc) : Option Work :=
  let given := sumOf (w.fs.pools.map fun (_, q) => q.pages) + sumOf (w.fs.ghosts.map (·.2))
  let shares := sumOf (w.fs.pools.map fun (n, _) => fld (w.raw (rSched n)) 16 8)
  let want := fld (w.raw (rSched p)) 16 8
  let share := Nat.min want (256 - shares)
  let req := fld (w.raw (rPageCfg p)) 25 0
  let pages := Nat.min req (10484736 - given)
  if share = 0 then none
  else
    let w := w.count (cClamp 0) (b01 (want ≠ share) + b01 (req ≠ pages))
    let w := w.setReg (rSched p) (setFld (w.raw (rSched p)) 16 8 share)
    let q : Pool :=
      { typ := typ, pages := pages, kvLayout := d.kvLayout, vocabShards := d.vocabShards, kvShards := d.kvShards
        elem := fld (w.reg (kvlBase layout)) 19 16, kvOffset := w.reg64 (kvlBase layout + 0x08)
        pageBytes := w.reg (kvlBase layout + 0x10), posBytes := w.reg (kvlBase layout + 0x14)
        keepqOffset := w.reg64 (kvlBase layout + 0x18), unitShare := share }
    some (w.modFs fun f => { f with pools := f.pools.set p q
                                    units := { f.units with pools := f.units.pools.set p {} } })

/-- An engine begins its service in its pool: its control block is written, its rings and replay window start anew, and
the pool may be whole again (R143, R204, R331, R674, R860). -/
def beginService (w : Work) (e : Nat) (g : Engine) : Work :=
  let w := w.modFs fun f => { f with
    engines := f.engines.set e g, fab := { f.fab with windows := f.fab.windows.erase e } }
  match w.pool? g.pool with
  | none => w
  | some q =>
    (w.modPool g.pool fun q => { q with degraded := w.degradedNow g.pool q }).store e g.desc.ctrlAddr
      (controlBlock q.epoch g)

/-- The descriptor of a POOL_ATTACH has been fetched, or its fetch has failed (R204, R330, R587). -/
def attachDone (w : Work) (p : Packet) (f : Fetch) : Work × Ans :=
  let pool := p.opf 197 192
  let e := p.opf 209 200
  match w.attachRefusal pool (p.opf 199 198) e with
  | some c => (w, Ans.bad c)
  | none =>
    match f with
    | .failed => (w, Ans.bad .fabricRead)
    | .bytes bs =>
      let d := descFields bs
      let same := match w.pool? pool with
        | some q => q.kvLayout = d.kvLayout && q.vocabShards = d.vocabShards && q.kvShards = d.kvShards
        | none => true
      if bs.length ≠ 128 ∨ !d.ok ∨ !same then (w, Ans.bad .imageCheck)
      else match w.layoutEntry d.kvLayout with
      | none => (w, Ans.bad .encoding)
      | some l =>
        if !w.layoutOk l then (w, Ans.bad .encoding)
        else
          let made := if (w.pool? pool).isSome then some w else w.createPool pool (p.opf 199 198) l d
          match made with
          | none => (w, Ans.bad .noRoom)
          | some w =>
            let epoch := match w.pool? pool with | some q => q.epoch | none => 1
            (w.beginService e { pool := pool, desc := d }, { result := epoch % 2 ^ 32 })

/-! POOL_DETACH. -/

/-- Some plan of a pool, composed or delivered, includes one of the engines (R206). -/
def detaching (w : Work) (p : Nat) (es : List Nat) : Bool :=
  match w.pool? p with
  | some q => q.plans.any fun pl => pl.engines.any es.contains
  | none => false

/-- Acting on POOL_DETACH: the engines are in no further plan (R206, R208, R220). -/
def actPoolDetach (w : Work) (i : QItem) : Work × Act :=
  let p := i.pkt
  let pool := p.opf 197 192
  let stay := (w.poolEngines pool).filter fun (_, g) => !g.leaving
  let es := if p.opf 198 198 = 1 then stay.map (·.1) else (stay.filter fun (e, _) => e = p.opf 209 200).map (·.1)
  if (w.pool? pool).isNone ∨ (p.opf 198 198 = 0 ∧ es.isEmpty) then (w, .answer (Ans.bad .notAttached))
  else
    let w := (w.each es fun w e => w.modEngine e fun g => { g with leaving := true }).sweepPool pool
    if w.detaching pool es then (w, .wait (.detach pool es)) else (w, .answer {})

/-! ENGINE_FREEZE and ENGINE_THAW (R143, R207). -/

/-- Acting on ENGINE_FREEZE. -/
def actEngineFreeze (w : Work) (i : QItem) : Work × Act :=
  let e := i.pkt.opf 209 200
  if (w.engine? e).isNone then (w, .answer (Ans.bad .notAttached)) else (w.freezeEngine e 0x08 0 4, .answer {})

/-- Acting on ENGINE_THAW: the engine serves again as one newly attached. -/
def actEngineThaw (w : Work) (i : QItem) : Work × Act :=
  let e := i.pkt.opf 209 200
  match w.engine? e with
  | none => (w, .answer (Ans.bad .notAttached))
  | some g =>
    if !g.frozen then (w, .answer (Ans.bad .notFrozen))
    else
      (w.beginService e { pool := g.pool, desc := g.desc, leaving := g.leaving }, .answer {})

/-! ENVELOPE_SET (R193, R209, R654). -/

/-- Acting on ENVELOPE_SET: the envelope and the mode are in force once the reply is released (R209). -/
def actEnvelopeSet (w : Work) (i : QItem) : Work × Act :=
  let p := i.pkt
  let watts := Nat.min 8000 (p.opf 229 216)
  let t := p.opf 209 200
  let w := w.count (cClamp 0) (b01 (8000 < p.opf 229 216))
  if p.opf 192 192 = 1 then
    if (w.engine? t).isNone then (w, .answer (Ans.bad .notAttached))
    else ((w.latch p.cseq (.word (rEngEnv t) (w.raw (rEngEnv t)))).setReg (rEngEnv t) watts, .answer {})
  else if p.opf 193 193 = 1 ∧ p.opf 233 232 = 3 then (w, .answer (Ans.bad .encoding))
  else if (w.pool? t).isNone then (w, .answer (Ans.bad .notAttached))
  else
    let old := w.raw (rPoolEnv t)
    let mode := if p.opf 193 193 = 1 then p.opf 233 232 else fld old 15 14
    ((w.latch p.cseq (.word (rPoolEnv t) old)).setReg (rPoolEnv t) (watts + mode * 2 ^ 14), .answer {})

end Work

end Sys2Proof.Machine
end

