-- ==== Sys2Proof/Machine/Steward.lean ====
section
/-! DEFINITION. Model slots, variants, mask images and tenant contexts by the steward's hand (R196 to R201, R210 to R213,
R266, R319, R382, R383, R387, R419, R479, R495 to R501, R620 to R630, R867, R909). -/

namespace Sys2Proof.Machine

/-- A model image inside the ranges of R266, R340, R383 and R419, its route descriptors well formed (R382). -/
def ModelImage.ok (i : ModelImage) : Bool :=
  let route (r : RouteDesc) : Bool :=
    1 ≤ r.experts && r.experts ≤ 4096 && 1 ≤ r.groups && r.groups ≤ 256 && r.experts % r.groups = 0 &&
      (r.groupTop = 1 || (r.groupTop = 2 && r.groups ≠ 1)) && 1 ≤ r.k && r.k ≤ 8 && r.k ≤ r.experts
  let rec apart (l : List RouteDesc) : Bool :=
    match l with
    | [] => true
    | r :: t => t.all (fun x => x.layer ≠ r.layer) && apart t
  (i.s = 64 || i.s = 128 || i.s = 256) && 2 ≤ i.vocab && i.vocab ≤ 1048576 && i.routes.length ≤ 256 &&
    i.routes.all route && apart i.routes && i.template.all fun t => t.2.2 ≤ 2

/-- Every expert of one set of private-expert ranges lies in another (R200). -/
def rangesIn (a b : List (Nat × Nat × Nat)) : Bool :=
  a.all fun (l, x, y) => (List.range (y + 1 - x)).all fun k => b.any fun (m, u, v) => m = l && u ≤ x + k && x + k ≤ v

namespace Work

/-! MODEL_LOAD (R196, R197, R266, R319, R383, R419, R909). -/

/-- A model slot holds a live sequence. -/
def slotInUse (w : Work) (s : Nat) : Bool := w.fs.rqt.any fun (_, e) => e.st.live && e.model = s

/-- The handles of a model slot, or of one variant of it, go (R319). -/
def dropHandles (w : Work) (s : Nat) (v : Option Nat) : Work :=
  w.removeHandles fun _ r => match w.fs.copies.get? r.copy with
    | some k => k.model = s && (match v with | some v => k.variant = v | none => true)
    | none => false

/-- The slot takes a new image, or none: its variants return to R909's state and its handles go (R319). -/
def setModel (w : Work) (s : Nat) (img : Option ModelImage) (fallback : Option Nat) : Work :=
  (w.dropHandles s none).modFs fun f => { f with models := f.models.set s { image := img, fallback := fallback } }

/-- The fallback slot that a MODEL_LOAD designates: FALLBACK_SLOT counts, for the refusal of R197 too, only where its
enable bit is 1 (DEDUCED, log entry 91). -/
def fallbackField (p : Packet) : Option Nat := if p.opf 197 197 = 1 then some (p.opf 204 200) else none

/-- The last test of MODEL_LOAD, and its effect. -/
def finishModel (w : Work) (p : Packet) (img : Option ModelImage) : Work × Ans :=
  let s := p.opf 196 192
  if w.slotInUse s then (w, Ans.bad .inUse)
  else (w.setModel s img (if img.isSome then fallbackField p else none), {})

/-- The bytes of an image are those that the packet names (R196). -/
def imageBytesOk (p : Packet) (bs : List Byte) : Bool :=
  bs.length = p.opf 319 288 && (crc64 bs).toNat = p.opf 383 320

/-- Acting on MODEL_LOAD: the fetch begins, or the slot is unloaded. -/
def actModelLoad (w : Work) (i : QItem) : Work × Act :=
  let p := i.pkt
  if fallbackField p = some (p.opf 196 192) then (w, .answer (Ans.bad .encoding))
  else if p.opf 319 288 = 0 then
    let (w, a) := w.finishModel p none
    (w, .answer a)
  else (w.load (Config.imageHome (p.opf 287 224)) (p.opf 287 224) (p.opf 319 288) (.image 0), .wait .image)

/-- The image of a MODEL_LOAD has been fetched, or its fetch has failed. -/
def modelLoadDone (w : Work) (p : Packet) (f : Fetch) (img : Option ImageIn) : Work × Ans :=
  match f with
  | .failed => (w, Ans.bad .fabricRead)
  | .bytes bs =>
    match img.map ImageIn.parsed with
    | none => (w, Ans.bad .imageCheck)
    | some m =>
      if !imageBytesOk p bs ∨ !m.ok then (w, Ans.bad .imageCheck)
      else if 262144 < p.opf 319 288 then (w, Ans.bad .noRoom)
      else w.finishModel p (some m)

/-! VARIANT_SET (R200, R201, R387, R909). -/

/-- What stands for a variant: as named by VARIANT_SET, or R909's state. -/
def variantOf (w : Work) (s v : Nat) : Variant :=
  match (w.slot s).variants.get? v with
  | some x => x
  | none => { enabled := decide (v = 0) && (w.image? s).isSome, grants := 0, ranges := [] }

/-- A live sequence uses the variant. -/
def variantInUse (w : Work) (s v : Nat) : Bool := w.fs.rqt.any fun (_, e) => e.st.live && e.model = s && e.variant = v

/-- Write a variant. -/
def setVariant (w : Work) (s v : Nat) (x : Variant) : Work :=
  w.modFs fun f => { f with models := f.models.modD s {} fun m => { m with variants := m.variants.set v x } }

/-- A range that VARIANT_SET can take (R387). -/
def rangeOk (w : Work) (s : Nat) (r : Nat × Nat × Nat) : Bool :=
  match w.image? s with
  | some i => i.routes.any fun d => d.layer = r.1 && r.2.1 ≤ r.2.2 && r.2.2 < d.experts
  | none => false

/-- Withdraw a variant (R201). -/
def variantWithdraw (w : Work) (s v : Nat) : Work :=
  let x := w.variantOf s v
  if x.enabled then w.setVariant s v { x with enabled := false, grants := 0 } else w

/-- Enable a variant with its grants and private experts (R200, R201, R319, R387). One of a slot without an image is taken
where it names no range (DESIGN CHOICE, log entry 134). -/
def variantEnable (w : Work) (s v : Nat) (p : Packet) : Work × Ans :=
  let l := variantRanges p
  let old := (w.variantOf s v).ranges
  let changed := !(rangesIn l old && rangesIn old l)
  if !l.all (w.rangeOk s) then (w, Ans.bad .encoding)
  else if changed && w.variantInUse s v then (w, Ans.bad .inUse)
  else
    let w := (w.whenDo changed fun w => w.latch p.cseq (.ranges s v old)).setVariant s v
      { enabled := true, grants := bitmap p.body, ranges := l }
    (w.whenDo changed fun w => w.dropHandles s (some v), {})

/-- Acting on VARIANT_SET. -/
def actVariantSet (w : Work) (i : QItem) : Work × Act :=
  let p := i.pkt
  let s := p.opf 196 192
  let v := p.opf 207 200
  if p.opf 208 208 = 0 then (w.variantWithdraw s v, .answer {})
  else
    let (w, a) := w.variantEnable s v p
    (w, .answer a)

/-! STENCIL_LOAD and STENCIL_DROP (R196 to R199, R479, R495 to R501). -/

/-- The partition that an image ID belongs to (R495). -/
def partitionOf (w : Work) (id : Nat) : Option Nat :=
  (List.range 16).find? fun i =>
    let p := w.maskPart i
    p.firstId ≤ id && id < p.firstId + p.idCount

/-- Change the mask store's images. -/
def modMasks (w : Work) (g : Tbl MaskImage → Tbl MaskImage) : Work :=
  w.modFs fun f => { f with masks := { f.masks with images := g f.masks.images } }

/-- Users of a mask image. -/
def maskUsers (w : Work) (id : Nat) : Nat := match w.fs.masks.images.get? id with | some m => m.users | none => 0

/-- Acting on STENCIL_LOAD: the fetch begins, or the image is removed (R500). -/
def actStencilLoad (w : Work) (i : QItem) : Work × Act :=
  let p := i.pkt
  let id := p.opf 203 192
  if p.opf 319 288 = 0 then
    if 0 < w.maskUsers id then (w, .answer (Ans.bad .inUse)) else (w.modMasks fun t => t.erase id, .answer {})
  else (w.load (Config.imageHome (p.opf 287 224)) (p.opf 287 224) (p.opf 319 288) (.image 0), .wait .image)

/-- The image of a STENCIL_LOAD has been fetched, or its fetch has failed. -/
def stencilLoadDone (w : Work) (p : Packet) (f : Fetch) : Work × Ans :=
  let id := p.opf 203 192
  match f with
  | .failed => (w, Ans.bad .fabricRead)
  | .bytes bs =>
    match (if imageBytesOk p bs then parseMask bs else none) with
    | none => (w, Ans.bad .imageCheck)
    | some m =>
      match w.partitionOf id with
      | none => (w, Ans.bad .noRoom)
      | some k =>
        let held := sumOf (((w.partImages k).filter fun (n, _) => n ≠ id).map fun (_, y) => y.blocks)
        if (w.maskPart k).blocks < held + m.blocks then (w, Ans.bad .noRoom)
        else if 0 < w.maskUsers id then (w, Ans.bad .inUse)
        else (w.modMasks fun t => t.set id { m with part := k, grants := bitmap p.body }, {})

/-- Acting on STENCIL_DROP (R199). -/
def actStencilDrop (w : Work) (i : QItem) : Work × Act :=
  let id := i.pkt.opf 203 192
  let w := match w.fs.masks.images.get? id with
    | none => w
    | some m =>
      if m.withdrawn then w
      else if m.users = 0 then w.modMasks fun t => t.erase id
      else w.modMasks fun t => t.set id { m with withdrawn := true, grants := 0 }
  (w, .answer {})

/-! TENANT_SET, TENANT_THAW and TENANT_RESET (R101, R107, R119, R135, R136, R210 to R213, R620 to R630). -/

/-- The target context: HANDLE [7:0]. -/
def targetOf (p : Packet) : Nat := p.handle.toNat % 256

/-- The reserves of every context with a new setting for one of them exceed what exists (R211). -/
def overReserved (w : Work) (c : Nat) (t : Tenant) : Bool :=
  let others := w.fs.ctxs.filter fun (k, _) => k ≠ c
  let sum (g : Tenant → Nat) : Nat := g t + sumOf (others.map fun (_, x) => g x.tenant)
  65536 < sum (·.resPrefill) || 65536 < sum (·.resDecode) || 65536 < sum (·.resShared) ||
    w.extentTotal < 16 * sum (·.resPark)

/-- Install a key (R101, R104, R107, R620). -/
def installKey (w : Work) (c : Nat) (key : BitVec 128) : Work :=
  w.modHctx c fun h => { h with
    key := some key, prevKey := h.key, graceAt := none, keyNum := h.keyNum + 1, acceptedPrev := h.accepted, accepted := 0
    keyAged := false, keyExpired := false
    hiSeq := if h.key.isSome then h.hiSeq else 0, hiMac := if h.key.isSome then h.hiMac else none }

/-- The queue depth of a TENANT_SET: at once where the context has no key, else at its next reset (R119). -/
def setDepth (w : Work) (c d : Nat) : Work :=
  w.modHctx c fun h => if h.key.isNone then { h with sqDepth := d, nextDepth := none } else { h with nextDepth := some d }

/-- Acting on TENANT_SET. -/
def actTenantSet (w : Work) (i : QItem) : Work × Act :=
  let p := i.pkt
  let c := targetOf p
  let (t, k) := clampTenant (tenantFields p.body)
  let w := w.count (cClamp 0) k
  if c = 0 then (w, .answer (Ans.bad .targetSteward))
  else if w.overReserved c t then (w, .answer (Ans.bad .overReserved))
  else
    let w := (w.modFctx c fun x => { x with tenant := t }).setDepth c t.sqDepth
    (w.whenDo (p.opf 192 192 = 1) fun w => w.installKey c (BitVec.ofNat 128 (ofLe (p.body.take 16))), .answer {})

/-- Acting on TENANT_THAW. -/
def actTenantThaw (w : Work) (i : QItem) : Work × Act :=
  let c := targetOf i.pkt
  if c = 0 then (w, .answer (Ans.bad .targetSteward))
  else if !(w.hctx c).frozen then (w, .answer (Ans.bad .notFrozen))
  else (w.thaw c, .answer {})

/-- Every packet of the context that was being acted on has had its reply released (step 2). -/
def resetReady (w : Work) (c : Nat) : Bool :=
  let h := w.hctx c
  h.acting.isNone && h.stream.all fun i => match i.msg with | .reply r => r.kind = 1 | .ring _ => true

/-- The deadline counters of a context (R577). -/
def deadlineCounters (c : Nat) : List Nat :=
  [cTtftSum c, cTtftCount c, cTtftLate c, cTbtStrike c, cDlmMiss c, cFbAdmit c, cFbReroute c]

/-- Steps 3 to 7 of a TENANT_RESET; `keyToo` for an F2 fault (R136, R629, R867), whose tear-down lifts a freeze as a
TENANT_RESET does (DEDUCED, log entry 92). -/
def resetSteps (w : Work) (c : Nat) (keyToo : Bool) : Work :=
  let w := (w.dropQueue c).whenDo (w.hctx c).frozen fun w => w.event 17 0x0011 true c 1
  let w := w.modHctx c fun h =>
    let h := { h with hiSeq := 0, hiMac := none, frozen := false, sqDepth := h.nextDepth.getD h.sqDepth, nextDepth := none
                      resetting := false, f2 := false, lastPort := none }
    if keyToo then { h with key := none, prevKey := none, graceAt := none, keyAged := false, keyExpired := false } else h
  let w := (w.endAll fun k => k = c).removeHandles fun h _ => prefixOwner h = c
  let w := (deadlineCounters c).foldl (fun w o => w.eff (.clear o)) w
  w.notice c { status := stResetDone }

/-- Acting on TENANT_RESET: steps 1 and 2, and the others when nothing is being acted on. -/
def actTenantReset (w : Work) (i : QItem) : Work × Act :=
  let c := targetOf i.pkt
  if c = 0 then (w, .answer (Ans.bad .targetSteward))
  else
    let w := w.modHctx c fun h => { h with resetting := true }
    if w.resetReady c then (w.resetSteps c false, .answer {}) else (w, .wait (.reset c))

/-- An F2 fault of a context (R849, R854, R867). -/
def faultF2 (w : Work) (c store : Nat) : Work :=
  let w := (w.fault 2 17 0x20 c 0 0 store).modHctx c fun h => { h with resetting := true, f2 := true }
  if w.resetReady c then w.resetSteps c true else w

end Work

end Sys2Proof.Machine
end

