-- ==== Sys2Proof/Machine/Twin.lean ====
section
/-! DEFINITION. The pair: what the ACTIVE mirrors, what the SHADOW applies, heartbeats, attach and detach, loss of the
twin, takeover (R722 to R757, R843, R869, R870). -/

namespace Sys2Proof.Machine

/-! What changed (R732, R740). -/

/-- The indices at which two tables differ, with the new entries; `fuel` bounds their number. -/
def tblChanges {α : Type} [DecidableEq α] (fuel : Nat) (a b : Tbl α) : List (Nat × Option α) :=
  match fuel with
  | 0 => []
  | n + 1 =>
    match a, b with
    | [], b => b.map fun (i, x) => (i, some x)
    | a, [] => a.map fun (i, _) => (i, none)
    | (i, x) :: r, (j, y) :: t =>
      if i < j then (i, none) :: tblChanges n r ((j, y) :: t)
      else if i = j then if x = y then tblChanges n r t else (i, some y) :: tblChanges n r t
      else (j, some y) :: tblChanges n ((i, x) :: r) t

/-- The entries of a new table that an old one lacks or holds differently, and those that are gone. -/
def changed {α : Type} [DecidableEq α] (a b : Tbl α) : List (Nat × Option α) := tblChanges (a.length + b.length + 1) a b

/-- A sequence's state as a frame carries it: a park copy's bytes travel in PARK_DATA (R742). -/
def Seq.plain (x : Seq) : Seq := { x with park := x.park.map fun r => { r with bytes := [] } }
/-- A handle copy without its bytes. -/
def HandleCopy.plain (k : HandleCopy) : HandleCopy := { k with bytes := [] }
/-- A pool without its windows, which are no part of the mirror. -/
def Pool.plain (p : Pool) : Pool := { p with redWin := [], redSat := [], atomWin := [] }
/-- An engine without its stores outstanding, which are the instance's own. -/
def Engine.plain (g : Engine) : Engine := { g with stores := [] }
/-- A context's host-side state without what travels on its own: packets, replies. -/
def HsCtx.plain (h : HsCtx) : HsCtx := { h with queue := [], acting := none, stream := [], f2 := false, resetting := false }

/-- An accounting or deadline counter of a context (R740). -/
def mirroredCtr (off : Nat) : Bool :=
  match regionOf false off with
  | .fabCtx _ o => (0x80 ≤ o && o < 0xB8) || (0x100 ≤ o && o < 0x160)
  | _ => false

/-- The packets of a context that wait or are being acted on. -/
def HsCtx.open_ (h : HsCtx) : List Word :=
  (h.queue.map fun i => i.pkt.cseq) ++ (match h.acting with | some (i, _) => [i.pkt.cseq] | none => [])

/-- The forwarded packets that leave a context's queue in a command without a reply (R131, R629, R732). -/
def droppedBy (old new : Machine) : List (Nat × Word) :=
  (new.fs.twin.forwarded.map fun (c, l) =>
    let was := old.hs.ctxs.getD c (HsCtx.initial c)
    let is := new.hs.ctxs.getD c (HsCtx.initial c)
    (l.filter fun n => !is.open_.contains n && (was.open_.contains n || !(old.fs.twin.forwarded.getD c []).contains n)).map
      fun n => (c, n)).flatten

/-- The settings of TRACE_SET and COUNTER_MODE. -/
def traceOf (m : Machine) (ae2 : Bool) : Decision :=
  let o := m.fs.obu
  .traceSet o.budget o.digestEn o.opcountEn o.layer o.operator o.eventEn ae2

/-- The decisions between two states of the mirrored part (R732, R740), with the observation unit's stores of each. What a
host-side reset clears is no decision. -/
def decisions (old new : Machine) (oldObs newObs : Obs) : List Decision :=
  let oldCtr := oldObs.ctr
  let newCtr := newObs.ctr
  let a := old.fs
  let b := new.fs
  let slots := (changed a.rqt b.rqt).map (·.1)
  let only := ((changed (a.seqs.mapV fun _ x => x.plain) (b.seqs.mapV fun _ x => x.plain)).map (·.1)).filter fun s => !slots.contains s
  let entry (s : Nat) : Decision := .entry s (b.rqt.getD s {}) ((b.seqs.get? s).map Seq.plain) 0 0 0
  let fresh := b.twin.replies.filter fun r => !a.twin.replies.contains r
  let gone := a.twin.replies.filter fun r => !b.twin.replies.contains r
  (changed a.ctxs b.ctxs).map (fun (n, x) => .ctx n (x.getD {})) ++
  (changed a.models b.models).map (fun (n, x) => .model n (x.getD {})) ++
  (changed a.masks.images b.masks.images).map (fun (n, x) => .mask n x) ++
  (changed a.masks.parts b.masks.parts).map (fun (n, x) => .maskPart n (x.getD {})) ++
  ((changed a.cfg b.cfg).filter fun (n, _) => n ≠ rFabSrc).map (fun (n, x) => .cfg n x) ++
  (changed (a.copies.mapV fun _ k => k.plain) (b.copies.mapV fun _ k => k.plain)).map (fun (n, x) => .copy n x) ++
  (changed a.handles b.handles).map (fun (n, x) => .handle n x 0) ++
  (changed a.segs b.segs).map (fun (n, x) => .seg n x) ++
  (changed (a.engines.mapV fun _ g => g.plain) (b.engines.mapV fun _ g => g.plain)).map (fun (n, x) => .engine n x) ++
  (changed (a.pools.mapV fun _ p => p.plain) (b.pools.mapV fun _ p => p.plain)).map (fun (n, x) => .pool n x) ++
  (slots ++ only).map entry ++
  (if a.freshSlot = b.freshSlot && a.freeSlots = b.freeSlots && a.retired = b.retired then []
    else [.slots b.freshSlot b.freeSlots b.retired]) ++
  (if a.nextSeg = b.nextSeg && a.nextCopy = b.nextCopy && a.ghosts = b.ghosts && a.ratios = b.ratios then []
    else [.ids b.nextSeg b.nextCopy b.ghosts b.ratios]) ++
  (if a.park.used = b.park.used && a.park.lost = b.park.lost && a.park.guests = b.park.guests then []
    else [.park b.park.used b.park.lost b.park.lastPort b.park.guests]) ++
  (if a.fault = b.fault then [] else [.fault b.fault.cls b.fault.cause b.fault.obj]) ++
  (if new.hs.up then
    ((changed (old.hs.ctxs.mapV fun _ h => h.plain) (new.hs.ctxs.mapV fun _ h => h.plain)).filter fun (n, _) => 0 < n).map
      fun (n, x) => .hostCtx n (x.getD (HsCtx.initial n))
    else []) ++
  (if traceOf old oldObs.ae2 = traceOf new newObs.ae2 then [] else [traceOf new newObs.ae2]) ++
  (if new.hs.up && old.hs.keyGrace ≠ new.hs.keyGrace then [.keyGrace new.hs.keyGrace] else []) ++
  (if new.hs.up then (droppedBy old new).map fun (c, n) => .dropped c n else []) ++
  ((changed oldCtr newCtr).filter fun (n, _) => mirroredCtr n).map (fun (n, x) => .counter n (x.getD 0)) ++
  fresh.map (fun (port, r) => .decided r.ctx (BitVec.ofNat 32 r.cseq) port r) ++
  gone.map (fun (_, r) => .released r.ctx (BitVec.ofNat 32 r.cseq))

/-- The state that BULK frames carry: everything that differs from an empty instance (R744). -/
def bulk (m : Machine) (o : Obs) : List Decision :=
  .mirror m.fs.twin.mirror :: .keyGrace m.hs.keyGrace :: traceOf m o.ae2 :: decisions {} m {} o

namespace Work

/-- Change the pairing unit. -/
def modTwin (w : Work) (g : Twin → Twin) : Work := w.modFs fun f => { f with twin := g f.twin }

/-! Items held under R733, and copies that the twin writes too (R742). -/

/-- Release the held stores whose frames are acknowledged, in order; `fuel` bounds their number. -/
def releaseStores (fuel : Nat) (w : Work) : Work :=
  match fuel with
  | 0 => w
  | n + 1 =>
    match w.fs.twin.heldStores with
    | [] => w
    | h :: r =>
      if w.holdsItems && w.fs.twin.link.acked < h.need then w
      else
        let w := w.modTwin fun t => { t with heldStores := r }
        (w.sendStore h.targets h.bytes h.why).releaseStores n

/-- Release the held relays whose frames are acknowledged, in order; `fuel` bounds their number (R550). -/
def releaseRelays (fuel : Nat) (w : Work) : Work :=
  match fuel with
  | 0 => w
  | n + 1 =>
    match w.fs.twin.heldRelays with
    | [] => w
    | (need, m, num, x) :: r =>
      if w.holdsItems && w.fs.twin.link.acked < need then w
      else ((w.modTwin fun t => { t with heldRelays := r }).sendRelayNow m num x).releaseRelays n

/-- What acknowledgements of the twin let go on, or the end of the pair. A SHADOW takes the end of a copy from the ACTIVE
(R734). -/
def settleAcks (w : Work) : Work :=
  if !(w.mirrors || w.twinState = .unpaired) then w
  else
  let ok (n : Nat) : Bool := !w.mirrors || n ≤ w.fs.twin.link.acked
  let w := if w.twinState = .isolated then w
    else (w.releaseStores w.fs.twin.heldStores.length).releaseRelays w.fs.twin.heldRelays.length
  let parked := w.fs.seqs.keys fun _ x => match x.park with
    | some { copy := .mirroring n, .. } => ok n
    | _ => false
  let w := w.each parked finishCopy
  let copies := w.fs.copies.keys fun _ k => match k.mirrorAt with | some n => ok n | none => false
  w.each copies finishHandleCopy

/-- An ACTIVE leaves its pair and works alone: what R733 held goes on (R746). -/
def leavePair (w : Work) : Work :=
  let w := (w.enterTwin .unpaired).setNeeds fun _ => 0
  (w.modTwin fun t => { t with
    mirror := 0, lost := false, replies := [], forwarded := [], bulkEnd := 0
    link := { t.link with nextSeq := 1, taken := 0, acked := 0, unacked := [], ackCap := none } }).settleAcks

/-! The SHADOW (R734 to R743). -/

/-- Keep one's own bytes of a park record or copy at the same extents. -/
def ownParkBytes (old : Option Seq) (x : Seq) : Seq :=
  match x.park, old with
  | some r, some { park := some o, .. } =>
    if r.extents = o.extents then { x with park := some { r with bytes := o.bytes } } else x
  | _, _ => x

/-- Apply a decision of the ACTIVE (R734, R735, R740). -/
def applyDecision (w : Work) (d : Decision) : Work :=
  let at_ (since : Nat) : Nat := w.now - w.edges since
  let tbl {α : Type} (t : Tbl α) (k : Nat) (x : Option α) : Tbl α := match x with | some a => t.set k a | none => t.erase k
  match d with
  | .entry s e x since remaining sinceEmit =>
    let e := { e with
      admitAt := at_ since, lastEmitAt := at_ sinceEmit
      deadline := if e.deadline = 0 then 0 else w.now + w.edges (remaining - 5) }
    -- the park TTL runs from a point in the past: its remainder loses the link allowance of R83 too
    let x := x.map fun x => ownParkBytes (w.fs.seqs.get? s) { x.times (fun n => at_ (n + 5)) with stallAt := none, deadlineFrom := w.now }
    w.modFs fun f => { f with rqt := f.rqt.set s e, seqs := tbl f.seqs s x }
  | .pool n p =>
    let p := p.map (Pool.times at_ fun n => w.now + w.edges (n - 5))
    w.modFs fun f => { f with
      pools := tbl f.pools n p
      units := { f.units with pools := if p.isSome then (if f.units.pools.has n then f.units.pools else f.units.pools.set n {})
        else f.units.pools.erase n } }
  | .engine n e =>
    let e := e.map fun e => { e with atomic := none, stores := [], nextAseq := match w.engine? n with | some o => o.nextAseq | none => 0 }
    w.modFs fun f => { f with engines := tbl f.engines n e }
  | .seg n s => w.modFs fun f => { f with segs := tbl f.segs n (s.map fun g => { g with lastRef := at_ g.lastRef }) }
  | .copy n c =>
    let c := c.map fun k => match w.fs.copies.get? n with
      | some o => if o.extents = k.extents then { k with bytes := o.bytes } else k
      | none => k
    w.modFs fun f => { f with copies := tbl f.copies n c }
  | .handle k h left =>
    let h := h.map fun r => { r with expiry := r.expiry.map fun _ => w.now + w.edges (left - 5), setAt := w.now }
    w.modFs fun f => { f with handles := tbl f.handles k h }
  | .model s m => w.modFs fun f => { f with models := f.models.set s m }
  | .mask id i => w.modFs fun f => { f with masks := { f.masks with images := tbl f.masks.images id i } }
  | .maskPart n p => w.modFs fun f => { f with masks := { f.masks with parts := f.masks.parts.set n p } }
  | .ctx n c => w.modFs fun f => { f with ctxs := f.ctxs.set n c }
  | .cfg off v => w.modFs fun f => { f with cfg := tbl f.cfg off v }
  | .park used lost port guests =>
    w.modFs fun f => { f with park := { f.park with
      used := used, lastPort := port, guests := guests
      lost := if f.twin.mirror = 1 then Tbl.merge (f.park.lost.length + lost.length + 1) f.park.lost lost else f.park.lost } }
  | .slots fresh free retired => w.modFs fun f => { f with freshSlot := fresh, freeSlots := free, retired := retired }
  | .ids seg copy ghosts ratios => w.modFs fun f => { f with nextSeg := seg, nextCopy := copy, ghosts := ghosts, ratios := ratios }
  | .counter off v => w.eff (.setCtr off v)
  | .hostCtx n h => w.modHctx n fun o => { h with
      queue := o.queue, acting := o.acting, stream := o.stream, lastPort := o.lastPort
      graceAt := h.graceAt.map fun t => w.hsNow - w.edges t }
  | .decided c cseq port r =>
    w.modTwin fun t => { t with
      waiting := t.waiting.filter fun i => !(i.pkt.ctx.toNat = c && i.pkt.cseq = cseq), replies := t.replies ++ [(port, r)] }
  | .released c cseq =>
    w.modTwin fun t => { t with
      replies := t.replies.filter fun (_, r) => !(r.ctx = c && r.cseq ≤ cseq.toNat), released := t.released.set c cseq }
  | .fault _ _ _ => w
  | .imageOutcome _ _ _ _ => w
  | .lost x => w.modFs fun f => { f with park := { f.park with lost := f.park.lost.set x () } }
  | .mirror m => w.modTwin fun t => { t with mirror := m }
  | .dropped c cseq => w.modTwin fun t => { t with
      waiting := t.waiting.filter fun i => !(i.pkt.ctx.toNat = c && i.pkt.cseq = cseq) }
  | .keyGrace n => w.modHs fun h => { h with keyGrace := n }
  | .traceSet b d o l op en ae2 =>
    let w := (w.modObu fun u => { u with
      budget := b, digestEn := d, opcountEn := o, layer := l, operator := op, eventEn := en }).eff (.eventEn en)
    w.whenDo (w.obs.ae2 ≠ ae2) fun w => w.eff (.mode ae2)

/-- The two outcomes of a forwarded image load are compared once both are known (R743). -/
def imageOutcome (w : Work) (c : Nat) (cseq : Word) (status result : Nat) (own : Bool) : Work :=
  match w.fs.twin.outcomes.find? fun o => o.1 = c && o.2.1 = cseq && o.2.2.2.2 ≠ own with
  | some o =>
    let w := w.modTwin fun t => { t with outcomes := t.outcomes.filter fun x => x ≠ o }
    if o.2.2.1 = status ∧ o.2.2.2.1 = result then w else w.enterTwin .detached
  | none => w.modTwin fun t => { t with outcomes := t.outcomes ++ [(c, cseq, status, result, own)] }

/-! Attach, detach and TAKEOVER (R744 to R748, R751). -/

/-- The heartbeat of the pairing port meets the conditions of R744 that concern its constants. -/
def beatMatches (w : Work) (h : Heartbeat) : Bool :=
  h.state = TwinState.unpaired.code && h.version = 0x00030100 && h.config = b01 w.idn.isM &&
    h.fabBase = w.reg64 rFabBase && h.srcId ≠ w.reg rFabSrc

/-- Acting on TWIN_ATTACH: the conditions, and the start (R744). The BULK frames follow in the same step. -/
def actTwinAttach (w : Work) (i : QItem) : Work × Act :=
  let mode := i.pkt.opf 192 192
  match w.fs.twin.heartbeat with
  | some (h, _) =>
    if w.twinState = .unpaired && w.ready && w.beatMatches h && h.ready && h.empty &&
        (mode = 0 || h.parkGib = w.fs.park.gib) then
      let w := (w.modTwin fun t => { t with
        mirror := mode, replies := [], forwarded := []
        link := { t.link with nextSeq := 1, taken := 0, acked := 0, unacked := [], ackCap := none } }).enterTwin .attachingA
      (w, .wait (.attach w.now))
    else (w, .answer (Ans.bad .twinState))
  | none => (w, .answer (Ans.bad .twinState))

/-- TWIN_ATTACH_DONE: the last BULK or PARK_DATA frame is acknowledged (R744). -/
def twinAttachDone (w : Work) : Work :=
  if w.twinState = .attachingA ∧ w.fs.twin.bulkEnd ≤ w.fs.twin.link.acked then w.enterTwin .pairedA else w

/-- Acting on TWIN_DETACH (R746). -/
def actTwinDetach (w : Work) : Work × Act :=
  match w.twinState with
  | .attachingA | .pairedA | .isolated => (w.leavePair, .answer {})
  | .attachingS | .pairedS => (w.enterTwin .detached, .answer {})
  | _ => (w, .answer (Ans.bad .twinState))

/-! Takeover (R751 to R756). -/

/-- Issue, or issue again, the compare-and-swap of an engine's EPOCH word (takeover, step 3). -/
def issueFence (w : Work) (e : Nat) : Work :=
  match w.engine? e with
  | none => w
  | some g =>
    match w.pool? g.pool with
    | none => w
    | some q =>
      let (n, tries) := match g.atomic with
        | some (n, k, _) => (n, k + 1)
        | none => ((g.nextAseq + 1) % 2 ^ 32, 1)
      let w := w.modEngine e fun g => { g with atomic := some (n, tries, w.now), nextAseq := n }
      w.emit e (.cas e (w.reg rFabSrc) n g.desc.ctrlAddr q.epoch (q.epoch + 1)) 32 0

/-- The takeover begins: TAKING, one takeover more, and a fence at every engine that is not frozen (steps 1 to 3). -/
def beginTakeover (w : Work) : Work :=
  let es := w.fs.engines.keys fun _ g => !g.frozen
  let w := (w.enterTwin .taking).modTwin fun t => { t with
    takeovers := (t.takeovers + 1) % 2 ^ 32, lost := false, fencing := es, fenced := w.fs.pools.length }
  w.each es issueFence

/-- Acting on TAKEOVER (R751). -/
def actTakeover (w : Work) : Work × Act :=
  if w.twinState = .pairedS then (w.beginTakeover, .wait .takeover) else (w, .answer (Ans.bad .twinState))

/-- An engine's fence has ended. -/
def endFence (w : Work) (e : Nat) : Work :=
  (w.modTwin fun t => { t with fencing := t.fencing.filter (· ≠ e) }).modEngine e fun g => { g with atomic := none }

/-- An engine fails its fence: it is frozen with an F3 fault (step 4, R855). -/
def failFence (w : Work) (e : Nat) : Work := (w.freezeEngine e 0x07 0 6).endFence e

/-- The retry timer of an atomic has fired before the reply that now arrives: the reply loses to it (R88, R691). -/
def atomicLate (w : Work) (e aseq : Nat) : Bool :=
  match w.engine? e with
  | some { atomic := some (n, _, t), .. } => decide (n = aseq) && w.lapsed t (fld (w.reg rFabAtomic) 15 0)
  | _ => false

/-- ATOMIC_REPLY: the answer to an atomic that the AE-3 issued (R691, step 4). After EXPIRED the word is loaded; no command
carries what the load brings, so that the fence goes on by the retries of the atomic or ends with the failure of the load
(DESIGN CHOICE, log entry 140). -/
def atomicReply (w : Work) (e aseq : Nat) (st : AtomicStatus) (value : Nat) : Work :=
  match w.engine? e with
  | none => w
  | some g =>
    match g.atomic, w.pool? g.pool with
    | some (n, _, _), some q =>
      if n ≠ aseq ∨ g.frozen then w
      else
        let w := w.recv e 32
        match st with
        | .applied | .replayed => if value = q.epoch then (w.endFence e).count cTwinFenced else w.failFence e
        | .refused => w.failFence e
        | .expired => (w.emit e (.load e g.desc.ctrlAddr 4) 32 0).openLoad e g.desc.ctrlAddr 4 .epochWord
    | _, _ => w

/-- ATOMIC_RETRY: an atomic goes unanswered (R691). -/
def atomicRetry (w : Work) (e : Nat) : Work :=
  match w.engine? e with
  | none => w
  | some g =>
    match g.atomic with
    | some (_, tries, t) =>
      if !w.fired t (fld (w.reg rFabAtomic) 15 0) then w
      else if tries < fld (w.reg rFabAtomic) 19 16 then (w.issueFence e).count cFabAtomicRetry
      else w.failFence e
    | none => w

/-- An answer against the retry timer of its atomic: one that comes too late is dropped after the timer's action, and counted
as an access of its engine (R88, R89, R691; DESIGN CHOICE, log entry 138). -/
def atomicAnswer (w : Work) (e aseq : Nat) (st : AtomicStatus) (value : Nat) : Work :=
  if w.atomicLate e aseq then ((w.recv e 32).atomicRetry e).count (cIgnoredWrites e) else w.atomicReply e aseq st value

/-- The steps of a pool that a takeover ends, with what composition rests on (steps 7 and 9, R752). -/
def takeoverPool (w : Work) (p : Nat) : Work :=
  let mark (s : Step) : Step := { s with failed := some 6 }
  let w := w.modPool p fun q => { q with
    epoch := q.epoch + 1, exec := q.exec.map mark, held := q.held.map mark }
  let w := w.modFs fun f => { f with
    units := { f.units with pools := f.units.pools.set p {} }
    engines := f.engines.mapV fun _ g => if g.pool = p then
      { g with fresh := true, bad := 0, badHeld := 0, ringPos := [], body := [] } else g }
  let w := w.stepFail p
  let w := match w.pool? p with
    | some { next := some pl, .. } => (w.discardPlan p pl).modPool p fun q => { q with next := none, interp := none, yield := .none }
    | _ => w
  w.modPool p fun q => { q with
    mirror := [], named := [], outcomes := if q.outcomes.isEmpty then q.sentOutcomes else q.outcomes
    exec := none, held := none, interp := none, yield := .none }

/-- A park copy, restore or placement that was under way on the old ACTIVE starts again (R734, R740). A finished copy whose
bytes are not held here is copied again while the pages stand, and is lost otherwise. -/
def restartPark (w : Work) (s : Nat) : Work :=
  match (w.seq s).park with
  | none => w
  | some r =>
    let again (w : Work) : Work := w.restartCopy s r
    match r.copy with
    | .keepList _ _ _ => w.askKeep s r
    | .copying | .mirroring _ => again w
    | .migrating | .waitSpace => w
    | .done =>
      if r.bytes.isEmpty && r.away.isNone && !r.entries.isEmpty then (if r.held then again w else w.faultF1 s 10 0x21)
      else match r.restore with
        | .storing p => w.restoreStores s p
        | _ => w

/-- The same for the copies of prefix handles and their residencies (R312, R313, R316). -/
def restartHandle (w : Work) (c : Nat) : Work :=
  match w.fs.copies.get? c with
  | none => w
  | some k =>
    let home := w.fs.segs.find fun _ s => s.copy = some c && !s.placing
    if k.done && !k.bytes.isEmpty then
      w.each (w.fs.segs.filterV fun _ s => s.copy = some c && s.placing) fun w (g, s) =>
        match w.pool? s.pool with | some q => w.storePages s.pool q s.pages k.bytes (.place g) | none => w
    else if home.isSome then
      let w := w.modFs fun f => { f with copies := f.copies.set c { k with done := false, mirrorAt := none } }
      match home.bind fun x => (w.pool? x.2.pool).map fun q => (x.2, q) with
      | some (s, q) => (w.closeLoads fun l => l.why = .handleCopy c).loadPages s.pool q s.pages (.handleCopy c)
      | none => w.removeHandles fun _ r => r.copy = c
    else w.removeHandles fun _ r => r.copy = c

/-- A reply that the old ACTIVE had not released goes out again (step 8). -/
def reRelease (w : Work) (x : Nat × Reply) : Work := w.stream x.2.ctx { port := x.1, msg := .reply x.2 }

/-- TAKEOVER_DONE: every pool is fenced (steps 5 to 9). -/
def takeoverDone (w : Work) : Work :=
  if w.twinState ≠ .taking ∨ !w.fs.twin.fencing.isEmpty then w
  else
    let replies := w.fs.twin.replies
    let waiting := w.fs.twin.waiting
    let w := (w.enterTwin .unpaired).modTwin fun t => { t with
      mirror := 0, graceAt := some w.now, replies := [], waiting := [], images := [], outcomes := [], heartbeat := none
      link := { t.link with nextSeq := 1, taken := 0, acked := 0, unacked := [], ackCap := none } }
    let w := w.each (w.fs.pools.map (·.1)) takeoverPool
    -- a SUBMIT reply comes before any record of its sequences, what records answer after them (R548)
    let (submits, others) := replies.partition fun (_, r) => r.opcode = opSubmit
    let w := w.each submits reRelease
    let w := w.each w.fs.seqs fun w (s, x) =>
      w.each x.unreturned fun w r => (w.sendRec s { r with replayed := true }).count cStuReplayed
    let w := w.each others reRelease
    let w := w.each waiting enqueue
    -- what this instance's own park tier lost while it followed
    let w := w.each (w.fs.memPorts.map fun (_, p) => p.lostUnits.map (·.1)).flatten unitGone
    let w := w.each (w.fs.park.lost.map (·.1)) extentGone
    let w := w.each (w.fs.seqs.map (·.1)) fun w s => (w.restartPark s).stallCheck s
    w.each (w.fs.copies.map (·.1)) restartHandle

/-- TAKEOVER_GRACE_EXPIRY (R756). -/
def takeoverGraceExpiry (w : Work) : Work :=
  match w.fs.twin.graceAt with
  | some t => if w.fired t (w.reg rTwinGrace) then w.modTwin fun t => { t with graceAt := none } else w
  | none => w

/-! Heartbeats and loss (R729, R743, R745, R746, R749 to R751, R843, R869, R870). -/

/-- HEARTBEAT_SEND: every 10 µs. -/
def heartbeatSend (w : Work) : Work :=
  let due := match w.fs.twin.link.lastSent with | some t => w.fired t 100 | none => true
  if due then (w.modLink 0 fun l => { l with lastSent := some w.now }).sendUnnumbered 0 (.heartbeat (w.beatNow 0)) else w

/-- The first heartbeat is compared with this instance's own state (R843). -/
def firstBeat (w : Work) (h : Heartbeat) : Work :=
  if w.fs.boot.peerSeen then w
  else w.modBoot fun b => { b with peerSeen := true, peerMatch := w.twinState = .unpaired && w.beatMatches h }

/-- A heartbeat's effect on the pairing state. -/
def beatState (w : Work) (h : Heartbeat) : Work :=
  let shows (t : TwinState) : Bool := h.state = t.code
  match w.twinState with
  | .isolated =>
    if shows .pairedS && h.takeovers = w.fs.twin.takeovers then
      let w := w.enterTwin .pairedA
      let w := w.each w.fs.twin.link.unacked fun w f =>
        (w.eff (.frame 0 (w.frameNow 0 f))).count (if f.sent then cTwinResends else cTwinFramesTx)
      w.modLink 0 fun l => { l with unacked := l.unacked.map fun f => { f with sent := true } }
    else if shows .taking || shows .unpaired || w.fs.twin.takeovers < h.takeovers then w.enterTwin .detached
    else if shows .detached then w.leavePair
    else w
  | .attachingA | .pairedA => if shows .detached then w.leavePair else w
  | .attachingS =>
    if shows .pairedA then (w.enterTwin .pairedS).modTwin fun t => { t with takeovers := h.takeovers } else w
  | .pairedS =>
    if shows .detached && bit (w.reg rTwinCfg) 16 then w.beginTakeover
    else if shows .pairedA || shows .isolated then w.modTwin fun t => { t with lost := false }
    else w
  | _ => w

/-- TWIN_LOSS_ACTIVE: no valid frame for HB_LOSS (R745, R749). -/
def twinLossActive (w : Work) : Work :=
  if w.twinHeard then w
  else
    let w := w.lead
    match w.twinState with
    | .pairedA => w.enterTwin .isolated
    | .attachingA => w.leavePair
    | _ => w

/-- TWIN_LOSS_SHADOW: no valid frame for 2 × HB_LOSS (R745, R751, R868, R869). -/
def twinLossShadow (w : Work) : Work :=
  let quiet := match w.fs.twin.link.lastValid with
    | some t => w.fired t (2 * fld (w.reg rTwinCfg) 15 0)
    | none => true
  if !quiet then w
  else match w.twinState with
  | .attachingS => w.enterTwin .detached
  | .pairedS =>
    if bit (w.reg rTwinCfg) 16 then w.beginTakeover
    else if w.fs.twin.lost then w
    else (w.modTwin fun t => { t with lost := true }).fault 4 14 0x31 0
  | _ => w

/-- The heartbeat timer that runs in the present state, where it has fired before the frame that now arrives: its action
comes first, and the frame has lost (R88, R745, R749, R751). -/
def lossDue (w : Work) : Bool :=
  let late (n : Nat) : Bool := match w.fs.twin.link.lastValid with
    | some t => w.lapsed t (n * fld (w.reg rTwinCfg) 15 0)
    | none => false
  match w.twinState with
  | .pairedA | .attachingA => late 1
  | .attachingS => late 2
  | .pairedS => !w.fs.twin.lost && late 2
  | _ => false

/-- A frame of the pairing link against the heartbeat timer: `act` where it comes in time; otherwise the timer's action, and
the frame is discarded and counted (R88, R89). -/
def inTime (w : Work) (act : Work → Work) : Work :=
  if w.lossDue then (w.twinLossActive.twinLossShadow).badFrame 0 else act w

/-- The timer of the link that a frame comes on has fired before it (R88). -/
def frameLate (w : Work) (k : Nat) : Bool := if k = 0 then w.lossDue else w.linkLate k

/-- A frame on any link against its timer: one that comes too late is discarded, after the timer's action (R88, R89). -/
def timely (w : Work) (f : FrameIn) (act : Work → Work) : Work :=
  if f.link = 0 then w.inTime act else if w.linkLate f.link then w.peerLinkLoss f.link else act w

/-- HEARTBEAT_RX. -/
def heartbeatRx (w : Work) (ackseq : Nat) (fcrc : Word) (h : Heartbeat) : Work :=
  if fcrc ≠ beatCrc 0x01 ackseq h then w.badFrame 0
  else w.inTime fun w =>
    let paths := w.pathTo
    let w := (w.modLink 0 fun l => { l with lastValid := some w.now }).modTwin fun t => { t with heartbeat := some (h, w.now) }
    let w := (w.firstBeat h).takeAck 0 ackseq
    ((((w.beatState h).settleAcks).resendRelays paths).retryPaths).lead

/-! Frames of the pair at a SHADOW (R734 to R743, R756). -/

/-- Take a frame of the pair in its place, or discard it (R728). -/
def orderly (w : Work) (f : FrameIn) (act : Work → Work) : Work :=
  if f.fseq = 0 then w.badFrame 0
  else match w.takeFrame { f with link := 0 } with
  | some w => act w
  | none => w.badFrame 0

/-- An instance that begins to follow keeps nothing of its own of what the pair mirrors, besides its SRC_ID and what its own
park tier has lost (R740). -/
def emptied (w : Work) : Work :=
  let w := w.modFs fun f => { f with
    cfg := f.cfg.filterV fun n _ => n = rFabSrc
    models := [], masks := {}, ctxs := [], handles := [], copies := [], segs := [], engines := [], pools := []
    rqt := [], seqs := [], freshSlot := 0, freeSlots := [], nextSeg := 0, nextCopy := 0, ghosts := [], ratios := [], latches := []
    units := {}, park := { f.park with used := [], guests := [], lastPort := 0 } }
  w.modHs fun h => { h with ctxs := h.ctxs.filterV fun c _ => c = 0 }

/-- A frame of the pair reaches a SHADOW: the first one after UNPAIRED begins the attach (R744). A frame that is not the next
one is discarded and counted in every state but DETACHED, whose instance is inert (R722, R728). -/
def takeShadow (w : Work) (f : FrameIn) (act : Work → Work) : Work :=
  match w.twinState with
  | .attachingS | .pairedS => w.inTime fun w => w.orderly f act
  | .unpaired =>
    if w.emptyBit && f.fseq = 1 && f.crcOk then
      ((w.emptied.enterTwin .attachingS).modTwin fun t => { t with
        link := { t.link with nextSeq := 1, taken := 0, acked := 0, unacked := [], ackCap := none } }).orderly f act
    else if f.crcOk && f.fseq = 1 then w else w.badFrame 0
  | .taking => w.badFrame 0
  | .detached => w
  | _ => if f.crcOk && f.fseq = w.fs.twin.link.taken + 1 then w else w.badFrame 0

/-- A forwarded MODEL_LOAD or STENCIL_LOAD that fetches an image. -/
def fetchesImage (opcode : Nat) (p : Packet) : Bool := (opcode = opModelLoad || opcode = opStencilLoad) && p.opf 319 288 ≠ 0

/-- The SHADOW's own fetch of the first image that it still owes (R743). -/
def nextImage (w : Work) : Work :=
  match w.fs.twin.images with
  | [] => w.modLink 0 fun l => { l with ackCap := none }
  | (i, n) :: _ =>
    let a := i.pkt.opf 287 224
    let len := i.pkt.opf 319 288
    let e := Config.imageHome a
    ((w.load e a len (.image 0)).emit e (.load e a len) 32 0).modLink 0 fun l => { l with ackCap := some (n - 1) }

/-- TWIN_COMMAND_FRAME: the SHADOW queues a forwarded command (R731, R739, R743, R756). -/
def twinCommandFrame (w : Work) (f : FrameIn) (port opcode : Nat) (p : Packet) : Work :=
  w.takeShadow f fun w =>
    let i : QItem := { port := port, opcode := opcode, pkt := p, noted := w.hsNow }
    let w := w.modTwin fun t => { t with
      waiting := t.waiting ++ [i]
      recent := t.recent.modD p.ctx.toNat [] fun l => ((p.cseq, p.mac) :: l).take 64 }
    if fetchesImage opcode p then
      let idle := w.fs.twin.images.isEmpty
      let w := w.modTwin fun t => { t with images := t.images ++ [(i, f.fseq)] }
      if idle then w.nextImage else w
    else w

/-- TWIN_DECISION_FRAME: the SHADOW applies a decision; an ACTIVE under STATE_AND_PARK takes its twin's lost marks (R734,
R742). -/
def twinDecisionFrame (w : Work) (f : FrameIn) (d : Decision) : Work :=
  match w.twinState, d with
  | .attachingA, .lost x | .pairedA, .lost x => w.inTime fun w => w.orderly f fun w =>
    if w.fs.park.lost.has x then w.settleAcks else (w.settleAcks).extentLost x
  | _, .imageOutcome c cseq status result => w.takeShadow f fun w => w.imageOutcome c cseq status result false
  | _, d => w.takeShadow f fun w => w.applyDecision d

/-- TWIN_BULK_FRAME: a part of the ACTIVE's state (R744). -/
def twinBulkFrame (w : Work) (f : FrameIn) (d : Decision) : Work := w.takeShadow f fun w => w.applyDecision d

/-- Bytes written into a byte string from offset `off` on. -/
def patchBytes (old new : List Byte) (off : Nat) : List Byte :=
  old.take off ++ List.replicate (off - old.length) (0 : Byte) ++ new ++ old.drop (off + new.length)

/-- TWIN_PARK_DATA_FRAME: the bytes of a park copy or of a handle's copy (R742). -/
def twinParkDataFrame (w : Work) (f : FrameIn) (n off : Nat) (bytes : List Byte) (handle : Bool) : Work :=
  w.takeShadow f fun w =>
    -- the SHADOW writes them to the same extents, in the MIRROR class
    let write (l : List Nat) (ctx : Nat) (w : Work) : Work :=
      w.queueExtents ((l.drop (off / 65536)).take 1) bytes.length .mirror ctx (if handle then .handle n else .toTwin n)
    if handle then
      let w := w.modFs fun f => { f with copies := f.copies.mod n fun k => { k with bytes := patchBytes k.bytes bytes off } }
      match w.fs.copies.get? n with | some k => write k.extents k.owner w | none => w
    else
      let w := w.modPark n fun r => { r with bytes := patchBytes r.bytes bytes off }
      match (w.seq n).park with | some r => write r.extents (w.entry n).ctx w | none => w

/-- The image of a forwarded load has reached the SHADOW, or has not: its own outcome (R743). -/
def shadowImage (w : Work) (f : Fetch) (img : Option ImageIn) : Work :=
  match w.fs.twin.images with
  | [] => w
  | (i, _) :: r =>
    let a := if i.opcode = opModelLoad then (w.modelLoadDone i.pkt f img).2 else (w.stencilLoadDone i.pkt f).2
    let w := (w.modTwin fun t => { t with images := r }).closeLoads fun l => match l.why with | .image _ => true | _ => false
    (w.nextImage).imageOutcome i.pkt.ctx.toNat i.pkt.cseq a.status a.result true

end Work

end Sys2Proof.Machine
end

