-- ==== Sys2Proof/Machine/ConfigSpace.lean ====
section
/-! DEFINITION. CFG_READ, CFG_WRITE and the service-port window: how words are merged, clamped and put in force (R24,
R192 to R195, R363, R470, R497, R498, R693, R781, R873 to R879, R891 to R893). -/

namespace Sys2Proof.Machine

/-- The bytes of a word whose enables are set, over the present value (R877). -/
def mergeBytes (present data be : Nat) : Nat :=
  (List.range 4).foldl (fun a i => if bit be i then setFld a (8 * i + 7) (8 * i) (fld data (8 * i + 7) (8 * i)) else a) present

/-- A written value under a word's writable bits and clamp, with whether the clamp changed it (R24, R877). -/
def RwWord.stored (r : RwWord) (v : Nat) : Nat × Bool :=
  let x := r.taken (v &&& r.mask)
  (r.clamp x, decide (r.clamp x ≠ x))

namespace Work

/-- Blocks that the other partitions of the mask store have in force. -/
def blocksElsewhere (w : Work) (i : Nat) : Nat :=
  sumOf (((List.range 16).filter (· ≠ i)).map fun k => (w.maskPart k).blocks)

/-- A partition's request takes effect, BLOCKS_REQ clamped to the blocks that are left (R497, R498). -/
def applyPartition (w : Work) (i : Nat) : Work :=
  let cfg := w.raw (maskPartBase i)
  let req := w.raw (maskPartBase i + 4)
  let b := Nat.min req (768 - w.blocksElsewhere i)
  let part : MaskPart := { firstId := fld cfg 11 0, idCount := fld cfg 24 12, blocks := b }
  ((w.count (cClamp 0) (b01 (b ≠ req))).setReg (maskPartBase i + 4) b).modFs fun f => { f with masks := { f.masks with parts := f.masks.parts.set i part } }

/-- MASK_PARTITION_APPLY: a pending request takes effect once the partition holds no image (R497). -/
def maskPartitionApply (w : Work) (i : Nat) : Work :=
  if i < 16 ∧ (w.maskPart i).pending ∧ (w.partImages i).isEmpty then w.applyPartition i else w

/-- A partition's MASK_PART_CFG or MASK_PART_BLK has been written (R497). -/
def requestPartition (w : Work) (i : Nat) : Work :=
  if (w.partImages i).isEmpty then w.applyPartition i
  else
    let part : MaskPart := { w.maskPart i with pending := true }
    w.modFs fun f => { f with masks := { f.masks with parts := f.masks.parts.set i part } }

/-- What the value of a word becomes under the rules that the word's own table does not hold: UNIT_SHARE of an existing
pool (R363), and MODE 0b11 of POOL_ENV, which leaves MODE as it is. The flag says that a clamp changed the value. -/
def adjust (w : Work) (off v : Nat) : Nat × Bool :=
  match regionOf w.idn.isM off with
  | .pool p 0x14 =>
    if (w.pool? p).isNone then (v, false)
    else
      let others := sumOf ((w.fs.pools.filter fun (n, _) => n ≠ p).map fun (n, _) => fld (w.raw (rSched n)) 16 8)
      let share := Nat.min (fld v 16 8) (256 - others)
      (setFld v 16 8 share, decide (share ≠ fld v 16 8))
  | .pool _ 0x40 => if fld v 15 14 = 3 then (setFld v 15 14 (fld (w.raw off) 15 14), false) else (v, false)
  | _ => (v, false)

/-- What follows a write of a word besides its value. -/
def afterWrite (w : Work) (off : Nat) : Work :=
  match regionOf w.idn.isM off with
  | .maskPart i o => if o < 8 then w.requestPartition i else w
  | .fabCtx c o => if (o = 0x58 ∨ o = 0x5C) ∧ w.coordinates then (w.takeSlice c false).takeSlice c true else w
  | .inst o =>
    if 0xB18 ≤ o ∧ o < 0xB30 then w.modObu fun b => { b with restart := true } else w
  | _ => w

/-- A write to an RW word that no pool stands in the way of (R693, R781). -/
def writable (w : Work) (off : Nat) : Bool :=
  w.fs.pools.isEmpty || !(off = rFabBase || off = rFabBase + 4 || off = rFabSrc || off = rGroupCfg)

/-- Set an RW word of 32 bits, or the high word of a 64-bit field with its staging word (R876, R877). -/
def writeWord (w : Work) (r : RwWord) (off data be : Nat) : Work :=
  if !w.writable off then w
  else if r.half = 1 then
    let stage := match w.fs.staging.get? off with | some v => v.toNat | none => w.raw off
    w.modFs fun f => { f with staging := f.staging.set off (BitVec.ofNat 32 (mergeBytes stage data be)) }
  else
    let (v, k1) := r.stored (mergeBytes (w.raw off) data be)
    let (v, k2) := w.adjust off v
    let v := if off = rFabCfg && !w.fs.pools.isEmpty then setFld v 15 0 (fld (w.raw off) 15 0) else v
    let set (w : Work) : Work := w.setReg off v
    let (w, k3) :=
      if r.half = 2 then
        let low := off - 4
        let stage := match w.fs.staging.get? low with | some x => x.toNat | none => w.raw low
        let (x, k) := match rwWord w.idn.isM low with | some l => l.stored stage | none => (stage, false)
        (((w.setReg low x).modFs fun f => { f with staging := f.staging.set low (BitVec.ofNat 32 x) }).setReg off v, k)
      else if off = rGroupCfg then ((set w).lead, false)
      else (set w, false)
    (w.count (cClamp 0) (b01 (k1 || k2 || k3))).afterWrite off

/-- TIME_STATUS: W1C bits 1, 3 and 9 (R77, R879). -/
def clearTimeStatus (w : Work) (v : Nat) : Work :=
  let w := w.modFs fun f => { f with speed := { f.speed with
    degradedSeen := f.speed.degradedSeen && !bit v 1, underrunSeen := f.speed.underrunSeen && !bit v 3 } }
  if w.hs.up && bit v 9 then w.modHs fun h => { h with degradedSeen := false } else w

/-- BOOT_CTRL (R842, R844, R846). -/
def bootCtrl (w : Work) (v : Nat) : Work :=
  ((w.whenDo (bit v 0) bootStart).whenDo (bit v 1) bootDrain).whenDo (bit v 2) bootShut

/-- A write to a word of the host instance block (R144, R848). STEWARD_THAW acts at the service port alone (R138). -/
def writeHost (w : Work) (o data be : Nat) : Work :=
  let v := mergeBytes 0 data be
  if o = 0x08 then
    let x := mergeBytes w.hs.keyGrace data be
    (w.modHs fun h => { h with keyGrace := Nat.min 1000000 x }).count (cClamp 0) (b01 (1000000 < x))
  else if 0x10 ≤ o ∧ o < 0x20 then
    let k := (o - 0x10) / 4
    let old := w.hs.svcKey.toNat
    let word := mergeBytes (fld old (32 * k + 31) (32 * k)) data be
    w.modHs fun h => { h with svcKey := BitVec.ofNat 128 (setFld old (32 * k + 31) (32 * k) word) }
  else if o = 0x20 then w.whenDo (bit v 0) svcKeyLoad
  else w

/-- PEER_MIGRATE, a write-only field of 64 bits (R777, R876). -/
def writeMigrate (w : Work) (o data be : Nat) : Work :=
  let stage := match w.fs.staging.get? 0xA10 with | some v => v.toNat | none => 0
  if o = 0xA10 then
    w.modFs fun f => { f with staging := f.staging.set 0xA10 (BitVec.ofNat 32 (mergeBytes stage data be)) }
  else w.peerMigrateWrite stage (fld (mergeBytes 0 data be) 2 0)

/-- One word written to configuration space (R195, R873, R874, R877). -/
def cfgWriteWord (w : Work) (a data be : Nat) : Work :=
  let off := a / 4 * 4
  if be = 0 then w
  else match rwWord w.idn.isM off with
  | some r => w.writeWord r off data be
  | none =>
    match regionOf w.idn.isM off with
    | .inst o =>
      if o = 0x10C then w.clearTimeStatus (mergeBytes 0 data be)
      else if o = 0x200 then w.bootCtrl (mergeBytes 0 data be)
      else if o = 0xA10 ∨ o = 0xA14 then w.writeMigrate o data be
      else w
    | .hostInst o => w.writeHost o data be
    | _ => w

/-- Acting on CFG_READ (R194). -/
def actCfgRead (w : Work) (i : QItem) : Work × Act := (w, .answer { result := w.cfgRead (i.pkt.opf 223 192) })

/-- A word whose write takes force only with the release of the reply: a pool's scheduling and energy fields, an
engine's envelope, a model slot's MODEL_ROUTE, MODEL_SAMPLE and MODEL_DRAFT, and HORN_CFG (R44, R381, R386, R442, R506,
R882). -/
def latched (w : Work) (off : Nat) : Bool :=
  match regionOf w.idn.isM off with
  | .pool _ o => (0x10 ≤ o && o < 0x30 && o ≠ 0x1C) || o = 0x40
  | .engine _ o => o = 0x10
  | .model _ o => o = 0x04 || o = 0x0C || o = 0x20
  | .inst o => o = rHornCfg
  | _ => false

/-- Acting on CFG_WRITE (R195). -/
def actCfgWrite (w : Work) (i : QItem) : Work × Act :=
  let items := cfgItems i.pkt
  let w' := w.each items fun w (a, d, be) => w.cfgWriteWord a d be
  let offs := (items.map fun (a, _, _) => a / 4 * 4).foldl (fun l o => if l.contains o then l else l ++ [o]) []
  let held := offs.filter fun o => w.latched o && w.raw o ≠ w'.raw o
  (w'.each held fun x o => x.latch i.pkt.cseq (.word o (w.raw o)), .answer {})

/-- Every address of a configuration packet lies in the host-side regions (R878). -/
def cfgHostOnly (w : Work) (i : QItem) : Bool :=
  let host (a : Nat) : Bool := (regionOf w.idn.isM a).isHost
  if i.opcode = opCfgRead then host (i.pkt.opf 223 192) && host (i.pkt.opf 223 192 / 4 * 4 + 4)
  else i.opcode = opCfgWrite && (cfgItems i.pkt).all fun (a, _, _) => host a

/-! The service-port window (R891 to R894). -/

/-- The service port can reach the side of an address. -/
def svcReaches (w : Work) (a : Nat) : Bool :=
  (regionOf w.idn.isM a).isHost || (w.fs.boot.up && w.fs.boot.phase ≠ .selfTest)

/-- A write of SVC_ADDR at the window, where one comes first. -/
def svcAddrWrite (w : Work) (addr : Option Word) : Work :=
  match addr with | some a => w.modHs fun h => { h with svcAddr := a } | none => w

/-- A capture of SVC_DATA: the word at ADDR, or zero where its side is down, and ADDR goes on by 4. -/
def svcDataCapture (w : Work) (addr : Option Word) : Work :=
  if !w.hs.up || w.hs.svcBusy then w
  else
    let w := w.svcAddrWrite addr
    let a := w.hs.svcAddr
    let up := w.svcReaches a.toNat
    w.modHs fun h => { h with
      svcAddr := a + 4, svcSideDown := !up, svcData := if up then BitVec.ofNat 32 (w.cfgWord a.toNat) else 0 }

/-- An update of SVC_DATA: the word at ADDR is written where R893 permits it, and ADDR goes on by 4. -/
def svcDataUpdate (w : Work) (addr : Option Word) (data : Word) : Work :=
  if !w.hs.up then w
  else if w.hs.svcBusy then w.modHs fun h => { h with svcDenied := true }
  else
    let w := w.svcAddrWrite addr
    let a := w.hs.svcAddr
    let ok := match regionOf w.idn.isM a.toNat with
      | .hostInst o => o = 0x0C || (0x10 ≤ o && o < 0x24)
      | _ => false
    let w := w.modHs fun h => { h with svcAddr := a + 4, svcDenied := !ok, svcSideDown := !w.svcReaches a.toNat }
    if !ok then w
    else match regionOf w.idn.isM a.toNat with
      | .hostInst 0x0C => w.whenDo (bit data.toNat 0) stewardThaw
      | _ => w.cfgWriteWord a.toNat data.toNat 15

end Work

end Sys2Proof.Machine
end

