-- ==== Sys2Proof/Machine/Horn.lean ====
section
/-! DEFINITION. The horn, counter reads and modes, trace settings, delay-line time, junction temperature, and failing
on-die stores (R56, R72 to R81, R188 to R193, R214 to R216, R784 to R794, R810, R818 to R827, R863 to R868, R902). -/

namespace Sys2Proof.Machine

namespace Work

/-! The horn (R818 to R825, R882). -/

/-- A horn stands: its cut is recording, or it is held. -/
def hornStands (w : Work) : Bool := w.fs.horn.recording || w.fs.horn.held

/-- A start wins the horn element: cut number `n`, held or not, by origin 0 HORN, 1 trigger input, 2 link. Markers go out
on the pairing link and on every peer link that is up (R820). -/
def hornStart (w : Work) (n : Nat) (hold : Bool) (origin : Nat) : Work :=
  let w := w.event 16 0x0080 true n origin
  let w := w.modFs fun f => { f with horn := { f.horn with held := hold, recording := true, cut := n, start := w.now } }
  let w := (w.eff (.cut n hold origin)).sendToTwin (.marker n hold)
  w.each (List.range 3) fun w i => if (w.link (i + 1)).up then w.sendFrame (i + 1) (.marker n hold) else w

/-- The next cut number; numbers run from 1 (R826). -/
def nextCut (w : Work) : Nat := if (w.fs.horn.cut + 1) % 2 ^ 32 = 0 then 1 else (w.fs.horn.cut + 1) % 2 ^ 32

/-- Acting on HORN (R214, R819). -/
def actHorn (w : Work) (i : QItem) : Work × Act :=
  if w.fs.horn.held then (w, .answer (Ans.bad .hornState))
  else if w.fs.horn.recording then (w, .wait (.cut w.fs.horn.cut))
  else
    let n := w.nextCut
    (w.hornStart n (i.pkt.opf 192 192 = 1) 0, .wait (.cut n))

/-- HORN_TRIG: a rising edge (R819, R882). -/
def hornTrig (w : Work) : Work :=
  if w.hornStands then w.count cObuTrigIgnored else w.hornStart w.nextCut (bit (w.reg rHornCfg) 0) 1

/-- HORN_LINK_MARKER (R820). -/
def hornLinkMarker (w : Work) (f : FrameIn) (n : Nat) (hold : Bool) : Work :=
  if !(f.link = 0 || (w.link f.link).up) then w
  else match w.takeFrame f with
  | none => w.badFrame f.link
  | some w => if bit (w.reg rHornCfg) 1 && !w.hornStands then w.hornStart n hold 2 else w

/-- HORN_CUT_DONE: markers have arrived on every internal input channel; `chans` are the messages that the cut caught on
the channels, in order (R818, R826). -/
def hornCutDone (w : Work) (chans : List CutChan) : Work :=
  if w.fs.horn.recording then
    let w := w.modFs fun f => { f with horn := { f.horn with recording := false } }
    (w.eff (.cutDone chans)).event 16 0x0081 true w.fs.horn.cut (w.hnsDown (w.now - w.fs.horn.start))
  else w

/-- Acting on HORN_RELEASE (R214, R825). -/
def actHornRelease (w : Work) : Work × Act :=
  if w.fs.horn.held then
    let w := w.modFs fun f => { f with horn := { f.horn with held := false } }
    ((w.eff .cutRelease).event 16 0x0082 true w.fs.horn.cut (w.hnsDown (w.now - w.fs.horn.start)), .answer {})
  else (w, .answer (Ans.bad .hornState))

/-! STATS_READ, COUNTER_MODE, TRACE_SET (R188 to R190, R193, R216, R642, R784 to R794, R810). -/

/-- A counter as STATS_READ returns it: less its base under AE2_FREEZE, with the SAT flag (R788, R794). -/
def statsValue (w : Work) (c idx off : Nat) : Nat × Bool :=
  if w.satNow off then (2 ^ 64 - 1, true)
  else
    let base := if w.obsNow.ae2 then (w.obsNow.bases.getD (c * 0x200 + idx) 0).toNat else 0
    ((w.ctrNow off + 2 ^ 64 - base) % 2 ^ 64, false)

/-- Acting on STATS_READ (R188 to R190). -/
def actStatsRead (w : Work) (i : QItem) : Work × Act :=
  let c := i.pkt.ctx.toNat
  let t := targetOf i.pkt
  if c ≠ 0 ∧ t ≠ 0 ∧ t ≠ c then (w, .violate 0x03)
  else
    let t := if c ≠ 0 then c else t
    let idx := i.pkt.opf 207 192
    match statsOff t idx with
    | none => (w, .answer (Ans.bad .noCounter))
    | some off =>
      let (v, sat) := w.statsValue t idx off
      let epoch := if w.obsNow.ae2 then w.obsNow.epochs.getD t 0 else 0
      (w, .answer { obj := b01 sat + epoch % 2 ^ 16 * 2 ^ 16, result := v })

/-- Acting on COUNTER_MODE: it takes effect at its own boundary (R790, R792). -/
def actCounterMode (w : Work) (i : QItem) : Work × Act := (w.eff (.mode (i.pkt.opf 192 192 = 1)), .answer {})

/-- Acting on TRACE_SET (R193, R810). -/
def actTraceSet (w : Work) (i : QItem) : Work × Act :=
  let p := i.pkt
  let b := clampTo 5 30 (p.opf 197 192)
  let o := w.fs.obu
  let w := w.latch p.cseq (.trace o.digestEn o.opcountEn o.layer o.operator)
  let w := (w.count (cClamp 0) (b01 (b ≠ p.opf 197 192))).modObu fun o => { o with
    budget := b, digestEn := p.opf 198 198 = 1, opcountEn := p.opf 199 199 = 1
    layer := p.opf 215 200, operator := p.opf 231 216, eventEn := p.opf 248 232 }
  (w.eff (.eventEn (p.opf 248 232)), .answer {})

/-! Time and temperature (R78 to R81, R902). -/

/-- An HS_STATUS message crosses, or is kept while the fabric side is held (R715, R718). -/
def hsStatus (w : Work) : Work :=
  if w.fs.boot.up then w else w.modHs fun h => { h with keptForFs := Nat.min 4096 (h.keptForFs + 1) }

/-- The notice and events of entering delay-line time, on the side that enters it (R80). `freq`: TREF is off frequency. -/
def enterDelayLine (w : Work) (fabric freq : Bool) : Work :=
  let w := (w.event (if fabric then 16 else 17) 0x0002 true (b01 freq) 0).notice 0 { status := stTimeDegraded }
  if fabric then w.modFs fun f => { f with speed := { f.speed with
    degradedSeen := true, freqBad := freq } }
  else (w.modHs fun h => { h with degradedSeen := true }).hsStatus

/-- The events of leaving it (R81). CALIBRATE may begin (R834). -/
def leaveDelayLine (w : Work) (fabric : Bool) : Work :=
  let w := w.event (if fabric then 16 else 17) 0x0003 true 0 0
  if fabric then (w.modFs fun f => { f with speed := { f.speed with freqBad := false } }).beginCalibrate
  else w.hsStatus

/-- THERM_UPDATE: the hottest of the junction sensors (R902). -/
def thermUpdate (w : Work) (codes : List Nat) : Work :=
  w.modFs fun f => { f with speed := { f.speed with therm := maxOf codes % 256, thermTgl := !f.speed.thermTgl } }

/-! Failing on-die stores (R863 to R868). -/

/-- Pages leave service: they are counted as withheld (R866). -/
def withhold (w : Work) (p n : Nat) : Work := w.modPool p fun q => { q with withheld := q.withheld + n }

/-- A slot that fails is retired once it is FREE; a free one leaves the free slots at once (R865). -/
def retire (w : Work) (s : Nat) : Work :=
  if w.fs.retired.contains s then w
  else w.modFs fun f => { f with retired := f.retired ++ [s], freeSlots := f.freeSlots.filter (· ≠ s) }

/-- The tear-down of an uncorrectable read (R865, R868). `store` is the code of R835; a host-side store has bit 3 set
(R853). -/
def eccTear (w : Work) (e : EccEvent) : Work :=
  let f0 (w : Work) : Work := w.fault 0 e.unit 0x20 0
  match e.obj with
  | .rqt s both =>
    if both then w.faultF4 true e.unit 0x20 (e.store % 8)
    else
      let w := w.retire s
      if (w.entry s).st.live then w.faultF1 s e.unit 0x20 else w.fault 1 e.unit 0x20 0
  | .ownPages s =>
    let x := w.seq s
    let w := (w.withhold x.ownPool x.own.length).modSeq s fun x => { x with own := [] }
    if (w.entry s).st.live then w.faultF1 s e.unit 0x20 else w.fault 1 e.unit 0x20 0
  | .segment g =>
    match w.fs.segs.get? g with
    | none => w
    | some y =>
      let users := w.segUsers g
      let w := w.withhold y.pool (w.segOwnPages y).length
      let w := match y.copy with
        | some c => w.removeHandles fun _ r => r.copy = c
        | none => w
      let w := w.modFs fun f => { f with
        segs := f.segs.erase g
        seqs := f.seqs.mapV fun _ x => { x with
          shared := x.shared.filter (fun y => y.seg ≠ g), refs := x.refs.filter (· ≠ g)
          placing := if x.placing = some g then none else x.placing } }
      let live := users.filter fun s => (w.entry s).st.live
      if live.isEmpty then w.fault 1 e.unit 0x20 0 else live.foldl (fun w s => w.faultF1 s e.unit 0x20) w
  | .freeChunk p pages =>
    match w.pool? p with
    | none => w
    | some q =>
      let fresh := (List.range (q.pages - q.freshPage)).map (· + q.freshPage)
      let all := fresh ++ q.returned
      let keep := all.filter fun n => !pages.contains n
      f0 ((w.modPool p fun q => { q with freshPage := q.pages, returned := keep }).withhold p (all.length - keep.length))
  | .countStage s =>
    let w := w.modSeq s fun x => { x with staged := none }
    if (w.entry s).st.live then w.faultF1 s e.unit 0x20 else w.fault 1 e.unit 0x20 0
  | .maskImage id =>
    match w.fs.masks.images.get? id with
    | none => w
    | some m =>
      let w := w.modMasks fun t => if m.users = 0 then t.erase id else t.set id { m with withdrawn := true, grants := 0 }
      let users := w.slotsWhere fun _ y => y.st.live && y.fl.stencilEn && y.stencil = id
      if users.isEmpty then w.fault 1 e.unit 0x20 0 else users.foldl (fun w s => w.faultF1 s e.unit 0x20) w
  | .buffer p => (f0 w).markFailed p 3
  | .counter off => f0 (w.eff (.spoilCtr off))
  | .eventRec ring slot => f0 (w.eff (.spoilEvent ring slot))
  | .fsState => w.faultF4 true e.unit 0x20 (e.store % 8)
  | .hsCtx c => if c = 0 then w.faultF4 false 17 0x20 (e.store % 8 + 8) else w.faultF2 c (e.store % 8 + 8)
  | .hsState => w.faultF4 false e.unit 0x20 (e.store % 8 + 8)

/-- A SECDED report: F0 where the code corrected the word (R863), the tear-down of R865 otherwise. A correction on the host
side is logged in its own ring. -/
def eccReport (w : Work) (e : EccEvent) : Work :=
  if e.corrected then
    match e.obj with
    | .hsCtx _ | .hsState => w.event 17 0x0050 true 0 0
    | _ => w.fault 0 e.unit 0x10 0
  else w.eccTear e

/-- The SECDED reports of a command's reads. -/
def eccReports (w : Work) (l : List EccEvent) : Work := w.each l eccReport

end Work

end Sys2Proof.Machine
end

