-- ==== Sys2Proof/Machine/State.lean ====
section
/-! DEFINITION. The state of the block: its waiting commands, what its carrier die and straps fix, its clocks, the
observation unit's stores, what it has sent, and its two sides; why a command can stop; the state after reset. -/

namespace Sys2Proof.Machine

/-- Something that waits at the input of a stopped unit, with LCL_ELAPSED_FS when it arrived. -/
structure Stalled where
  cmd : Instr
  at_ : Nat
deriving DecidableEq, Repr

/-- The whole state. -/
structure State where
  /-- Commands that wait, first in, first out. -/
  pending : List Instr := []
  /-- What has arrived for units that a held horn has stopped, and waits at their inputs, oldest first (R49, R68, R823,
  R824). -/
  stalled : List Stalled := []
  idn : Identity := {}
  clk : Clock := {}
  obs : Obs := {}
  out : Out := {}
  m : Machine := {}
deriving DecidableEq, Repr

/-- Why a command stops the machine. -/
inductive Fault where
  /-- A command names a host port or a memory port that this configuration does not have (R4). Raised by the packet
  commands, FRAMING_DROP, PARTIAL_PACKET_TIMEOUT and the memory-port commands. Safe: no such event can happen. -/
  | noSuchPort
deriving DecidableEq, Repr

/-- Why a command has no meaning. -/
inductive Refusal where
  /-- A row of the opcode table that the model gives no meaning yet. Raised by exec. Safe: nothing follows from it. -/
  | notModelled (mnemonic : String)
deriving DecidableEq, Repr

/-- What a command comes to. -/
abbrev Outcome : Type := Host.Outcome State Fault Refusal

/-- The machine right after reset: both sides have just left reset, and no command waits (R782, R832, R834). -/
def State.reset : State := {}

end Sys2Proof.Machine
end

