-- ==== Sys2Proof/Machine/Observe.lean ====
section
/-! DEFINITION. How a command begins and ends: its effects reach the observation unit and the outside, its decisions
reach the twin (R732, R733, R740, R742, R744, R783), and a side whose state failed is reset (R832, R838, R839, R871). -/

namespace Sys2Proof.Machine

/-- A command begins. -/
def start (s : State) : Work := { idn := s.idn, clk := s.clk, obs := s.obs, m := s.m }

namespace Work

/-! Frames that mirror a command (R732, R740, R742, R744). -/

/-- Every park copy's bytes for the twin (R742, R744). -/
def sendAllPark (w : Work) : Work :=
  let w := w.each w.fs.seqs fun w (s, x) =>
    match x.park with
    | some r => w.sendParkData s r.bytes false
    | none => w
  w.each w.fs.copies fun w (c, k) => w.sendParkData c k.bytes true

/-- The BULK frames of an attach, and the PARK_DATA of STATE_AND_PARK (R744). What became ready before it waits for none of
them (R733). -/
def sendBulk (w : Work) : Work :=
  let w := w.setNeeds fun _ => 0
  let w := w.each (bulk w.m w.obs) fun w d => w.sendFrame 0 (.bulk d)
  let w := w.whenDo (w.fs.twin.mirror = 1) sendAllPark
  w.modTwin fun t => { t with bulkEnd := t.link.nextSeq - 1 }

/-- Extents that a SHADOW under STATE_AND_PARK has lost in this command, or before the attach that now begins (R742). -/
def sendLost (w : Work) (old : Tbl Unit) : Work :=
  w.each (w.fs.park.lost.filter fun (e, _) => !old.has e) fun w (e, _) => w.sendFrame 0 (.decision (.lost e))

/-- An item that became ready in this command waits for every frame sent in it (R733). -/
def lateNeed (first last n : Nat) : Nat := if first ≤ n then last else n

/-- Items that became ready in this command wait for its last frame. -/
def raiseNeeds (w : Work) (first : Nat) : Work :=
  let last := w.fs.twin.link.nextSeq - 1
  let w := w.setNeeds fun i => lateNeed first last i.need
  w.modTwin fun t => { t with
    heldStores := t.heldStores.map fun x => { x with need := lateNeed first last x.need }
    heldRelays := t.heldRelays.map fun x => (lateNeed first last x.1, x.2) }

/-- The frames that a command's changes call for. -/
def mirror (w : Work) (old : Machine) (oldObs : Obs) : Work :=
  let was := ({ w with m := old } : Work).mirrors
  let shadow := w.twinState = .pairedS || w.twinState = .attachingS
  if w.mirrors then
    if was then
      let first := old.fs.twin.link.nextSeq
      (w.each (decisions old w.m oldObs w.obs) fun w d => w.sendFrame 0 (.decision d)).raiseNeeds first
    else w.sendBulk
  else if shadow && w.fs.twin.mirror = 1 then w.sendLost (if old.fs.twin.mirror = 1 then old.fs.park.lost else [])
  else w

end Work

/-- The effects of a command reach their stores. -/
def State.settle (s : State) (w : Work) : State :=
  let w1 : Work := { w with obs := w.applyAll w.fx s.obs, fx := [] }
  let w2 := w1.mirror s.m s.obs
  { s with obs := w2.applyAll w2.fx w1.obs, out := w2.fx.foldr applyOut (w.fx.foldr applyOut s.out), m := w2.m }

/-! Resets (R832, R838, R839, R871). -/

/-- What the host side holds of a counter's configuration offset (R883 to R885). -/
def hostCounter (off : Nat) : Bool := (regionOf false off).isHost

/-- The stores of the observation unit after a host-side reset: the host side's counters, its ring and the bases that it
holds (R782, R787, R812). -/
def Obs.dropHost (o : Obs) : Obs :=
  { o with
    ctr := o.ctr.filterV fun k _ => !hostCounter k
    sat := o.sat.filterV fun k _ => !hostCounter k
    head := o.head.erase 17
    recs := o.recs.filterV fun k _ => k / 256 ≠ 17
    bases := o.bases.filterV fun k _ => 5 ≤ k % 0x200 }

/-- The stores of the observation unit after a fabric-side reset: the host side's counters and its ring are left. -/
def Obs.dropFabric (o : Obs) : Obs :=
  { ctr := o.ctr.filterV fun k _ => hostCounter k
    sat := o.sat.filterV fun k _ => hostCounter k
    head := o.head.filterV fun k _ => k = 17
    recs := o.recs.filterV fun k _ => k / 256 = 17 }

namespace Work

/-- The host side is taken into reset, and the fabric side ends every live sequence of contexts 1 to 255 (R839). The
fetches of packets being acted on are given up with them, and what they wrote is in force (log entry 99). -/
def dropHost (w : Work) : Work :=
  let w := (w.modHs fun _ => { up := false }).modFs fun f => { f with latches := [] }
  (w.closeLoads fun l => match l.why with | .descriptor _ | .image _ => true | _ => false).endAll fun c => 0 < c

/-- What a context keeps of a fabric-side reset: what it was waiting for is gone, and its reply stream leaves (R838; DEDUCED, log
entry 147). -/
def forgetFabric (h : HsCtx) : HsCtx :=
  { h with acting := none, resetting := h.resetting && h.f2, stream := h.stream.map fun i => { i with need := 0 } }

end Work

/-- RESET_HS: the host side stops and returns to its defaults. -/
def State.hostReset (s : State) : State :=
  let s := s.settle (start s).dropHost
  { s with clk := { s.clk with hs := 0, hsDegraded := false, hsFrom := 0, hsEst := [] }, obs := s.obs.dropHost }

end Sys2Proof.Machine
end

