-- ==== Sys2Proof/Machine/Serve.lean ====
section
/-! DEFINITION. From the submission queues to the reply streams: which unit acts on a packet, what a packet waits for, and
the release of replies and ring records (R105, R106, R113 to R123, R131, R146, R149, R215, R547, R733, R738, R748, R785,
R787, R837). -/

namespace Sys2Proof.Machine

namespace Work

/-! Acting on a packet. -/

/-- Acting on a packet of a tenant opcode, or of one that any context may send. -/
def actTenant (w : Work) (i : QItem) : Work × Act :=
  if i.opcode = opSubmit then w.actSubmit i
  else if i.opcode = opAppend then w.actAppend i
  else if i.opcode = opCancel then w.actCancel i
  else if i.opcode = opPause then w.actPause i
  else if i.opcode = opResume then w.actResume i
  else if i.opcode = opCredit then w.actCredit i
  else if i.opcode = opPrefixPut then w.actPrefixPut i
  else if i.opcode = opPrefixDrop then w.actPrefixDrop i
  else if i.opcode = opQuery then w.actQuery i
  else if i.opcode = opStatsRead then w.actStatsRead i
  else w.actPing i

/-- Acting on a packet of a steward opcode. -/
def actSteward (w : Work) (i : QItem) : Work × Act :=
  if i.opcode = opCfgRead then w.actCfgRead i
  else if i.opcode = opCfgWrite then w.actCfgWrite i
  else if i.opcode = opModelLoad then w.actModelLoad i
  else if i.opcode = opVariantSet then w.actVariantSet i
  else if i.opcode = opPoolAttach then w.actPoolAttach i
  else if i.opcode = opPoolDetach then w.actPoolDetach i
  else if i.opcode = opEngineFreeze then w.actEngineFreeze i
  else if i.opcode = opEngineThaw then w.actEngineThaw i
  else if i.opcode = opTenantSet then w.actTenantSet i
  else if i.opcode = opTenantThaw then w.actTenantThaw i
  else if i.opcode = opTenantReset then w.actTenantReset i
  else if i.opcode = opStencilLoad then w.actStencilLoad i
  else if i.opcode = opStencilDrop then w.actStencilDrop i
  else if i.opcode = opSharedGrant then w.actShared i
  else if i.opcode = opEnvelopeSet then w.actEnvelopeSet i
  else if i.opcode = opHorn then w.actHorn i
  else if i.opcode = opHornRelease then w.actHornRelease
  else if i.opcode = opCounterMode then w.actCounterMode i
  else if i.opcode = opTraceSet then w.actTraceSet i
  else if i.opcode = opTwinAttach then w.actTwinAttach i
  else if i.opcode = opTwinDetach then w.actTwinDetach
  else w.actTakeover

/-- The pairing state lets the instance act on an opcode of its steward (R738, R748, R752). -/
def twinPermits (w : Work) (o : Nat) : Bool :=
  let reads := o = opCfgRead || o = opPing
  match w.twinState with
  | .unpaired | .attachingA | .pairedA | .isolated => true
  | .detached => reads
  | .attachingS | .pairedS | .taking => reads || o = opStatsRead || o = opTakeover || o = opTwinDetach

/-- What the acting units answer: a packet of context 0 at a SHADOW or a former member is turned away (R738, R748), and one
before READY where the opcode's row says so (R149). -/
def act (w : Work) (i : QItem) : Work × Act :=
  if !w.twinPermits i.opcode then (w, .answer (Ans.bad .twinState))
  else if i.opcode < 0x40 then w.actTenant i
  else if !w.readyFor i.opcode then (w, .answer (Ans.refuse stNotReady))
  else w.actSteward i

/-- A packet's command boundary resets its context's counters under AE2_FREEZE (R785, R787). -/
def boundary (w : Work) (i : QItem) : Work :=
  if i.opcode = opStatsRead || i.opcode = opCfgRead || i.opcode = opQuery || i.opcode = opPing || i.opcode = opCredit then w
  else w.eff (.latch i.pkt.ctx.toNat)

/-! Replies. -/

/-- The command of a packet has been forwarded to the twin (R731). -/
def wasForwarded (w : Work) (i : QItem) : Bool :=
  w.mirrors && (w.fs.twin.forwarded.getD i.pkt.ctx.toNat []).contains i.pkt.cseq

/-- What follows the release of a packet's reply: KEY_GRACE of a replaced key (R101). -/
def afterReply (w : Work) (i : QItem) (r : Reply) : OnRelease :=
  let c := targetOf i.pkt
  if i.opcode = opTenantSet && r.status = stOk && i.pkt.opf 192 192 = 1 && (w.hctx c).prevKey.isSome then
    .graceStart c (w.hctx c).keyNum
  else .nothing

/-- The reply to a packet joins its context's stream (R120, R732). -/
def reply (w : Work) (i : QItem) (r : Reply) : Work :=
  let w := w.whenDo (w.wasForwarded i && !i.dup) fun w => w.modTwin fun t => { t with
    replies := t.replies ++ [(i.port, r)]
    forwarded := t.forwarded.modD i.pkt.ctx.toNat [] fun l => l.filter (· ≠ i.pkt.cseq) }
  w.stream i.pkt.ctx.toNat {
    port := i.port, msg := .reply r, credit := i.opcode ≠ opCredit && !i.dup, after := w.afterReply i r }

/-- A packet is answered. -/
def answer (w : Work) (i : QItem) (a : Ans) : Work := w.reply i (replyTo i.opcode i.pkt a)

/-- A packet violates check 10 or 11: its context freezes, and the packets that come after it are discarded (R131 to
R133). One that came before an earlier violation only counts. -/
def violation (w : Work) (i : QItem) (vclass : Nat) : Work := w.freezeCtx i.pkt.ctx.toNat vclass i.pkt.cseq

/-- A packet leaves the queue and is acted on, its reads meeting the SECDED reports that came with it. -/
def actOn (w : Work) (i : QItem) : Work :=
  let (w, a) := ((w.eccReports i.ecc).boundary i).act i
  match a with
  | .answer a => w.answer i a
  | .violate v => w.violation i v
  | .wait v => w.modHctx i.pkt.ctx.toNat fun h => { h with acting := some (i, v) }

/-- The fabric side takes a packet, or the host half of the gate answers it (R837). -/
def fabricTakes (w : Work) (i : QItem) : Bool := w.fsTakes && (i.opcode ≠ opPing || w.ready)

/-- The host half deals with a packet that the fabric side cannot take (R837, R878). -/
def hostHalf (w : Work) (i : QItem) : Work :=
  if w.cfgHostOnly i then
    let (w, a) := if i.opcode = opCfgRead then w.actCfgRead i else w.actCfgWrite i
    match a with
    | .answer a => w.answer i a
    | _ => w
  else w.answer i (w.hostAnswer i)

/-- A held horn keeps a packet in its queue (R215, R823). HORN itself is refused, as R214 says, and does not wait
(DEDUCED, log entry 32). -/
def hornHolds (w : Work) (i : QItem) : Bool :=
  w.fs.horn.held && w.fsTakes &&
    !(i.pkt.ctx.toNat = 0 && (i.opcode = opHorn || i.opcode = opHornRelease || i.opcode = opCfgRead || i.opcode = opPing))

/-- The answer to a wait that the state itself ends, if it has ended (R206, R214, R217, R320, R629). A TWIN_ATTACH whose
attach ends without PAIRED_A is answered BAD_STATE with cause TWIN_STATE (DESIGN CHOICE, log entry 126). -/
def waitOver (w : Work) (v : Wait) : Option Ans :=
  match v with
  | .descriptor | .image | .forward _ _ => none
  | .detach p es => if w.detaching p es then none else some {}
  | .cut n => if w.fs.horn.recording && w.fs.horn.cut = n then none else some { result := n }
  | .attach t =>
    if w.twinState = .attachingA then none
    else if w.twinState = .pairedA then some { result := w.hnsDown (w.now - t) % 2 ^ 32 }
    else some (Ans.bad .twinState)
  | .takeover =>
    if w.twinState = .taking then none
    else if w.twinState = .unpaired then some { result := w.fs.twin.fenced % 2 ^ 16 }
    else some (Ans.bad .twinState)
  | .handleCopy k => (match w.fs.copies.get? k with | some x => if x.done then some {} else none | none => some {})
  | .reset c => if w.resetReady c then some {} else none

/-- A TWIN_DETACH that comes behind the TWIN_ATTACH being acted on: it is acted on at once, and ends the attach (R746). -/
def cutsAttach (h : HsCtx) (i : QItem) : Bool :=
  decide (i.opcode = opTwinDetach) && i.answer.isNone && match h.acting with | some (_, .attach _) => true | _ => false

/-- Acting on such a TWIN_DETACH: the TWIN_ATTACH is answered before it (R122, R746). -/
def cutAttach (w : Work) (i : QItem) : Work :=
  let (w, a) := (w.boundary i).act i
  let w := match (w.hctx 0).acting with
    | some (j, v) => (match w.waitOver v with | some b => (w.modHctx 0 fun h => { h with acting := none }).answer j b | none => w)
    | none => w
  match a with
  | .answer a => w.answer i a
  | _ => w

/-- Serve a context's submission queue for as long as its head can be acted on; `fuel` bounds the packets. While a packet
is being acted on, no later one of its context is, a TWIN_DETACH behind a TWIN_ATTACH apart (DESIGN CHOICE, log entry
125). -/
def serve (fuel : Nat) (w : Work) (c : Nat) : Work :=
  match fuel with
  | 0 => w
  | n + 1 =>
    let h := w.hctx c
    match h.queue with
    | [] => w
    | i :: r =>
      if h.acting.isSome && !cutsAttach h i then w
      else
        let pop (w : Work) : Work := w.modHctx c fun h => { h with queue := r }
        match i.answer with
        | some a => ((pop w).reply i a).serve n c
        | none =>
          if h.resetting || w.hornHolds i then w
          else if !w.fabricTakes i then ((pop w).hostHalf i).serve n c
          else (if cutsAttach h i then (pop w).cutAttach i else (pop w).actOn i).serve n c

/-- Serve a context's whole queue. -/
def serveCtx (w : Work) (c : Nat) : Work := w.serve (w.hctx c).queue.length c

/-- Serve every context's queue. -/
def serveAll (w : Work) : Work := w.each (w.hs.ctxs.map (·.1)) serveCtx

/-- A CREDIT that has just been accepted bypasses the queue: it is acted on at once, and its reply keeps its place in the
order of CSEQ (R118, R122). -/
def creditFirst (w : Work) (c : Nat) : Work :=
  match (w.hctx c).queue.getLast? with
  | none => w
  | some i =>
    if i.opcode ≠ opCredit || i.answer.isSome || w.hornHolds i then w
    else
      let w := w.modHctx c fun h => { h with queue := h.queue.dropLast }
      let back (w : Work) (a : Ans) : Work := w.enqueue { i with answer := some (replyTo i.opcode i.pkt a) }
      if !w.fabricTakes i then back w (w.hostAnswer i)
      else
        let (w, a) := w.actCredit i
        match a with
        | .answer a => back w a
        | .violate v => w.violation i v
        | .wait _ => w

/-- A packet arrives whole on a host port. -/
def receive (w : Work) (port opcode : Nat) (p : Packet) (ecc : List EccEvent) : Work :=
  if !w.hs.up then w
  else
    let c := p.ctx.toNat
    ((w.admitPacket port opcode p ecc).creditFirst c).serveCtx c

/-! What packets wait for. -/

/-- The packet of a context that is being acted on is answered, and the queue goes on. -/
def finishActing (w : Work) (c : Nat) (i : QItem) (r : Reply) : Work :=
  ((w.modHctx c fun h => { h with acting := none }).reply i r).serveCtx c

/-- The effect that the end of a wait has besides the reply: the last steps of a TENANT_RESET (R629). -/
def waitEffect (w : Work) (v : Wait) : Work := match v with | .reset c => w.resetSteps c false | _ => w

/-- The tear-downs of F2 faults that waited (R867), and the steward's packet where its wait has ended. -/
def settleWaits (w : Work) : Work :=
  let torn := w.hs.ctxs.keys fun c h => h.f2 && w.resetReady c
  let w := w.each torn fun w c => w.resetSteps c true
  match (w.hctx 0).acting with
  | none => w
  | some (i, v) =>
    match w.waitOver v with
    | none => w
    | some a => (w.waitEffect v).finishActing 0 i (replyTo i.opcode i.pkt a)

/-- The packet of context 0 that waits for a fetch. -/
def fetching (w : Work) (v : Wait) : Option QItem :=
  match (w.hctx 0).acting with
  | some (i, x) => if x = v then some i else none
  | none => none

/-- The loads of a fetch are answered or given up. -/
def endFetch (w : Work) (image : Bool) (f : Fetch) : Work :=
  let mine (l : LoadOut) : Bool := match l.why with | .descriptor _ => !image | .image _ => image | _ => false
  let w := match w.fs.fab.loads.find fun _ l => mine l, f with
    | some (_, l), .bytes bs => w.recv l.engine bs.length
    | _, _ => w
  w.closeLoads mine

/-- The load of a fetch whose ACK_TIMEOUT has run before its data arrives (R88, R661). -/
def lateFetch (w : Work) (image : Bool) : Option (Nat × LoadOut) :=
  w.fs.fab.loads.find fun _ l =>
    (match l.why with | .descriptor _ => !image | .image _ => image | _ => false) && w.lapsed l.at_ w.ackTimeout

/-- DESCRIPTOR_FETCH_DONE (R204). -/
def descriptorFetchDone (w : Work) (f : Fetch) : Work :=
  match w.fetching .descriptor with
  | none => w
  | some i =>
    let (w, a) := (w.endFetch false f).attachDone i.pkt f
    w.finishActing 0 i (replyTo i.opcode i.pkt a)

/-- IMAGE_FETCH_DONE at an instance that serves (R196); a pair's SHADOW is told the outcome (R743). -/
def imageFetchDone (w : Work) (f : Fetch) (img : Option ImageIn) : Work :=
  match w.fetching .image with
  | none => w
  | some i =>
    let w := w.endFetch true f
    let (w, a) := if i.opcode = opModelLoad then w.modelLoadDone i.pkt f img else w.stencilLoadDone i.pkt f
    let w := w.whenDo (w.wasForwarded i) fun w =>
      w.sendFrame 0 (.decision (.imageOutcome 0 i.pkt.cseq a.status a.result))
    w.finishActing 0 i (replyTo i.opcode i.pkt a)

/-- LOAD_RETRY: a descriptor or an image whose load has failed is answered FABRIC_READ (R196, R204, R661). -/
def loadRetryDone (w : Work) (k : Nat) : Work :=
  let image := match w.fs.fab.loads.get? k with | some { why := .image _, .. } => true | _ => false
  match w.loadRetry k with
  | (w, some _) => if image then w.imageFetchDone .failed none else w.descriptorFetchDone .failed
  | (w, none) => w

/-- LOAD_RETRY at a SHADOW, for the image that it fetches itself (R743). -/
def shadowRetry (w : Work) (k : Nat) : Work :=
  match w.loadRetry k with
  | (w, some _) => w.shadowImage .failed none
  | (w, none) => w

/-- The data of a fetch against ACK_TIMEOUT: `act` where it comes in time. Data that comes after finds the load issued again or
failed; it is discarded, and counted as an access of its engine (R88, R89, R661; DESIGN CHOICE, log entry 138). -/
def fetchTimely (w : Work) (image : Bool) (retry : Work → Nat → Work) (act : Work → Work) : Work :=
  match w.lateFetch image with
  | some (k, l) => (retry (w.recv l.engine l.len) k).count (cIgnoredWrites l.engine)
  | none => act w

/-- The forward that a context waits for is answered with the home's reply, or with NO_PREFIX (R774, R776). -/
def forwardDone (w : Work) (c : Nat) (r : Option Reply) : Work :=
  match (w.hctx c).acting with
  | some (i, .forward _ _) => w.finishActing c i (r.getD (replyTo i.opcode i.pkt (Ans.refuse stNoPrefix)))
  | _ => w

/-- FORWARD_LOST. -/
def forwardLostDone (w : Work) (dest num : Nat) : Work :=
  match w.forwardLost dest num with
  | (w, some c) => w.forwardDone c none
  | (w, none) => w

/-- PEER_ANSWER. One that comes after 2 × PEER_LOSS finds its SUBMIT answered NO_PREFIX (R88, R776). -/
def peerAnswerDone (w : Work) (f : FrameIn) (src dest num : Nat) (r : Reply) : Work :=
  let w := if w.forwardLate src num then w.forwardLostDone src num else w
  match w.peerAnswer f src dest num r with
  | (w, some c) => w.forwardDone c (some r)
  | (w, none) => w

/-! Releases. -/

/-- R733 and R749 let an item of a stream go. -/
def mayRelease (w : Work) (i : StreamItem) : Bool :=
  match w.twinState with
  | .isolated => false
  | .pairedA => i.need ≤ w.fs.twin.link.acked
  | .detached => i.need = 0
  | _ => true

/-- What the release of a message brings about (R44, R101, R775, R882). -/
def onRelease (w : Work) (m : StreamMsg) (a : OnRelease) : Work :=
  let w := match m with
    | .reply r => if r.ctx = 0 && r.kind = 0 then w.unlatch (BitVec.ofNat 32 r.cseq) else w
    | .ring _ => w
  match a with
  | .nothing => w
  | .graceStart c n => w.modHctx c fun h => if h.keyNum = n then { h with graceAt := some w.hsNow } else h
  | .relayTaken member num => w.sendPeer member (.relayTaken num 1)

/-- The slot that the next message of a host port takes: slot 1 where a half-filled beat left at this same count, else slot
0 of a new beat (R711; DESIGN CHOICE, log entry 35). -/
def slotOn (w : Work) (port : Nat) : Nat := if w.hs.halfBeats.get? port = some w.hsNow then 1 else 0

/-- The first message of a context's stream leaves on its port (R710 to R712). -/
def sendHead (w : Work) (c : Nat) : Work :=
  match (w.hctx c).stream with
  | [] => w
  | i :: r =>
    let slot := w.slotOn i.port
    let w := (w.modHctx c fun h => { h with stream := r }).eff (.host i.port slot c i.msg)
    let half := if slot = 0 then w.hs.halfBeats.set i.port w.hsNow else w.hs.halfBeats.erase i.port
    let w := (w.modHs fun h => { h with halfBeats := half }).count (cTxBeats i.port) (1 - slot)
    let w := match i.msg with
      | .reply y => w.whenDo w.mirrors fun w => w.modTwin fun t => { t with
          replies := t.replies.filter fun x => !(x.2.ctx = y.ctx && x.2.cseq = y.cseq && x.2.kind = 0 && y.kind = 0) }
      | .ring _ => w
    w.onRelease i.msg i.after

/-- The head of a context's stream is a ring record. -/
def headIsRing (w : Work) (c : Nat) : Bool :=
  match (w.hctx c).stream with | { msg := .ring _, .. } :: _ => true | _ => false

/-- The head of a context's stream may be released now. -/
def headFree (w : Work) (c : Nat) : Bool := match (w.hctx c).stream with | i :: _ => w.mayRelease i | [] => false

/-- REPLY_RELEASE: what waits for the reply's release goes on. -/
def replyRelease (w : Work) (c : Nat) : Work :=
  if w.hs.up && w.headFree c && !w.headIsRing c then
    let w := w.sendHead c
    if w.fs.horn.held then w else w.settleWaits
  else w

/-- RING_RECORD_SEND. A held horn has stopped the stream unit (R823). -/
def ringRecordSend (w : Work) (c : Nat) : Work :=
  if w.hs.up && w.headFree c && w.headIsRing c && !(w.fs.horn.held && w.fs.boot.up) then w.sendHead c else w

/-! Framing and key grace (R93 to R95, R101, R709). -/

/-- FRAMING_DROP. Beats without a first-beat marker after R94, the late last beat of R95 among them, arrive with no packet
open: they are discarded and counted like any others (R89, R709). -/
def framingDrop (w : Work) (port : Nat) (first : Bool) (beats : Nat) : Work :=
  if !w.hs.up then w
  else
    let w := (w.count (cRxBeats port) beats).count (cFramingDrop port) (if first then 1 else beats)
    w.whenDo first fun w => w.modHs fun h => { h with skipping := h.skipping.filter (· ≠ port) }

/-- PARTIAL_PACKET_TIMEOUT. -/
def partialPacketTimeout (w : Work) (port beats : Nat) : Work :=
  if !w.hs.up then w
  else
    ((w.count (cRxBeats port) beats).count (cPartialDrop port)).modHs fun h => { h with
      skipping := if h.skipping.contains port then h.skipping else h.skipping ++ [port] }

/-- KEY_GRACE_EXPIRY: a previous key whose KEY_GRACE has run is no longer accepted. -/
def keyGraceExpiry (w : Work) (c : Nat) : Work :=
  match (w.hctx c).graceAt with
  | some t => if w.hs.up && w.hsFired t w.hs.keyGrace then
      w.modHctx c fun h => { h with prevKey := none, graceAt := none } else w
  | none => w

end Work

end Sys2Proof.Machine
end

