-- ==== Sys2Proof/Machine/Resets.lean ====
section
/-! DEFINITION. Resets of the two sides, the local elapsed counters and delay-line time, the end of a command, and when
the fabric side acts at all (R72, R73, R78 to R81, R718, R725, R734, R748, R749, R759, R823, R824, R832, R834, R838, R839,
R846, R871). -/

namespace Sys2Proof

/-- A command that has waited `n` hns at its unit's input: the durations that it carries are `n` older (R83). -/
def Instr.aged (c : Instr) (n : Nat) : Instr :=
  match c with
  | .peerForward f src dest num port p budget => .peerForward f src dest num port p (budget - n)
  | .peerMessageTransit f src dest m => .peerMessageTransit f src dest (Machine.Work.agedMsg n m)
  | .twinCommandFrame f port o p => .twinCommandFrame f port o (Machine.spendBudget p o n)
  | .twinDecisionFrame f d => .twinDecisionFrame f (d.aged n)
  | .twinBulkFrame f d => .twinBulkFrame f (d.aged n)
  | c => c

namespace Machine

namespace Work

/-- One context at a fabric-side reset: the packet that was being acted on is answered NOT_READY, what F2 left is
finished, and what waits in the queue falls to the host half (R838, R867). -/
def orphan (w : Work) (c : Nat) : Work :=
  let h := w.hctx c
  let w := match h.acting with
    | some (i, _) => w.answer i (Ans.refuse stNotReady)
    | none => w
  let w := w.modHctx c forgetFabric
  (w.whenDo h.f2 fun w => w.resetSteps c true).serveCtx c

/-- The fabric side is taken into reset: it returns to its defaults, and the host half of the gate answers every packet
that has crossed without a reply (R832, R838). -/
def dropFabric (w : Work) : Work :=
  let w := w.modFs fun _ => { boot := { up := false } }
  w.each (w.hs.ctxs.map (·.1)) orphan

/-- The messages of a context leave, first to last. -/
def flush (fuel : Nat) (w : Work) (c : Nat) : Work :=
  match fuel with
  | 0 => w
  | n + 1 => (w.sendHead c).flush n c

/-- The stream of context 0 leaves: a host side whose state failed first sends the FAULT notice (R871). -/
def flushSteward (w : Work) : Work := w.flush (w.hctx 0).stream.length 0

end Work

namespace State

/-- RESET_FS. -/
def fabricReset (s : State) : State :=
  let s := s.settle (start s).dropFabric
  { s with clk := { s.clk with fs := 0, fsDegraded := false, fsFrom := 0, fsEst := [] }, obs := s.obs.dropFabric, stalled := [] }

/-- RESET_HS_RELEASE: the self-test starts; the gate discards what it kept for the side (R718, R835). -/
def hostRelease (s : State) : State :=
  if s.m.hs.up then s
  else { s with m := { s.m with hs := { up := true }, fs := { s.m.fs with kept := [] } } }

/-- RESET_FS_RELEASE: the straps are read and SELF_TEST begins (R718, R759, R834). -/
def fabricRelease (s : State) (grpPos pairSide : Nat) : State :=
  if s.m.fs.boot.up then s
  else { s with
    idn := { s.idn with grpPos := grpPos % 8, pairSide := pairSide % 2 }
    m := { s.m with fs := { boot := { up := true }, obu := { left := if s.idn.isM then 240000 else 480000 } }, hs := { s.m.hs with keptForFs := 0 } } }

/-- A side whose state failed is reset as by its reset input, and leaves the reset again (R871). -/
def failedSide (s : State) (fabric : Bool) : State :=
  if fabric then s.fabricReset.fabricRelease s.idn.grpPos s.idn.pairSide
  else (s.settle (start s).flushSteward).hostReset.hostRelease

/-- TREF_EDGE: a side's counter counts a rising edge, unless it is on delay-line time (R72, R79). -/
def trefEdge (s : State) (fabric : Bool) : State :=
  if fabric then
    if s.m.fs.boot.up && !s.m.fs.boot.shutDone && !s.clk.fsDegraded then { s with clk := { s.clk with fs := s.clk.fs + 1 } }
    else s
  else if s.m.hs.up && !s.clk.hsDegraded then { s with clk := { s.clk with hs := s.clk.hs + 1 } }
  else s

/-- One estimated TREF period passes: a side on delay-line time advances its counter (R79). -/
def delayTick (s : State) : State :=
  { s with clk := { s.clk with
    fs := if s.m.fs.boot.up && !s.m.fs.boot.shutDone && s.clk.fsDegraded then s.clk.fs + 1 else s.clk.fs
    hs := if s.m.hs.up && s.clk.hsDegraded then s.clk.hs + 1 else s.clk.hs } }

end State

/-- A command ends. Where it has ended a held horn, what the hold kept in the submission queues goes on (R215, R825). -/
def finish (s : State) (w : Work) : State :=
  let w := w.whenDo (s.m.fs.horn.held && !w.fs.horn.held) fun w => w.serveAll.settleWaits
  let t := s.settle w
  if w.fx.any fun e => e = .resetSide true then t.failedSide true
  else if w.fx.any fun e => e = .resetSide false then t.failedSide false
  else t

/-- A command that changes the two sides. -/
def run (s : State) (f : Work → Work) : Outcome := .next (finish s (f (start s)))

/-- Something reaches a unit of the fabric side, `may` telling whether the unit deals with it at all. A stopped unit leaves
it at its input; so does one whose input still holds something from the stop (R48, R49, R68, R718, R823, R824). -/
def atUnit (s : State) (c : Instr) (may : Work → Bool) (f : Work → Work) : Outcome :=
  if !may (start s) then .next s
  else if (start s).halted || !s.stalled.isEmpty then .next { s with stalled := s.stalled ++ [{ cmd := c, at_ := s.clk.fs.toNat }] }
  else run s f

/-- A packet on a host port, or beats of one. -/
def onHostPort (s : State) (port : Nat) (f : Work → Work) : Outcome :=
  if port < s.idn.hostPorts then run s f else .fault .noSuchPort

/-- An event at a memory port. -/
def onMemPort (s : State) (port : Nat) (f : Work → Work) : Outcome :=
  if port < s.idn.memPorts then run s f else .fault .noSuchPort

/-- A packet of an opcode. -/
def packet (s : State) (port opcode : Nat) (p : Packet) (ecc : List EccEvent := []) : Outcome :=
  onHostPort s port fun w => w.receive port opcode p ecc

namespace State

/-- DELAY_LINE_ENTER: the counter takes the estimate of the time since the last valid edge (R78 to R80). A side that is on
delay-line time already only notes a TREF found off frequency (R77). -/
def delayLineEnter (s : State) (fabric freq : Bool) (estimate : Nat) : State :=
  let est : DWord := BitVec.ofNat 64 estimate
  if fabric then
    if !s.m.fs.boot.up || s.m.fs.boot.shutDone then s
    else if s.clk.fsDegraded then (if freq then { s with m := { s.m with fs := { s.m.fs with speed := { s.m.fs.speed with freqBad := true } } } } else s)
    else
      let s := { s with clk := { s.clk with fs := s.clk.fs + est, fsDegraded := true, fsFrom := s.clk.fs.toNat } }
      finish s ((start s).enterDelayLine true freq)
  else if !s.m.hs.up || s.clk.hsDegraded then s
  else
    let s := { s with clk := { s.clk with hs := s.clk.hs + est, hsDegraded := true, hsFrom := s.clk.hs.toNat } }
    finish s ((start s).enterDelayLine false freq)

/-- DELAY_LINE_LEAVE: the side counts edges again (R81). -/
def delayLineLeave (s : State) (fabric : Bool) : State :=
  if fabric then
    if !s.clk.fsDegraded then s
    else
      let s := { s with clk := { s.clk with fsDegraded := false, fsFrom := 0, fsEst := s.clk.fsTimes } }
      finish s ((start s).leaveDelayLine true)
  else if !s.clk.hsDegraded then s
  else
    let s := { s with clk := { s.clk with hsDegraded := false, hsFrom := 0, hsEst := s.clk.hsTimes } }
    finish s ((start s).leaveDelayLine false)

end State

namespace Work

/-! When the fabric side acts. -/

/-- Out of reset and not shut down (R832, R846). -/
def powered (w : Work) : Bool := w.fs.boot.up && !w.fs.boot.shutDone
/-- The instance decides for itself: not a SHADOW, taking over or a former member (R734, R748, R752). -/
def runs (w : Work) : Bool :=
  w.powered && (match w.twinState with | .unpaired | .attachingA | .pairedA | .isolated => true | _ => false)
/-- It may also issue on its fabric ports (R734, R748, R749). -/
def issues (w : Work) : Bool := w.runs && w.mayIssue
/-- Fabric requests to the aperture are delivered to it (R725). -/
def takesRequests (w : Work) : Bool := w.runs && w.twinRoleOut
/-- It acts on its memory ports (R748). -/
def memPowered (w : Work) : Bool := w.powered && w.twinState ≠ .detached
/-- It takes frames and heartbeats (R836, R843). -/
def hears (w : Work) : Bool := w.fsTakes

/-- What waits goes on, unless a held horn has stopped it (R215, R824). -/
def settled (w : Work) : Work :=
  if w.fs.horn.held then w else (if w.runs then w.sweepEmpty else w).settleWaits

/-- An engine acknowledges a store: `act` where the acknowledgement comes in time. One that comes after ACK_TIMEOUT finds the
engine frozen, and is counted as its access (R88, R89, R142, R660). An acknowledgement is one flit (R692; DESIGN CHOICE, log entry
141). -/
def acknowledge (w : Work) (e : Nat) (why : StoreWhy) (act : Work → Work) : Work :=
  if w.storeLate e why then ((w.storeAckTimeout e).count (cIgnoredWrites e)).settled
  else act ((w.recv e 0).modEngine e fun g => { g with stores := ackedUpTo why g.stores })

/-- Act where the side runs, a held horn notwithstanding (R824). -/
def ifPowered (w : Work) (f : Work → Work) : Work := if w.powered then f w else w
/-- Take a heartbeat or a HELLO, a held horn notwithstanding (R824). -/
def ifHears (w : Work) (f : Work → Work) : Work := if w.hears then f w else w

end Work

/-- A moment at the memory ports: each serves a round, unless a held horn has stopped it (R614, R823; DESIGN CHOICE, log
entry 108). -/
def State.memTick (s : State) : State :=
  let w := start s
  if w.memPowered && !w.halted then { s with m := w.memRound.m } else s

/-- What a moment brings where nothing waits: a side on delay-line time goes on counting (R79), and each memory port serves a
round of accesses (R614). -/
def State.tick (s : State) : State := s.delayTick.memTick

/-- Something arrives at a memory port whose units a held horn may have stopped. -/
def atMemPort (s : State) (port : Nat) (c : Instr) (f : Work → Work) : Outcome :=
  if port < s.idn.memPorts then atUnit s c Work.memPowered f else .fault .noSuchPort

end Machine

end Sys2Proof
end

