-- ==== Sys2Proof/Machine/FabricRows.lean ====
section
/-! DEFINITION. Fabric requests, acknowledgements, loads and atomics. -/

namespace Sys2Proof.Machine

open Work

/-- REDUCTION. A reduction of `width` bytes (R683). -/
def execReduction (src addr width value : Nat) (s : State) : Outcome :=
  atUnit s (.reduction src addr width value) Work.takesRequests fun w => w.reduction src addr width value

/-- ATOMIC_REQUEST. A remote atomic with its ASEQ (R688). -/
def execAtomicRequest (src aseq addr : Nat) (op : AtomicOp) (s : State) : Outcome :=
  atUnit s (.atomicRequest src aseq addr op) Work.takesRequests fun w => w.atomicRequest src aseq addr op

/-- APERTURE_LOAD. A load of the aperture (R662). -/
def execApertureLoad (src : Nat) (s : State) : Outcome :=
  atUnit s (.apertureLoad src) Work.takesRequests fun w => w.apertureLoad src

/-- FABRIC_PARTIAL_TIMEOUT. An inbound request is incomplete after 10 µs (R663). -/
def execFabricPartialTimeout (s : State) : Outcome :=
  atUnit s .fabricPartialTimeout Work.takesRequests fun w => w.fabricPartialTimeout

/-- STORE_ACK_TIMEOUT. A store to an engine goes unacknowledged for ACK_TIMEOUT (R660). -/
def execStoreAckTimeout (engine : Nat) (s : State) : Outcome :=
  atUnit s (.storeAckTimeout engine) Work.runs fun w => (w.storeAckTimeout engine).settled

/-- LOAD_RETRY. An outstanding load, by its number, goes unanswered for ACK_TIMEOUT (R661). -/
def execLoadRetry (load : Nat) (s : State) : Outcome :=
  atUnit s (.loadRetry load) (fun w => if w.follows then w.hears else w.powered && w.twinState ≠ .detached) fun w =>
    if w.follows then w.shadowRetry load else (w.loadRetryDone load).settled

/-- ATOMIC_REPLY. An engine's answer to an atomic of the AE-3 (R691). -/
def execAtomicReply (engine aseq : Nat) (status : AtomicStatus) (value : Nat) (s : State) : Outcome :=
  atUnit s (.atomicReply engine aseq status value) Work.powered fun w => (w.atomicAnswer engine aseq status value).settled

/-- ATOMIC_RETRY. The answer to an atomic of the AE-3 is missing (R691). -/
def execAtomicRetry (engine : Nat) (s : State) : Outcome :=
  atUnit s (.atomicRetry engine) Work.powered fun w => (w.atomicRetry engine).settled

/-- DESCRIPTOR_FETCH_DONE. The descriptor of the POOL_ATTACH being acted on has been fetched (R204). -/
def execDescriptorFetchDone (f : Fetch) (s : State) : Outcome :=
  atUnit s (.descriptorFetchDone f) Work.runs fun w =>
    (w.fetchTimely false loadRetryDone fun w => w.descriptorFetchDone f).settled

/-- IMAGE_FETCH_DONE. The image of the load being acted on has been fetched, with the model image that its bytes decode to (R196). -/
def execImageFetchDone (f : Fetch) (img : Option ImageIn) (s : State) : Outcome :=
  atUnit s (.imageFetchDone f img) (fun w => if w.follows then w.hears else w.runs) fun w =>
    if w.follows then w.fetchTimely true shadowRetry fun w => w.shadowImage f img
    else (w.fetchTimely true loadRetryDone fun w => w.imageFetchDone f img).settled

end Sys2Proof.Machine
end

