-- ==== Sys2Proof/Machine/ObserveRows.lean ====
section
/-! DEFINITION. The horn, counter export and the observation interval. -/

namespace Sys2Proof.Machine

/-- HORN_TRIG. A rising edge on HORN_TRIG (R819). -/
def execHornTrig (s : State) : Outcome := run s fun w => w.ifPowered fun w => w.hornTrig

/-- HORN_LINK_MARKER. A horn marker on a link (R820). -/
def execHornLinkMarker (f : FrameIn) (cut : Nat) (hold : Bool) (s : State) : Outcome :=
  atUnit s (.hornLinkMarker f cut hold) Work.hears fun w => w.timely f fun w => w.hornLinkMarker f cut hold

/-- HORN_CUT_DONE. Every marker has arrived; the messages that the channels held (R818, R826). -/
def execHornCutDone (chans : List CutChan) (s : State) : Outcome :=
  run s fun w => w.ifPowered fun w => (w.hornCutDone chans).settleWaits

/-- COUNTER_EXPORT. The export interval (R806). -/
def execCounterExport (s : State) : Outcome :=
  atUnit s .counterExport Work.issues fun w => w.counterExport

/-- OBS_BUDGET_INTERVAL. The observation interval (R808). -/
def execObsBudgetInterval (s : State) : Outcome :=
  atUnit s .obsBudgetInterval Work.issues fun w => w.obsBudgetInterval

end Sys2Proof.Machine
end

