-- ==== Sys2Proof/Machine/ParkRows.lean ====
section
/-! DEFINITION. Park copies, restores, placements, handle copies and the memory ports. -/

namespace Sys2Proof.Machine

/-- A finished copy may let the pool that it was taken from be swept. -/
def Work.parkCopySwept (w : Work) (s : Nat) (pages : List Byte) : Work :=
  let p := (w.seq s).park.map (·.pool)
  let w := w.parkCopyDone s pages
  match p with | some p => w.sweepPool p | none => w

/-- PARK_COPY_DONE. The pages of a park copy have been read and its last extent is written (R298). -/
def execParkCopyDone (slot : Nat) (pages : List Byte) (s : State) : Outcome :=
  atUnit s (.parkCopyDone slot pages) Work.runs fun w => (w.parkCopySwept slot pages).settled

/-- PARK_COPY_RETRY. A copy that waits for extents is tried again (R617). -/
def execParkCopyRetry (slot : Nat) (s : State) : Outcome :=
  atUnit s (.parkCopyRetry slot) Work.runs fun w => w.parkCopyRetry slot

/-- RESTORE_DONE. The last restore store is acknowledged (R598). -/
def execRestoreDone (slot : Nat) (s : State) : Outcome :=
  atUnit s (.restoreDone slot) Work.runs fun w => w.restoreDone slot

/-- PLACEMENT_DONE. The last extent of a placement of a prefix handle is acknowledged (R313). -/
def execPlacementDone (pool handle : Nat) (s : State) : Outcome :=
  atUnit s (.placementDone pool handle) Work.runs fun w => w.placementDone pool handle

/-- HANDLE_COPY_DONE. The pages of a new prefix handle have been read and its park-tier copy is written (R312). -/
def execHandleCopyDone (handle : Nat) (pages : List Byte) (s : State) : Outcome :=
  atUnit s (.handleCopyDone handle pages) Work.runs fun w => (w.handleCopyDone handle pages).settled

/-- MEM_READ_RETURN. A block returns on a memory port with its CRC word (R706). -/
def execMemReadReturn (port addr : Nat) (data : List Byte) (crc : Word) (s : State) : Outcome :=
  atMemPort s port (.memReadReturn port addr data crc) fun w => w.memReadReturn port addr data crc

/-- MEM_RETRAIN. A memory port retrains (R700). -/
def execMemRetrain (port : Nat) (ok : Bool) (rate : Nat) (s : State) : Outcome :=
  onMemPort s port fun w => if w.memPowered then w.memRetrain port ok rate else w

/-- MEM_REFRESH. A memory port refreshes and reads its refresh-rate status (R701). -/
def execMemRefresh (port rate : Nat) (s : State) : Outcome :=
  onMemPort s port fun w => if w.memPowered then w.memRefresh port rate else w

/-- DFI_PHY_REQUEST. A PHY-initiated update or PHY master request (R694). -/
def execDfiPhyRequest (port : Nat) (s : State) : Outcome :=
  atMemPort s port (.dfiPhyRequest port) fun w => w.dfiPhyRequest port

end Sys2Proof.Machine
end

