-- ==== Sys2Proof/Machine/PeerRows.lean ====
section
/-! DEFINITION. The peer links. -/

namespace Sys2Proof.Machine

/-- HELLO_SEND. The HELLO interval (R761). -/
def execHelloSend (s : State) : Outcome := run s fun w => w.ifPowered fun w => w.helloSend

/-- HELLO_RX. A HELLO on a peer link, 1 to 3, with its FCRC (R762). -/
def execHelloRx (link ackseq : Nat) (fcrc : Word) (h : Heartbeat) (s : State) : Outcome :=
  run s fun w => w.ifHears fun w => w.helloRx link ackseq fcrc h

/-- PEER_LINK_LOSS. PEER_LOSS without a valid frame on a peer link (R762). -/
def execPeerLinkLoss (link : Nat) (s : State) : Outcome := run s fun w => w.ifHears fun w => w.peerLinkLoss link

/-- PEER_FORWARD. A FORWARD (R771). -/
def execPeerForward (f : FrameIn) (src dest num port : Nat) (p : Packet) (budget : Nat) (s : State) : Outcome :=
  atUnit s (.peerForward f src dest num port p budget) Work.hears fun w => w.timely f fun w => w.peerForward f src dest num port p budget

/-- PEER_ANSWER. An ANSWER (R774). -/
def execPeerAnswer (f : FrameIn) (src dest num : Nat) (r : Reply) (s : State) : Outcome :=
  atUnit s (.peerAnswer f src dest num r) Work.hears fun w => w.timely f fun w => w.peerAnswerDone f src dest num r

/-- FORWARD_RETRY. A FORWARD goes unanswered for 50 µs (R773). -/
def execForwardRetry (dest num : Nat) (s : State) : Outcome :=
  atUnit s (.forwardRetry dest num) Work.runs fun w => w.forwardRetry dest num

/-- FORWARD_LOST. A FORWARD goes unanswered for 2 × PEER_LOSS (R776). -/
def execForwardLost (dest num : Nat) (s : State) : Outcome :=
  atUnit s (.forwardLost dest num) Work.runs fun w => w.forwardLostDone dest num

/-- FORWARD_PATH_LOST. A forwarding member is undeliverable (R776). -/
def execForwardPathLost (pos : Nat) (s : State) : Outcome :=
  atUnit s (.forwardPathLost pos) Work.runs fun w => w.forwardPathLost pos

/-- PEER_RELAY. A RELAY of a ring record, or the acknowledgement of one (R775). -/
def execPeerRelay (f : FrameIn) (src dest num : Nat) (r : Option RingRec) (s : State) : Outcome :=
  atUnit s (.peerRelay f src dest num r) Work.hears fun w => w.timely f fun w => w.peerRelay f src dest num r

/-- QUOTA_REBALANCE. The rebalancing interval (R767). -/
def execQuotaRebalance (s : State) : Outcome :=
  atUnit s .quotaRebalance Work.runs fun w => w.quotaRebalance

/-- QUOTA_MESSAGE. A QUOTA message (R768). -/
def execQuotaMessage (f : FrameIn) (src dest : Nat) (m : QuotaMsg) (s : State) : Outcome :=
  atUnit s (.quotaMessage f src dest m) Work.hears fun w => w.timely f fun w => w.quotaMessage f src dest m

/-- MIG_DATA_FRAME. A message of a migration: data, an answer to data, or the bytes that a restore reads (R777 to R779). -/
def execMigDataFrame (f : FrameIn) (src dest : Nat) (m : PeerMsg) (s : State) : Outcome :=
  atUnit s (.migDataFrame f src dest m) Work.hears fun w => w.timely f fun w => w.migDataFrame f src dest m

/-- MIGRATION_DEST_LOST. A migration's destination is undeliverable (R780). -/
def execMigrationDestLost (pos : Nat) (s : State) : Outcome :=
  atUnit s (.migrationDestLost pos) Work.runs fun w => w.migrationDestLost pos

/-- PEER_MESSAGE_TRANSIT. A peer message for another addressee (R763). -/
def execPeerMessageTransit (f : FrameIn) (src dest : Nat) (m : PeerMsg) (s : State) : Outcome :=
  atUnit s (.peerMessageTransit f src dest m) Work.hears fun w => w.timely f fun w => w.peerTransit f src dest m

/-- MIGRATED_EXTENT_READ. A restore's read of migrated extents (R778). -/
def execMigratedExtentRead (f : FrameIn) (src dest seq : Nat) (s : State) : Outcome :=
  atUnit s (.migratedExtentRead f src dest seq) Work.hears fun w => w.timely f fun w => w.migratedRead f src dest seq

/-- MIGRATED_EXTENTS_RETURN. The return of migrated extents (R778). -/
def execMigratedExtentsReturn (f : FrameIn) (src dest seq : Nat) (s : State) : Outcome :=
  atUnit s (.migratedExtentsReturn f src dest seq) Work.hears fun w => w.timely f fun w => w.migratedReturn f src dest seq

end Sys2Proof.Machine
end

