-- ==== Sys2Proof/Machine/PlanRows.lean ====
section
/-! DEFINITION. Composition, delivery, completion, commit and failure of steps. -/

namespace Sys2Proof.Machine

/-- COMPOSE_PLAN. Composition of the next plan of a pool, with the SECDED reports that its reads meet (R368). -/
def execComposePlan (pool : Nat) (ecc : List EccEvent) (s : State) : Outcome :=
  atUnit s (.composePlan pool ecc) Work.issues fun w => (((w.eccReports ecc).composePlan pool).sweepPool pool).settled

/-- TRIM. Trimming of a pool (R291). -/
def execTrim (pool : Nat) (s : State) : Outcome :=
  atUnit s (.trim pool) Work.runs fun w => w.trim pool

/-- PLAN_DELIVER. Delivery of the composed plan of a pool (R37). -/
def execPlanDeliver (pool : Nat) (s : State) : Outcome :=
  atUnit s (.planDeliver pool) Work.issues fun w => w.planDeliver pool

/-- PLAN_HEADER_ACKED. The header store is acknowledged at an engine (R341). -/
def execPlanHeaderAcked (pool engine : Nat) (s : State) : Outcome :=
  atUnit s (.planHeaderAcked pool engine) Work.runs fun w => w.acknowledge engine .plan fun w =>
    (w.planHeaderAcked pool engine).inputsDue pool

/-- INTERPOSE_COMPOSE. Composition of an interposed plan (R372). -/
def execInterposeCompose (pool : Nat) (s : State) : Outcome :=
  atUnit s (.interposeCompose pool) Work.issues fun w => w.interposeCompose pool

/-- MAILBOX_ACKED. A mailbox store is acknowledged at an engine (R376). -/
def execMailboxAcked (pool engine : Nat) (s : State) : Outcome :=
  atUnit s (.mailboxAcked pool engine) Work.runs fun w => w.acknowledge engine .mailbox fun w => w.mailboxAcked pool engine

/-- YIELD_TIMEOUT. The YIELD timer of a pool fires (R377). -/
def execYieldTimeout (pool : Nat) (s : State) : Outcome :=
  atUnit s (.yieldTimeout pool) Work.runs fun w => w.yieldTimeout pool

/-- COMPLETION_DONE. A DONE record that engine `src` stores at an address (R675). -/
def execCompletionDone (src addr : Nat) (r : Completion) (s : State) : Outcome :=
  atUnit s (.completionDone src addr r) Work.takesRequests fun w => (w.completion src addr (Work.withKind 0 r)).settled

/-- COMPLETION_YIELDED. A YIELDED record that engine `src` stores at an address (R675). -/
def execCompletionYielded (src addr : Nat) (r : Completion) (s : State) : Outcome :=
  atUnit s (.completionYielded src addr r) Work.takesRequests fun w => (w.completion src addr (Work.withKind 1 r)).settled

/-- COMPLETION_ABORT. A ABORT record that engine `src` stores at an address (R675). -/
def execCompletionAbort (src addr : Nat) (r : Completion) (s : State) : Outcome :=
  atUnit s (.completionAbort src addr r) Work.takesRequests fun w => (w.completion src addr (Work.withKind 2 r)).settled

/-- COMPLETION_TIMEOUT. An engine's completion timer fires (R679). -/
def execCompletionTimeout (engine : Nat) (s : State) : Outcome :=
  atUnit s (.completionTimeout engine) Work.runs fun w => (w.completionTimeout engine).settled

/-- STEP_COMMIT. Commit of the executing step of a pool (R36). -/
def execStepCommit (pool : Nat) (s : State) : Outcome :=
  atUnit s (.stepCommit pool) Work.runs fun w => (w.stepCommit pool).settled

/-- STEP_FAIL. Tear-down of a failed step of a pool (R369). -/
def execStepFail (pool : Nat) (s : State) : Outcome :=
  atUnit s (.stepFail pool) Work.runs fun w => (w.stepFail pool).settled

end Sys2Proof.Machine
end

