-- ==== Sys2Proof/Machine/PortRows.lean ====
section
/-! DEFINITION. Host ports, the service port, the message gate and the reply streams. -/

namespace Sys2Proof.Machine

/-- RESERVED_OPCODE. A packet with a reserved or unassigned opcode (R146). -/
def execReservedOpcode (port opcode : Nat) (p : Packet) (s : State) : Outcome := packet s port opcode p

/-- FRAMING_DROP. Beats that frame no packet; `first` tells whether one of them carries HP_RX_FIRST (R93, R709). -/
def execFramingDrop (port : Nat) (first : Bool) (beats : Nat) (s : State) : Outcome :=
  onHostPort s port fun w => w.framingDrop port first beats

/-- PARTIAL_PACKET_TIMEOUT. The packet open on a port is incomplete after 10 µs; `beats` of it have arrived (R94). -/
def execPartialPacketTimeout (port beats : Nat) (s : State) : Outcome :=
  onHostPort s port fun w => w.partialPacketTimeout port beats

/-- KEY_GRACE_EXPIRY. KEY_GRACE of a context ends (R101). -/
def execKeyGraceExpiry (ctx : Nat) (s : State) : Outcome := run s fun w => w.keyGraceExpiry ctx

/-- BOOT_START. A write of START (R842). -/
def execBootStart (s : State) : Outcome :=
  atUnit s .bootStart Work.runs Work.bootStart

/-- BOOT_DRAIN. A write of DRAIN (R844). -/
def execBootDrain (s : State) : Outcome :=
  atUnit s .bootDrain Work.runs Work.bootDrain

/-- BOOT_SHUT. A write of SHUT (R846). -/
def execBootShut (s : State) : Outcome :=
  atUnit s .bootShut Work.runs Work.bootShut

/-- SVC_KEY_LOAD. A write of LOAD (R840). -/
def execSvcKeyLoad (s : State) : Outcome := run s fun w => if w.hs.up then w.svcKeyLoad else w

/-- STEWARD_THAW. A write of 1 to STEWARD_THAW (R138). -/
def execStewardThaw (s : State) : Outcome := run s fun w => if w.hs.up then w.stewardThaw.serveCtx 0 else w

/-- PEER_MIGRATE_WRITE. A write to PEER_MIGRATE: sequence handle and member (R777). -/
def execPeerMigrateWrite (seq dest : Nat) (s : State) : Outcome :=
  atUnit s (.peerMigrateWrite seq dest) Work.runs fun w => w.peerMigrateWrite seq dest

/-- SVC_DATA_CAPTURE. A capture of SVC_DATA, after a write of SVC_ADDR where one is given (R892). -/
def execSvcDataCapture (addr : Option Word) (s : State) : Outcome := run s fun w => w.svcDataCapture addr

/-- SVC_DATA_UPDATE. An update of SVC_DATA, after a write of SVC_ADDR where one is given (R892). -/
def execSvcDataUpdate (addr : Option Word) (data : Word) (s : State) : Outcome :=
  run s fun w => w.svcDataUpdate addr data

/-- GATE_CROSSING. A message at the receiving half of the message gate (R716). -/
def execGateCrossing (g : GateMsg) (s : State) : Outcome :=
  atUnit s (.gateCrossing g) (fun _ => true) fun w => w.gateCrossing g

/-- REPLY_RELEASE. The next message of a context is a reply or notice, and its port takes it (R122, R733). -/
def execReplyRelease (ctx : Nat) (s : State) : Outcome := run s fun w => w.replyRelease ctx

/-- RING_RECORD_SEND. The next message of a context is a ring record, and its port takes it (R547, R550). -/
def execRingRecordSend (ctx : Nat) (s : State) : Outcome := run s fun w => w.ringRecordSend ctx

end Sys2Proof.Machine
end

