-- ==== Sys2Proof/Machine/ResetRows.lean ====
section
/-! DEFINITION. Resets, self-tests and bring-up. -/

namespace Sys2Proof.Machine

/-- RESET_HS. The host side's reset is taken (R839). -/
def execResetHs (s : State) : Outcome := .next s.hostReset

/-- RESET_FS. The fabric side's reset is taken (R838). -/
def execResetFs (s : State) : Outcome := .next s.fabricReset

/-- RESET_HS_RELEASE. RST_HS_N is released (R835). -/
def execResetHsRelease (s : State) : Outcome := .next s.hostRelease

/-- RESET_FS_RELEASE. RST_FS_N is released, and the straps are read (R834, R759). -/
def execResetFsRelease (grpPos pairSide : Nat) (s : State) : Outcome := .next (s.fabricRelease grpPos pairSide)

/-- HS_SELF_TEST_DONE. The host-side self-test ends (R835). -/
def execHsSelfTestDone (ok : Bool) (s : State) : Outcome := run s fun w => w.hsSelfTestDone ok

/-- SELF_TEST_DONE. The fabric-side self-test ends, with the store that failed (R835). -/
def execSelfTestDone (failStore : Option Nat) (s : State) : Outcome :=
  atUnit s (.selfTestDone failStore) Work.powered fun w => w.selfTestDone failStore

/-- CALIBRATE_DONE. Calibration ends with the 16 readings (R836). -/
def execCalibrateDone (readings : List Nat) (s : State) : Outcome :=
  atUnit s (.calibrateDone readings) Work.powered fun w => w.calibrateDone readings

/-- TRAIN_DONE. Training ends: the capacity that each port reads, in GiB, or none where it failed (R699). -/
def execTrainDone (results : List (Option Nat)) (s : State) : Outcome :=
  atUnit s (.trainDone results) Work.powered fun w => w.trainDone results

/-- CLEAR_DONE. The fixed regions are cleared (R834). -/
def execClearDone (s : State) : Outcome :=
  atUnit s .clearDone Work.powered fun w => w.clearDone

end Sys2Proof.Machine
end

