-- ==== Sys2Proof/Machine/StewardRows.lean ====
section
/-! DEFINITION. The packets of the steward. -/

namespace Sys2Proof.Machine

/-- CFG_READ. A CFG_READ packet. -/
def execCfgRead (port : Nat) (p : Packet) (s : State) : Outcome := packet s port opCfgRead p

/-- CFG_WRITE. A CFG_WRITE packet. -/
def execCfgWrite (port : Nat) (p : Packet) (s : State) : Outcome := packet s port opCfgWrite p

/-- MODEL_LOAD. A MODEL_LOAD packet. -/
def execModelLoad (port : Nat) (p : Packet) (s : State) : Outcome := packet s port opModelLoad p

/-- VARIANT_SET. A VARIANT_SET packet with ENABLE 1. -/
def execVariantSet (port : Nat) (p : Packet) (s : State) : Outcome := packet s port opVariantSet p

/-- VARIANT_WITHDRAW. A VARIANT_SET packet with ENABLE 0. -/
def execVariantWithdraw (port : Nat) (p : Packet) (s : State) : Outcome := packet s port opVariantSet p

/-- POOL_ATTACH. A POOL_ATTACH packet. -/
def execPoolAttach (port : Nat) (p : Packet) (s : State) : Outcome := packet s port opPoolAttach p

/-- POOL_DETACH. A POOL_DETACH packet. -/
def execPoolDetach (port : Nat) (p : Packet) (s : State) : Outcome := packet s port opPoolDetach p

/-- ENGINE_FREEZE. A ENGINE_FREEZE packet. -/
def execEngineFreeze (port : Nat) (p : Packet) (s : State) : Outcome := packet s port opEngineFreeze p

/-- ENGINE_THAW. A ENGINE_THAW packet. -/
def execEngineThaw (port : Nat) (p : Packet) (s : State) : Outcome := packet s port opEngineThaw p

/-- TENANT_SET. A TENANT_SET packet. -/
def execTenantSet (port : Nat) (p : Packet) (s : State) : Outcome := packet s port opTenantSet p

/-- TENANT_THAW. A TENANT_THAW packet. -/
def execTenantThaw (port : Nat) (p : Packet) (s : State) : Outcome := packet s port opTenantThaw p

/-- TENANT_RESET. A TENANT_RESET packet. -/
def execTenantReset (port : Nat) (p : Packet) (s : State) : Outcome := packet s port opTenantReset p

/-- STENCIL_LOAD. A STENCIL_LOAD packet. -/
def execStencilLoad (port : Nat) (p : Packet) (s : State) : Outcome := packet s port opStencilLoad p

/-- STENCIL_DROP. A STENCIL_DROP packet. -/
def execStencilDrop (port : Nat) (p : Packet) (s : State) : Outcome := packet s port opStencilDrop p

/-- SHARED_HANDLE_CREATE. A SHARED_HANDLE_GRANT packet of mode 0, or of the undefined mode 3. -/
def execSharedHandleCreate (port : Nat) (p : Packet) (s : State) : Outcome := packet s port opSharedGrant p

/-- SHARED_HANDLE_SET_GRANTS. A SHARED_HANDLE_GRANT packet of mode 1. -/
def execSharedHandleSetGrants (port : Nat) (p : Packet) (s : State) : Outcome := packet s port opSharedGrant p

/-- SHARED_HANDLE_DROP. A SHARED_HANDLE_GRANT packet of mode 2. -/
def execSharedHandleDrop (port : Nat) (p : Packet) (s : State) : Outcome := packet s port opSharedGrant p

/-- ENVELOPE_SET. A ENVELOPE_SET packet. -/
def execEnvelopeSet (port : Nat) (p : Packet) (s : State) : Outcome := packet s port opEnvelopeSet p

/-- HORN. A HORN packet. -/
def execHorn (port : Nat) (p : Packet) (s : State) : Outcome := packet s port opHorn p

/-- HORN_RELEASE. A HORN_RELEASE packet. -/
def execHornRelease (port : Nat) (p : Packet) (s : State) : Outcome := packet s port opHornRelease p

/-- COUNTER_MODE. A COUNTER_MODE packet. -/
def execCounterMode (port : Nat) (p : Packet) (s : State) : Outcome := packet s port opCounterMode p

/-- TRACE_SET. A TRACE_SET packet. -/
def execTraceSet (port : Nat) (p : Packet) (s : State) : Outcome := packet s port opTraceSet p

/-- TWIN_ATTACH. A TWIN_ATTACH packet. -/
def execTwinAttach (port : Nat) (p : Packet) (s : State) : Outcome := packet s port opTwinAttach p

/-- TWIN_DETACH. A TWIN_DETACH packet. -/
def execTwinDetach (port : Nat) (p : Packet) (s : State) : Outcome := packet s port opTwinDetach p

/-- TAKEOVER. A TAKEOVER packet. -/
def execTakeover (port : Nat) (p : Packet) (s : State) : Outcome := packet s port opTakeover p

end Sys2Proof.Machine
end

