-- ==== Sys2Proof/Machine/TenantRows.lean ====
section
/-! DEFINITION. The packets of tenants, and those that any context may send. -/

namespace Sys2Proof.Machine

/-- SUBMIT. A SUBMIT packet, with the SECDED reports that its reads meet (R154, R863). -/
def execSubmit (port : Nat) (p : Packet) (ecc : List EccEvent) (s : State) : Outcome :=
  packet s port opSubmit p ecc

/-- APPEND. A APPEND packet. -/
def execAppend (port : Nat) (p : Packet) (s : State) : Outcome := packet s port opAppend p

/-- CANCEL. A CANCEL packet. -/
def execCancel (port : Nat) (p : Packet) (s : State) : Outcome := packet s port opCancel p

/-- PAUSE. A PAUSE packet. -/
def execPause (port : Nat) (p : Packet) (s : State) : Outcome := packet s port opPause p

/-- RESUME. A RESUME packet. -/
def execResume (port : Nat) (p : Packet) (s : State) : Outcome := packet s port opResume p

/-- CREDIT. A CREDIT packet. -/
def execCredit (port : Nat) (p : Packet) (s : State) : Outcome := packet s port opCredit p

/-- PREFIX_PUT. A PREFIX_PUT packet. -/
def execPrefixPut (port : Nat) (p : Packet) (s : State) : Outcome := packet s port opPrefixPut p

/-- PREFIX_DROP. A PREFIX_DROP packet. -/
def execPrefixDrop (port : Nat) (p : Packet) (s : State) : Outcome := packet s port opPrefixDrop p

/-- QUERY. A QUERY packet. -/
def execQuery (port : Nat) (p : Packet) (s : State) : Outcome := packet s port opQuery p

/-- STATS_READ. A STATS_READ packet. -/
def execStatsRead (port : Nat) (p : Packet) (s : State) : Outcome := packet s port opStatsRead p

/-- PING. A PING packet. -/
def execPing (port : Nat) (p : Packet) (s : State) : Outcome := packet s port opPing p

end Sys2Proof.Machine
end

