-- ==== Sys2Proof/Machine/TimerRows.lean ====
section
/-! DEFINITION. Timers, time and temperature. -/

namespace Sys2Proof.Machine

/-- DEADLINE_EXPIRY. A deadline timer fires (R574). -/
def execDeadlineExpiry (slot : Nat) (s : State) : Outcome :=
  atUnit s (.deadlineExpiry slot) Work.runs fun w => w.deadlineExpiry slot

/-- STALL_EXPIRY. A stall timer fires (R545). -/
def execStallExpiry (slot : Nat) (s : State) : Outcome :=
  atUnit s (.stallExpiry slot) Work.runs fun w => w.stallExpiry slot

/-- PARK_TTL_EXPIRY. A park TTL elapses (R259). -/
def execParkTtlExpiry (slot : Nat) (s : State) : Outcome :=
  atUnit s (.parkTtlExpiry slot) Work.runs fun w => w.parkTtlExpiry slot

/-- HANDLE_EXPIRY. A prefix handle expires (R317). -/
def execHandleExpiry (handle : Nat) (s : State) : Outcome :=
  atUnit s (.handleExpiry handle) Work.runs fun w => (w.handleExpiry handle).settled

/-- MASK_PARTITION_APPLY. A pending partition request meets an empty partition (R497). -/
def execMaskPartitionApply (part : Nat) (s : State) : Outcome :=
  atUnit s (.maskPartitionApply part) Work.runs fun w => w.maskPartitionApply part

/-- SPEED_RECOMPUTE. The 16 replica-path readings (R52). -/
def execSpeedRecompute (readings : List Nat) (s : State) : Outcome :=
  atUnit s (.speedRecompute readings) Work.powered fun w => w.speedRecompute readings

/-- UNDERRUN_HOLD_CLEAR. 100 µs without an underrun (R55). -/
def execUnderrunHoldClear (s : State) : Outcome :=
  atUnit s .underrunHoldClear Work.powered fun w => w.underrunHoldClear

/-- THERM_UPDATE. The 12 junction sensors (R902). -/
def execThermUpdate (codes : List Nat) (s : State) : Outcome :=
  atUnit s (.thermUpdate codes) Work.powered fun w => w.thermUpdate codes

/-- DELAY_LINE_ENTER. A side loses TREF, or finds it off frequency; `estimate` edges are estimated since the last valid edge (R78, R79). -/
def execDelayLineEnter (fabric freq : Bool) (estimate : Nat) (s : State) : Outcome :=
  .next (s.delayLineEnter fabric freq estimate)

/-- DELAY_LINE_LEAVE. A side has seen 10 µs of valid TREF edges (R81). -/
def execDelayLineLeave (fabric : Bool) (s : State) : Outcome := .next (s.delayLineLeave fabric)

/-- TREF_EDGE. A TREF edge passes a side's glitch filter (R72). -/
def execTrefEdge (fabric : Bool) (s : State) : Outcome := .next (s.trefEdge fabric)

end Sys2Proof.Machine
end

