-- ==== Sys2Proof/Machine/TwinRows.lean ====
section
/-! DEFINITION. The pairing link. -/

namespace Sys2Proof.Machine

/-- HEARTBEAT_SEND. The heartbeat interval (R729). -/
def execHeartbeatSend (s : State) : Outcome := run s fun w => w.ifPowered fun w => w.heartbeatSend

/-- HEARTBEAT_RX. A HEARTBEAT on the pairing link with its FCRC (R750). -/
def execHeartbeatRx (ackseq : Nat) (fcrc : Word) (h : Heartbeat) (s : State) : Outcome :=
  run s fun w => w.ifHears fun w => (w.heartbeatRx ackseq fcrc h).settled

/-- TWIN_COMMAND_FRAME. A COMMAND frame (R731). -/
def execTwinCommandFrame (f : FrameIn) (port opcode : Nat) (p : Packet) (s : State) : Outcome :=
  atUnit s (.twinCommandFrame f port opcode p) Work.hears fun w => w.twinCommandFrame f port opcode p

/-- TWIN_DECISION_FRAME. A DECISION frame (R734). -/
def execTwinDecisionFrame (f : FrameIn) (d : Decision) (s : State) : Outcome :=
  atUnit s (.twinDecisionFrame f d) Work.hears fun w => (w.twinDecisionFrame f d).settled

/-- TWIN_BULK_FRAME. A BULK frame (R744). -/
def execTwinBulkFrame (f : FrameIn) (d : Decision) (s : State) : Outcome :=
  atUnit s (.twinBulkFrame f d) Work.hears fun w => w.twinBulkFrame f d

/-- TWIN_PARK_DATA_FRAME. A PARK_DATA frame (R742). -/
def execTwinParkDataFrame (f : FrameIn) (n off : Nat) (bytes : List Byte) (handle : Bool) (s : State) : Outcome :=
  atUnit s (.twinParkDataFrame f n off bytes handle) Work.hears fun w => w.twinParkDataFrame f n off bytes handle

/-- TWIN_ATTACH_DONE. The last BULK or PARK_DATA frame is acknowledged (R744). -/
def execTwinAttachDone (s : State) : Outcome :=
  atUnit s .twinAttachDone Work.runs fun w => (w.twinAttachDone).settled

/-- FRAME_RESEND. 20 µs without progress of ACKSEQ on a link (R728). -/
def execFrameResend (link : Nat) (s : State) : Outcome :=
  atUnit s (.frameResend link) Work.powered fun w => w.frameResend link

/-- TWIN_LOSS_ACTIVE. HB_LOSS without a valid frame at an ACTIVE (R749). -/
def execTwinLossActive (s : State) : Outcome := run s fun w => w.ifHears fun w => (w.twinLossActive).settled

/-- TWIN_LOSS_SHADOW. 2 × HB_LOSS without a valid frame at a SHADOW (R751). -/
def execTwinLossShadow (s : State) : Outcome := run s fun w => w.ifHears fun w => (w.twinLossShadow).settled

/-- TAKEOVER_DONE. Every pool is fenced (R752). -/
def execTakeoverDone (s : State) : Outcome :=
  atUnit s .takeoverDone Work.powered fun w => (w.takeoverDone.serveAll).settled

/-- TAKEOVER_GRACE_EXPIRY. TAKEOVER_GRACE ends (R756). -/
def execTakeoverGraceExpiry (s : State) : Outcome :=
  atUnit s .takeoverGraceExpiry Work.powered fun w => w.takeoverGraceExpiry

end Sys2Proof.Machine
end

