-- ==== Sys2Proof/Machine/UnitRows.lean ====
section
/-! DEFINITION. Records of the engines and what the units make of them. -/

namespace Sys2Proof.Machine

/-- ROUTER_PART. A router-candidate part (R397). -/
def execRouterPart (src addr : Nat) (r : RouterPart) (s : State) : Outcome :=
  atUnit s (.routerPart src addr r) Work.takesRequests fun w => w.routerPart src addr r

/-- ROUTE_RETURN_ACKED. The return header store of a pool's set, by its place in the order of arrival, is acknowledged at an engine (R417). -/
def execRouteReturnAcked (pool set engine : Nat) (s : State) : Outcome :=
  atUnit s (.routeReturnAcked pool set engine) Work.runs fun w =>
    w.acknowledge engine .route fun w => w.routeReturnAcked pool set engine

/-- SKETCH_PART. A sketch part or embed record, with the SECDED reports that the reads meet (R432). -/
def execSketchPart (src addr : Nat) (r : SketchPart) (ecc : List EccEvent) (s : State) : Outcome :=
  atUnit s (.sketchPart src addr r ecc) Work.takesRequests fun w =>
    ((w.eccReports ecc).drained (w.poolOf src) fun w => w.sketchPart src addr r).settled

/-- DRAFT_LIST. A draft list, with the bytes of its record as they lie in the ring (R507, R511). -/
def execDraftList (src addr : Nat) (bytes : List Byte) (s : State) : Outcome :=
  atUnit s (.draftList src addr bytes) Work.takesRequests fun w => w.draftList src addr bytes

/-- DEEP_FETCH_DATA. The retained logits of a shard arrive (R457). -/
def execDeepFetchData (seq index shard : Nat) (bs : List Byte) (s : State) : Outcome :=
  atUnit s (.deepFetchData seq index shard bs) Work.runs fun w =>
    w.drained (w.entry (handleSlot seq)).pool fun w => w.deepFetchData seq index shard bs

/-- APPEND_GROUP. The append group of a sequence (R263). -/
def execAppendGroup (seq : Nat) (s : State) : Outcome :=
  atUnit s (.appendGroup seq) Work.runs fun w => w.appendGroup seq

/-- ENERGY_REPORT. An energy report, with the bytes of its record (R639, R640). -/
def execEnergyReport (src addr : Nat) (bytes : List Byte) (s : State) : Outcome :=
  atUnit s (.energyReport src addr bytes) Work.takesRequests fun w => w.energyReport src addr bytes

/-- ENERGY_WAIT_EXPIRY. ENERGY_WAIT of the oldest unclosed step of a pool ends (R641). -/
def execEnergyWaitExpiry (pool : Nat) (s : State) : Outcome :=
  atUnit s (.energyWaitExpiry pool) Work.runs fun w => w.energyWaitExpiry pool

/-- KEEP_LIST. A keep-list (R602). -/
def execKeepList (src addr : Nat) (r : KeepList) (s : State) : Outcome :=
  atUnit s (.keepList src addr r) Work.takesRequests fun w => w.keepList src addr r

/-- KEEP_LIST_TIMEOUT. The keep-list of the sequence in a slot is missing (R603). -/
def execKeepListTimeout (slot : Nat) (s : State) : Outcome :=
  atUnit s (.keepListTimeout slot) Work.runs fun w => w.keepListTimeout slot

/-- RING_BODY_STORE. A body store into a record ring (R672). -/
def execRingBodyStore (src addr : Nat) (bytes : List Byte) (s : State) : Outcome :=
  atUnit s (.ringBodyStore src addr bytes) Work.takesRequests fun w => (w.ringBodyStore src addr bytes).settled

/-- KEEP_REQUEST_ACKED. A keep-request store is acknowledged at an engine (R603). -/
def execKeepRequestAcked (engine : Nat) (s : State) : Outcome :=
  atUnit s (.keepRequestAcked engine) Work.runs fun w => w.acknowledge engine .keep fun w => w.keepRequestAcked engine

/-- DEEP_FETCH_TIMEOUT. A deep-fetch load goes unanswered for the engine's COMPLETION_TIMEOUT (R461). -/
def execDeepFetchTimeout (seq index shard : Nat) (s : State) : Outcome :=
  atUnit s (.deepFetchTimeout seq index shard) Work.runs fun w => (w.deepFetchTimeout seq index shard).settled

end Sys2Proof.Machine
end

