-- ==== Sys2Proof/Machine/Dispatch.lean ====
section
/-! DEFINITION. One arm per command: the meaning of each. -/

namespace Sys2Proof.Machine

/-- What a command does to the state; the queue is the step's. -/
def exec (i : Instr) (s : State) : Host.Outcome State Fault Refusal :=
  match i with
  | .submit port p ecc => Sys2Proof.Machine.execSubmit port p ecc s
  | .append port p => Sys2Proof.Machine.execAppend port p s
  | .cancel port p => Sys2Proof.Machine.execCancel port p s
  | .pause port p => Sys2Proof.Machine.execPause port p s
  | .resume port p => Sys2Proof.Machine.execResume port p s
  | .credit port p => Sys2Proof.Machine.execCredit port p s
  | .prefixPut port p => Sys2Proof.Machine.execPrefixPut port p s
  | .prefixDrop port p => Sys2Proof.Machine.execPrefixDrop port p s
  | .query port p => Sys2Proof.Machine.execQuery port p s
  | .statsRead port p => Sys2Proof.Machine.execStatsRead port p s
  | .ping port p => Sys2Proof.Machine.execPing port p s
  | .cfgRead port p => Sys2Proof.Machine.execCfgRead port p s
  | .cfgWrite port p => Sys2Proof.Machine.execCfgWrite port p s
  | .modelLoad port p => Sys2Proof.Machine.execModelLoad port p s
  | .variantSet port p => Sys2Proof.Machine.execVariantSet port p s
  | .variantWithdraw port p => Sys2Proof.Machine.execVariantWithdraw port p s
  | .poolAttach port p => Sys2Proof.Machine.execPoolAttach port p s
  | .poolDetach port p => Sys2Proof.Machine.execPoolDetach port p s
  | .engineFreeze port p => Sys2Proof.Machine.execEngineFreeze port p s
  | .engineThaw port p => Sys2Proof.Machine.execEngineThaw port p s
  | .tenantSet port p => Sys2Proof.Machine.execTenantSet port p s
  | .tenantThaw port p => Sys2Proof.Machine.execTenantThaw port p s
  | .tenantReset port p => Sys2Proof.Machine.execTenantReset port p s
  | .stencilLoad port p => Sys2Proof.Machine.execStencilLoad port p s
  | .stencilDrop port p => Sys2Proof.Machine.execStencilDrop port p s
  | .sharedHandleCreate port p => Sys2Proof.Machine.execSharedHandleCreate port p s
  | .sharedHandleSetGrants port p => Sys2Proof.Machine.execSharedHandleSetGrants port p s
  | .sharedHandleDrop port p => Sys2Proof.Machine.execSharedHandleDrop port p s
  | .envelopeSet port p => Sys2Proof.Machine.execEnvelopeSet port p s
  | .horn port p => Sys2Proof.Machine.execHorn port p s
  | .hornRelease port p => Sys2Proof.Machine.execHornRelease port p s
  | .counterMode port p => Sys2Proof.Machine.execCounterMode port p s
  | .traceSet port p => Sys2Proof.Machine.execTraceSet port p s
  | .twinAttach port p => Sys2Proof.Machine.execTwinAttach port p s
  | .twinDetach port p => Sys2Proof.Machine.execTwinDetach port p s
  | .takeover port p => Sys2Proof.Machine.execTakeover port p s
  | .reservedOpcode port opcode p => Sys2Proof.Machine.execReservedOpcode port opcode p s
  | .framingDrop port first beats => Sys2Proof.Machine.execFramingDrop port first beats s
  | .partialPacketTimeout port beats => Sys2Proof.Machine.execPartialPacketTimeout port beats s
  | .keyGraceExpiry ctx => Sys2Proof.Machine.execKeyGraceExpiry ctx s
  | .bootStart => Sys2Proof.Machine.execBootStart s
  | .bootDrain => Sys2Proof.Machine.execBootDrain s
  | .bootShut => Sys2Proof.Machine.execBootShut s
  | .svcKeyLoad => Sys2Proof.Machine.execSvcKeyLoad s
  | .stewardThaw => Sys2Proof.Machine.execStewardThaw s
  | .peerMigrateWrite seq dest => Sys2Proof.Machine.execPeerMigrateWrite seq dest s
  | .svcDataCapture addr => Sys2Proof.Machine.execSvcDataCapture addr s
  | .svcDataUpdate addr data => Sys2Proof.Machine.execSvcDataUpdate addr data s
  | .gateCrossing g => Sys2Proof.Machine.execGateCrossing g s
  | .replyRelease ctx => Sys2Proof.Machine.execReplyRelease ctx s
  | .ringRecordSend ctx => Sys2Proof.Machine.execRingRecordSend ctx s
  | .composePlan pool ecc => Sys2Proof.Machine.execComposePlan pool ecc s
  | .trim pool => Sys2Proof.Machine.execTrim pool s
  | .planDeliver pool => Sys2Proof.Machine.execPlanDeliver pool s
  | .planHeaderAcked pool engine => Sys2Proof.Machine.execPlanHeaderAcked pool engine s
  | .interposeCompose pool => Sys2Proof.Machine.execInterposeCompose pool s
  | .mailboxAcked pool engine => Sys2Proof.Machine.execMailboxAcked pool engine s
  | .yieldTimeout pool => Sys2Proof.Machine.execYieldTimeout pool s
  | .completionDone src addr r => Sys2Proof.Machine.execCompletionDone src addr r s
  | .completionYielded src addr r => Sys2Proof.Machine.execCompletionYielded src addr r s
  | .completionAbort src addr r => Sys2Proof.Machine.execCompletionAbort src addr r s
  | .completionTimeout engine => Sys2Proof.Machine.execCompletionTimeout engine s
  | .stepCommit pool => Sys2Proof.Machine.execStepCommit pool s
  | .stepFail pool => Sys2Proof.Machine.execStepFail pool s
  | .routerPart src addr r => Sys2Proof.Machine.execRouterPart src addr r s
  | .routeReturnAcked pool set engine => Sys2Proof.Machine.execRouteReturnAcked pool set engine s
  | .sketchPart src addr r ecc => Sys2Proof.Machine.execSketchPart src addr r ecc s
  | .draftList src addr bytes => Sys2Proof.Machine.execDraftList src addr bytes s
  | .deepFetchData seq index shard bs => Sys2Proof.Machine.execDeepFetchData seq index shard bs s
  | .appendGroup seq => Sys2Proof.Machine.execAppendGroup seq s
  | .energyReport src addr bytes => Sys2Proof.Machine.execEnergyReport src addr bytes s
  | .energyWaitExpiry pool => Sys2Proof.Machine.execEnergyWaitExpiry pool s
  | .keepList src addr r => Sys2Proof.Machine.execKeepList src addr r s
  | .keepListTimeout slot => Sys2Proof.Machine.execKeepListTimeout slot s
  | .reduction src addr width value => Sys2Proof.Machine.execReduction src addr width value s
  | .atomicRequest src aseq addr op => Sys2Proof.Machine.execAtomicRequest src aseq addr op s
  | .apertureLoad src => Sys2Proof.Machine.execApertureLoad src s
  | .fabricPartialTimeout => Sys2Proof.Machine.execFabricPartialTimeout s
  | .storeAckTimeout engine => Sys2Proof.Machine.execStoreAckTimeout engine s
  | .loadRetry load => Sys2Proof.Machine.execLoadRetry load s
  | .atomicReply engine aseq status value => Sys2Proof.Machine.execAtomicReply engine aseq status value s
  | .atomicRetry engine => Sys2Proof.Machine.execAtomicRetry engine s
  | .descriptorFetchDone f => Sys2Proof.Machine.execDescriptorFetchDone f s
  | .imageFetchDone f img => Sys2Proof.Machine.execImageFetchDone f img s
  | .parkCopyDone slot pages => Sys2Proof.Machine.execParkCopyDone slot pages s
  | .parkCopyRetry slot => Sys2Proof.Machine.execParkCopyRetry slot s
  | .restoreDone slot => Sys2Proof.Machine.execRestoreDone slot s
  | .placementDone pool handle => Sys2Proof.Machine.execPlacementDone pool handle s
  | .handleCopyDone handle pages => Sys2Proof.Machine.execHandleCopyDone handle pages s
  | .memReadReturn port addr data crc => Sys2Proof.Machine.execMemReadReturn port addr data crc s
  | .memRetrain port ok rate => Sys2Proof.Machine.execMemRetrain port ok rate s
  | .memRefresh port rate => Sys2Proof.Machine.execMemRefresh port rate s
  | .dfiPhyRequest port => Sys2Proof.Machine.execDfiPhyRequest port s
  | .deadlineExpiry slot => Sys2Proof.Machine.execDeadlineExpiry slot s
  | .stallExpiry slot => Sys2Proof.Machine.execStallExpiry slot s
  | .parkTtlExpiry slot => Sys2Proof.Machine.execParkTtlExpiry slot s
  | .handleExpiry handle => Sys2Proof.Machine.execHandleExpiry handle s
  | .maskPartitionApply part => Sys2Proof.Machine.execMaskPartitionApply part s
  | .speedRecompute readings => Sys2Proof.Machine.execSpeedRecompute readings s
  | .underrunHoldClear => Sys2Proof.Machine.execUnderrunHoldClear s
  | .thermUpdate codes => Sys2Proof.Machine.execThermUpdate codes s
  | .delayLineEnter fabric freq estimate => Sys2Proof.Machine.execDelayLineEnter fabric freq estimate s
  | .delayLineLeave fabric => Sys2Proof.Machine.execDelayLineLeave fabric s
  | .heartbeatSend => Sys2Proof.Machine.execHeartbeatSend s
  | .heartbeatRx ackseq fcrc h => Sys2Proof.Machine.execHeartbeatRx ackseq fcrc h s
  | .twinCommandFrame f port opcode p => Sys2Proof.Machine.execTwinCommandFrame f port opcode p s
  | .twinDecisionFrame f d => Sys2Proof.Machine.execTwinDecisionFrame f d s
  | .twinBulkFrame f d => Sys2Proof.Machine.execTwinBulkFrame f d s
  | .twinParkDataFrame f n off bytes handle => Sys2Proof.Machine.execTwinParkDataFrame f n off bytes handle s
  | .twinAttachDone => Sys2Proof.Machine.execTwinAttachDone s
  | .frameResend link => Sys2Proof.Machine.execFrameResend link s
  | .twinLossActive => Sys2Proof.Machine.execTwinLossActive s
  | .twinLossShadow => Sys2Proof.Machine.execTwinLossShadow s
  | .takeoverDone => Sys2Proof.Machine.execTakeoverDone s
  | .takeoverGraceExpiry => Sys2Proof.Machine.execTakeoverGraceExpiry s
  | .helloSend => Sys2Proof.Machine.execHelloSend s
  | .helloRx link ackseq fcrc h => Sys2Proof.Machine.execHelloRx link ackseq fcrc h s
  | .peerLinkLoss link => Sys2Proof.Machine.execPeerLinkLoss link s
  | .peerForward f src dest num port p budget => Sys2Proof.Machine.execPeerForward f src dest num port p budget s
  | .peerAnswer f src dest num r => Sys2Proof.Machine.execPeerAnswer f src dest num r s
  | .forwardRetry dest num => Sys2Proof.Machine.execForwardRetry dest num s
  | .forwardLost dest num => Sys2Proof.Machine.execForwardLost dest num s
  | .forwardPathLost pos => Sys2Proof.Machine.execForwardPathLost pos s
  | .peerRelay f src dest num r => Sys2Proof.Machine.execPeerRelay f src dest num r s
  | .quotaRebalance => Sys2Proof.Machine.execQuotaRebalance s
  | .quotaMessage f src dest m => Sys2Proof.Machine.execQuotaMessage f src dest m s
  | .migDataFrame f src dest m => Sys2Proof.Machine.execMigDataFrame f src dest m s
  | .migrationDestLost pos => Sys2Proof.Machine.execMigrationDestLost pos s
  | .hornTrig => Sys2Proof.Machine.execHornTrig s
  | .hornLinkMarker f cut hold => Sys2Proof.Machine.execHornLinkMarker f cut hold s
  | .hornCutDone chans => Sys2Proof.Machine.execHornCutDone chans s
  | .counterExport => Sys2Proof.Machine.execCounterExport s
  | .obsBudgetInterval => Sys2Proof.Machine.execObsBudgetInterval s
  | .resetHs => Sys2Proof.Machine.execResetHs s
  | .resetFs => Sys2Proof.Machine.execResetFs s
  | .resetHsRelease => Sys2Proof.Machine.execResetHsRelease s
  | .resetFsRelease grpPos pairSide => Sys2Proof.Machine.execResetFsRelease grpPos pairSide s
  | .hsSelfTestDone ok => Sys2Proof.Machine.execHsSelfTestDone ok s
  | .selfTestDone failStore => Sys2Proof.Machine.execSelfTestDone failStore s
  | .calibrateDone readings => Sys2Proof.Machine.execCalibrateDone readings s
  | .trainDone results => Sys2Proof.Machine.execTrainDone results s
  | .clearDone => Sys2Proof.Machine.execClearDone s
  | .trefEdge fabric => Sys2Proof.Machine.execTrefEdge fabric s
  | .ringBodyStore src addr bytes => Sys2Proof.Machine.execRingBodyStore src addr bytes s
  | .keepRequestAcked engine => Sys2Proof.Machine.execKeepRequestAcked engine s
  | .deepFetchTimeout seq index shard => Sys2Proof.Machine.execDeepFetchTimeout seq index shard s
  | .peerMessageTransit f src dest m => Sys2Proof.Machine.execPeerMessageTransit f src dest m s
  | .migratedExtentRead f src dest seq => Sys2Proof.Machine.execMigratedExtentRead f src dest seq s
  | .migratedExtentsReturn f src dest seq => Sys2Proof.Machine.execMigratedExtentsReturn f src dest seq s

end Sys2Proof.Machine
end

