-- ==== Sys2Proof/Machine/Step.lean ====
section
/-! DEFINITION. One step: the command at the front of the queue, or an idle moment. -/

namespace Sys2Proof.Machine

/-- A moment with nothing commanded. Once the units are no longer stopped, the oldest thing that the stop left at a unit's
input is taken, and what has waited behind it keeps its order (R718, R823, R824); with nothing there, time passes. -/
def idle (s : State) : Host.Outcome State Fault Refusal :=
  match s.stalled with
  | [] => .next s.tick
  | c :: rest =>
    if (start s).halted then .next s.tick
    else match exec (c.cmd.aged ((start s).hnsUp (s.clk.fs.toNat - c.at_))) { s with stalled := [] } with
      | .next t => .next { t with stalled := t.stalled ++ rest }
      | o => o

/-- Take the command at the front of the queue and run it with the rest of the queue; with none waiting, a moment
passes. -/
def step (s : State) : Host.Outcome State Fault Refusal :=
  match s.pending with
  | [] => idle s
  | c :: rest => exec c { s with pending := rest }

/-- The state with the command that a word spells put at the front of its queue; unchanged where the word spells none. -/
def State.withFetchWord (s : State) (nbits w : Nat) : State :=
  match decodeTableWord nbits w with
  | some c => { s with pending := c :: s.pending }
  | none => s

end Sys2Proof.Machine
end

