-- ==== Sys2Proof/Machine/Ports.lean ====
section
/-! DEFINITION. The entry and exit FIFOs of the clocked ports (R49, R50, R68 to R70, R823): their depths, and what they hold
while a held horn has stopped the units behind them. -/

namespace Sys2Proof.Machine

/-- A clocked port. -/
inductive Port where
  | host (n : Nat)
  | fabric (n : Nat)
  | memory (n : Nat)
  | pairing
  | peer (n : Nat)
deriving DecidableEq, Repr

/-- Units of transfer that a port's entry FIFO holds (R70): 512-bit beats, 256-byte flits, or DFI beats. -/
def Port.entryDepth (p : Port) : Nat :=
  match p with
  | .host _ => 160
  | .fabric _ => 64
  | .memory _ => 32
  | .pairing => 128
  | .peer _ => 64

/-- Units of transfer that a port's exit FIFO holds (R70). -/
def Port.exitDepth (p : Port) : Nat :=
  match p with
  | .host _ => 64
  | .fabric _ => 64
  | .memory _ => 32
  | .pairing => 128
  | .peer _ => 64

/-- The port of a frame link: 0 the pairing link, 1 to 3 the peer links. -/
def linkPort (k : Nat) : Port := if k = 0 then .pairing else .peer (k - 1)

/-- The port that something which waits for a unit came in by, with the units of transfer that it takes there; none for what
no port brings. A frame takes a flit, and the bytes that it carries; a block of memory takes the 16 beats of its burst
(R697). -/
def arrivalOf (w : Work) (c : Instr) : Option (Port × Nat) :=
  let fab (e bytes : Nat) : Option (Port × Nat) := (w.fabPort e).map fun p => (.fabric p, Work.flits bytes)
  let frame (f : FrameIn) (bytes : Nat) : Option (Port × Nat) := some (linkPort f.link, Work.flits (bytes + 16))
  match c with
  | .completionDone src _ _ | .completionYielded src _ _ | .completionAbort src _ _ => fab src 64
  | .energyReport src _ _ => fab src 64
  | .routerPart src _ _ | .sketchPart src _ _ _ | .draftList src _ _ | .keepList src _ _ => fab src 64
  | .ringBodyStore src _ bs => fab src bs.length
  | .reduction src _ _ _ | .atomicRequest src _ _ _ | .apertureLoad src => fab src 32
  | .atomicReply e _ _ _ => fab e 32
  | .memReadReturn port _ _ _ => some (.memory port, 16)
  | .twinCommandFrame f _ _ p => frame { f with link := 0 } (64 + p.body.length)
  | .twinDecisionFrame f _ | .twinBulkFrame f _ => frame { f with link := 0 } 0
  | .twinParkDataFrame f _ _ bs _ => frame { f with link := 0 } bs.length
  | .peerForward f _ _ _ _ p _ => frame f (64 + p.body.length)
  | .peerAnswer f _ _ _ _ | .peerRelay f _ _ _ _ | .quotaMessage f _ _ _ => frame f 64
  | .migDataFrame f _ _ (.migData _ _ _ bs) | .migDataFrame f _ _ (.migBytes _ bs) => frame f bs.length
  | .migDataFrame f _ _ _ | .peerMessageTransit f _ _ _ => frame f 64
  | .migratedExtentRead f _ _ _ | .migratedExtentsReturn f _ _ _ => frame f 64
  | .hornLinkMarker f _ _ => frame f 0
  | _ => none

/-- The arrivals at a port that fit into `room` units, oldest first. -/
def fitting (w : Work) (p : Port) (room : Nat) (l : List Instr) : List Instr :=
  match l with
  | [] => []
  | c :: r =>
    match arrivalOf w c with
    | some (q, n) => if q ≠ p then fitting w p room r else if n ≤ room then c :: fitting w p (room - n) r else []
    | none => fitting w p room r

/-- What the entry FIFO of a port holds. What has arrived and does not fit waits beyond the port, which withholds ready
(R68): nothing of it is lost. -/
def State.entryFifo (s : State) (p : Port) : List Instr := fitting (start s) p p.entryDepth (s.stalled.map (·.cmd))

/-- The units of transfer at a port, in its entry FIFO and beyond it. -/
def State.unitsAt (s : State) (p : Port) : Nat :=
  sumOf (s.stalled.map fun c => match arrivalOf (start s) c.cmd with | some (q, n) => if q = p then n else 0 | none => 0)

/-- A port raises ready: its entry FIFO has room for one more unit (R68). -/
def State.portReady (s : State) (p : Port) : Bool := s.unitsAt p < p.entryDepth

end Sys2Proof.Machine
end

