-- ==== Sys2Proof/Safety.lean ====
section
/-! DEFINITION. The terms in which the statements speak of states: invariants, accepted packets, replies. -/

namespace Sys2Proof.Machine

/-! The observation unit. -/

/-- Every stored event record lies in the slot that its ring and its EVNO name, and no EVNO is 0 (R814). -/
def Obs.slotted (o : Obs) : Prop :=
  ∀ k r, (k, r) ∈ o.recs → r.ring = k / 256 ∧ r.evno % 256 = k % 256 ∧ 0 < r.evno ∧ r.evno < 2 ^ 32

/-- The stores of the observation unit list each index once, ascending: equal contents are equal data. -/
abbrev Obs.canonical (o : Obs) : Prop :=
  o.ctr.wf ∧ o.sat.wf ∧ o.head.wf ∧ o.recs.wf ∧ o.epochs.wf ∧ o.bases.wf

/-- Nothing that left a port is ever taken back: what was sent stays sent, in its order. -/
def Out.extends (a b : Out) : Prop := a.host <+: b.host ∧ a.fabric <+: b.fabric ∧ a.frames <+: b.frames

/-! Frames. -/

/-- The host side with nothing said of the frames to the twin that its messages wait for (R733). -/
def HostSide.unheld (h : HostSide) : HostSide :=
  { h with ctxs := h.ctxs.mapV fun _ x => { x with stream := x.stream.map fun i => { i with need := 0 } } }

/-- The fabric side of `t` is `f`, but for the pairing unit, in which frames to the twin are numbered (R732). -/
def State.fabricIs (t : State) (f : FabricSide) : Prop := t.m.fs = { f with twin := t.m.fs.twin }

/-- The host side of `t` is `h`, but for the frames that messages wait for. -/
def State.hostIs (t : State) (h : HostSide) : Prop := t.m.hs.unheld = h.unheld

/-- The host side without the messages that an instance which becomes DETACHED had not released (R722, log entry 135). -/
def HostSide.dropped (h : HostSide) : HostSide :=
  { h with ctxs := h.ctxs.mapV fun _ x => { x with stream := x.stream.filter fun i => i.need = 0 } }

/-- The state without those messages. -/
def State.dropped (s : State) : State := { s with m := { s.m with hs := s.m.hs.dropped } }

/-- What a command leaves alone outside the two sides: the queue, the carrier's straps, the clocks, every counter that is
not listed, every event ring that is not listed, the modes and the cut, the epochs and bases of every context that is not
listed, and the host and fabric ports but for the messages and operations that are listed. Frames to the twin may be
counted, and a counter that saturates may log its event in ring 16 (R732, R793). -/
structure Apart (s t : State) (ctrs rings : List Nat) (ctxs : List Nat := []) (host : List HostOut := [])
    (fabric : List FabOp := []) : Prop where
  pending : t.pending = s.pending
  idn : t.idn = s.idn
  clk : t.clk = s.clk
  ctr : ∀ off, off ∉ ctrs → off ≠ cTwinFramesTx → t.obs.ctr.get? off = s.obs.ctr.get? off
  recs : ∀ k, k / 256 ∉ rings → k / 256 ≠ 16 → t.obs.recs.get? k = s.obs.recs.get? k
  modes : t.obs.eventEn = s.obs.eventEn ∧ t.obs.ae2 = s.obs.ae2 ∧ t.obs.frozenAt = s.obs.frozenAt ∧ t.obs.cut = s.obs.cut
  epochs : ∀ c, c ∉ ctxs → t.obs.epochs.get? c = s.obs.epochs.get? c
  bases : ∀ k, k / 0x200 ∉ ctxs → t.obs.bases.get? k = s.obs.bases.get? k
  host : t.out.host = s.out.host ++ host
  fabric : t.out.fabric = s.out.fabric ++ fabric

/-- A counter has been added `n`, where its set is not stopped and it does not saturate (R783, R791, R793). -/
def Counted (s t : State) (off n : Nat) : Prop :=
  s.obs.frozenAt = none → (s.obs.ctr.getD off 0).toNat + n < 2 ^ 64 →
    (t.obs.ctr.getD off 0).toNat = (s.obs.ctr.getD off 0).toNat + n

/-! What a side can do. -/

/-- The fabric side is out of reset, not shut down, and not stopped by a held horn or by messages kept for the host side
(R718, R823, R832, R846). -/
abbrev Awake (s : State) : Prop :=
  s.m.fs.boot.up = true ∧ s.m.fs.boot.shutDone = false ∧ s.m.fs.horn.held = false ∧ s.stalled = [] ∧
    s.m.fs.kept.length < 4096

/-- The instance decides for itself: awake, and no SHADOW, taking over or former member (R734, R748, R752). -/
abbrev Decides (s : State) : Prop :=
  Awake s ∧ (s.m.fs.twin.state = .unpaired ∨ s.m.fs.twin.state = .attachingA ∨ s.m.fs.twin.state = .pairedA ∨
    s.m.fs.twin.state = .isolated)

/-- It may also issue on its fabric ports (R734, R748, R749). -/
abbrev Issues (s : State) : Prop :=
  Awake s ∧ (s.m.fs.twin.state = .unpaired ∨ s.m.fs.twin.state = .attachingA ∨ s.m.fs.twin.state = .pairedA)

/-- Requests of the engines are delivered to it: it issues, and TWIN_ROLE is high (R723, R725). -/
abbrev Serves (s : State) : Prop := Issues s ∧ (s.m.fs.twin.state = .unpaired → s.m.fs.pools ≠ [])

/-- It takes frames of the links: awake, and past its self-test (R836, R843). -/
abbrev Takes (s : State) : Prop := Awake s ∧ s.m.fs.boot.phase ≠ .selfTest

/-- No detachment is under way: every pool has an engine, none leaves, and no destroyed pool's pages are referred to (R206,
R274). -/
abbrev NoneLeaves (s : State) : Prop :=
  (∀ x ∈ s.m.fs.pools, (start s).poolEngines x.1 ≠ []) ∧ (∀ x ∈ s.m.fs.engines, x.2.leaving = false) ∧ s.m.fs.ghosts = []

/-- Nothing waits for a command to end: no packet of the steward is being acted on, no tear-down of F2 is owed, and no
detachment is under way (R206, R867). -/
abbrev Settled (s : State) : Prop :=
  ((start s).hctx 0).acting = none ∧ (∀ x ∈ s.m.hs.ctxs, x.2.f2 = false) ∧ NoneLeaves s

/-! Packets. -/

/-- The packet of opcode `op` on port `port` passes checks 1 to 9 of the message gate, nothing waits before it in its
context, and its units act on it at once (R105, R113, R131, R149, R215, R629, R738, R837). -/
structure Accepted (s : State) (port op : Nat) (p : Packet) : Prop where
  port_ok : port < s.idn.hostPorts
  up : s.m.hs.up = true
  body_ok : p.body.length ≤ 4096 ∧ p.body.length % 16 = 0
  auth : (start s).authOf op p ≠ .fails
  taken : p.ctx.toNat = 0 ∨ (start s).discardsTenants = false
  open_ : ((start s).hctx p.ctx.toNat).resetting = false ∧ ((start s).hctx p.ctx.toNat).frozen = false
  fresh : 1 ≤ (p.cseq - ((start s).hctx p.ctx.toNat).hiSeq).toNat ∧
    (p.cseq - ((start s).hctx p.ctx.toNat).hiSeq).toNat < 2 ^ 31
  permitted : opReserved op = false ∧ opPermitted p.ctx.toNat op = true ∧ bodyLengthOk op p = true
  idle : ((start s).hctx p.ctx.toNat).queue = [] ∧ ((start s).hctx p.ctx.toNat).acting = none
  credits : op ≠ opCredit → ((start s).hctx p.ctx.toNat).credits ≠ 0
  free : s.m.fs.horn.held = false
  ready : (start s).fsTakes = true ∧ (start s).readyFor op = true ∧ (op = opPing → (start s).ready = true)
  pairing : (start s).twinPermits op = true

/-- A packet passes checks 1 to 5 of the message gate (R105), and nothing waits before it in its context. -/
structure Arrives (s : State) (port op : Nat) (p : Packet) : Prop where
  port_ok : port < s.idn.hostPorts
  up : s.m.hs.up = true
  body_ok : p.body.length ≤ 4096 ∧ p.body.length % 16 = 0
  auth : (start s).authOf op p ≠ .fails
  taken : p.ctx.toNat = 0 ∨ (start s).discardsTenants = false
  open_ : ((start s).hctx p.ctx.toNat).resetting = false ∧ ((start s).hctx p.ctx.toNat).frozen = false
  fresh : 1 ≤ (p.cseq - ((start s).hctx p.ctx.toNat).hiSeq).toNat ∧
    (p.cseq - ((start s).hctx p.ctx.toNat).hiSeq).toNat < 2 ^ 31
  idle : ((start s).hctx p.ctx.toNat).queue = [] ∧ ((start s).hctx p.ctx.toNat).acting = none

/-- The packet as its queue holds it (R82, R113). -/
def arrived (s : State) (port op : Nat) (p : Packet) (ecc : List EccEvent := []) : QItem :=
  { port := port, opcode := op, pkt := p, noted := s.clk.hs.toNat, ecc := ecc }

/-- The notices of a key's age to which the acceptance of a packet leads (R102, R104). -/
def keyNotices (s : State) (op : Nat) (p : Packet) : List Reply :=
  let age (n : Nat) : List Reply :=
    if n = 2 ^ 30 then [{ status := stKeyAge, obj := p.ctx.toNat, kind := 1 }]
    else if n = 2 ^ 31 then [{ status := stKeyExpired, obj := p.ctx.toNat, kind := 1 }] else []
  match (start s).authOf op p with
  | .fails => []
  | .previous => age (((start s).hctx p.ctx.toNat).acceptedPrev + 1)
  | .current => age (((start s).hctx p.ctx.toNat).accepted + 1)

/-- The messages of a context's reply stream, in the order in which they will leave. -/
def messages (s : State) (c : Nat) : List StreamMsg := ((start s).hctx c).stream.map (·.msg)

/-- What every accepted packet leaves on the host side (R102, R106, R113): its CSEQ and MAC, the port, and an empty queue; no
other context's queue or sequence number changes, and no context's key, depth or freeze. -/
structure Noted (s t : State) (port op : Nat) (p : Packet) : Prop where
  seq : ((start t).hctx p.ctx.toNat).hiSeq = p.cseq ∧ ((start t).hctx p.ctx.toNat).hiMac = some p.mac ∧
    ((start t).hctx p.ctx.toNat).lastPort = some port ∧ ((start t).hctx p.ctx.toNat).queue = []
  accepted : ((start t).hctx p.ctx.toNat).accepted =
    ((start s).hctx p.ctx.toNat).accepted + (if (start s).authOf op p = .current then 1 else 0)
  others : ∀ c, c ≠ p.ctx.toNat → ((start t).hctx c).hiSeq = ((start s).hctx c).hiSeq ∧
    ((start t).hctx c).queue = ((start s).hctx c).queue ∧ ((start t).hctx c).acting = ((start s).hctx c).acting
  side : t.m.hs = { s.m.hs with ctxs := t.m.hs.ctxs, skipping := s.m.hs.skipping.filter (· ≠ port) }

/-- No context's key, depth or freeze changes. -/
def KeysKept (s t : State) : Prop :=
  ∀ c, ((start t).hctx c).key = ((start s).hctx c).key ∧ ((start t).hctx c).prevKey = ((start s).hctx c).prevKey ∧
    ((start t).hctx c).frozen = ((start s).hctx c).frozen ∧ ((start t).hctx c).sqDepth = ((start s).hctx c).sqDepth ∧
    ((start t).hctx c).nextDepth = ((start s).hctx c).nextDepth ∧ ((start t).hctx c).f2 = ((start s).hctx c).f2

/-- The reply to the packet is the one message that joins a reply stream, after the notices of R102 and R104; the packet
no longer waits (R106, R120, R122). -/
structure Answered (s t : State) (port op : Nat) (p : Packet) (a : Ans) : Prop where
  noted : Noted s t port op p
  kept : KeysKept s t
  done : ((start t).hctx p.ctx.toNat).acting = none
  stream : ∀ c, messages t c = messages s c ++ (if c = 0 then (keyNotices s op p).map .reply else []) ++
    (if c = p.ctx.toNat then [.reply (replyTo op p a)] else [])
  item : ∃ i, ((start t).hctx p.ctx.toNat).stream.getLast? = some i ∧ i.port = port ∧ (i.credit = true ↔ op ≠ opCredit)

/-- The packet has begun and is still being acted on, waiting for `v`: no reply yet (R106, R122). -/
structure Waiting (s t : State) (port op : Nat) (p : Packet) (v : Wait) : Prop where
  noted : Noted s t port op p
  kept : KeysKept s t
  acting : ((start t).hctx p.ctx.toNat).acting = some (arrived s port op p, v)
  stream : ∀ c, messages t c = messages s c ++ (if c = 0 then (keyNotices s op p).map .reply else [])

/-- The packet has violated a check with class `v`: its context is frozen, the violation and its sequence number are kept,
its FREEZE event is logged, and the notice of the freeze follows the notices of R102 and R104 (R130 to R133). -/
structure Frozen (s t : State) (port op : Nat) (p : Packet) (v : Nat) : Prop where
  frozen : ((start t).hctx p.ctx.toNat).frozen = true ∧ ((start t).hctx p.ctx.toNat).lastVclass = v ∧
    ((start t).hctx p.ctx.toNat).lastVseq = p.cseq ∧ ((start t).hctx p.ctx.toNat).hiSeq = p.cseq ∧
    ((start t).hctx p.ctx.toNat).queue = [] ∧ ((start t).hctx p.ctx.toNat).acting = none ∧
    ((start t).hctx p.ctx.toNat).lastPort = some port
  kept : ∀ c, ((start t).hctx c).key = ((start s).hctx c).key ∧ ((start t).hctx c).prevKey = ((start s).hctx c).prevKey ∧
    (c ≠ p.ctx.toNat → ((start t).hctx c).frozen = ((start s).hctx c).frozen ∧
      ((start t).hctx c).hiSeq = ((start s).hctx c).hiSeq ∧ ((start t).hctx c).queue = ((start s).hctx c).queue)
  stream : ∀ c, messages t c = messages s c ++ (if c = 0 then (keyNotices s op p).map .reply else []) ++
    (if c = p.ctx.toNat then [.reply { status := stFrozen, ctx := c, cseq := p.cseq.toNat, vclass := v, kind := 1 }] else [])
  logged : ∃ r, t.obs.recs.get? (17 * 256 + t.obs.head.getD 17 0 % 256) = some r ∧ r.code = 0x10 ∧
    r.arg0 = p.ctx.toNat + v * 256 ∧ r.arg1 = p.cseq.toNat

/-! Links and the horn. -/

/-- A frame that its link takes: its FCRC verifies, and it is the next in order or, on the pairing link, stands in no order
(R728). -/
abbrev InOrder (s : State) (f : FrameIn) : Prop :=
  f.crcOk = true ∧ ((f.link = 0 ∧ f.fseq = 0) ∨ f.fseq = ((start s).link f.link).taken + 1)

/-- A frame of the pairing link is the next one in order, and its FCRC verifies (R728). -/
abbrev InTurn (s : State) (f : FrameIn) : Prop := f.crcOk = true ∧ f.fseq = s.m.fs.twin.link.taken + 1

/-- A frame has been taken in its place (R728). -/
abbrev FrameTaken (s t : State) (f : FrameIn) : Prop :=
  ((start t).link f.link).taken = (if f.link = 0 ∧ f.fseq = 0 then ((start s).link 0).taken else f.fseq) ∧
    ((start t).link f.link).lastValid = some s.clk.fs.toNat

/-- A horn has started: the unit, the cut window with a record of each unit, the stopped counters of AE2_FREEZE, and the
markers (R791, R818, R820, R826). -/
structure Sounded (s t : State) (n : Nat) (hold : Bool) (origin : Nat) : Prop where
  unit : t.m.fs.horn = { s.m.fs.horn with held := hold, recording := true, cut := n, start := s.clk.fs.toNat }
  window : t.obs.cut.cut = n ∧ t.obs.cut.held = hold ∧ t.obs.cut.origin = origin ∧ t.obs.cut.start = s.clk.fs.toNat ∧
    t.obs.cut.done = false
  units : t.obs.cut.units.map (fun u => (u.unit, u.at_)) =
    (List.range 18).map fun u => (u, if u = 17 then s.clk.hs.toNat else s.clk.fs.toNat)
  stopped : t.obs.frozenAt = if s.obs.ae2 then some (s.obs.frozenAt.getD s.clk.fs.toNat) else none
  markers : ∃ l, t.out.frames = s.out.frames ++ l ∧ (∃ f ∈ l, f.1 = 0 ∧ f.2.body = .marker n hold) ∧
    ∀ i, i < 3 → ((start s).link (i + 1)).up = true → ∃ f ∈ l, f.1 = i + 1 ∧ f.2.body = .marker n hold

/-! The end of a sequence. -/

/-- The FINAL record of a sequence that ends without an append (R235, R532, R536). -/
def finalOf (s : State) (slot outcome code : Nat) : RingRec :=
  { (start s).recBase slot with
    kind := 1, code := code, outcome := outcome, notAccepting := (start s).notAccepting ((start s).entry slot)
    count := ((start s).entry slot).emitted }

/-- The sequence of a slot has ended: its outcome stands, it drains while a delivered plan names it, it is DONE while it
holds pages, and FREE otherwise; no other entry changes (R233). -/
abbrev Ended (s t : State) (slot outcome : Nat) : Prop :=
  ((start t).entry slot).outcome = outcome ∧
    ((start t).entry slot).st =
      (if (start s).inDelivered slot then .draining else if (start s).holdsPages slot then .done else .free) ∧
    ∀ k, k ≠ slot → (start t).entry k = (start s).entry k

/-! The pair. -/

/-- No copy waits for the twin's acknowledgement of its bytes (R742). -/
def NoMirrorCopy (s : State) : Prop :=
  (∀ x ∈ s.m.fs.seqs, ∀ r, x.2.park = some r → ∀ n, r.copy ≠ .mirroring n) ∧ ∀ x ∈ s.m.fs.copies, x.2.mirrorAt = none

/-- Index `k` of a table now reads `x`, and no other index has changed. -/
def Written {α : Type} (a b : Tbl α) (k : Nat) (x : Option α) : Prop := b.get? k = x ∧ ∀ j, j ≠ k → b.get? j = a.get? j

/-- A decision of the ACTIVE stands at the SHADOW: what it names is as it says, points in time are taken from the durations
that it carries, a remaining budget and a time to live lose the link allowance, and the SHADOW keeps its own bytes of the
same extents, its own queues and its own atomics (R83, R734, R735, R740, R742). Nothing else of the fabric side changes. -/
def Applied (s t : State) (d : Decision) : Prop :=
  let now := s.clk.fs.toNat
  let ago (since : Nat) : Nat := now - (start s).edges since
  let a := s.m.fs
  let b := t.m.fs
  match d with
  | .entry slot e x since left emit =>
    t.fabricIs { a with rqt := b.rqt, seqs := b.seqs } ∧ Written a.rqt b.rqt slot (some { e with
      admitAt := ago since, lastEmitAt := ago emit
      deadline := if e.deadline = 0 then 0 else now + (start s).edges (left - 5) }) ∧
    Written a.seqs b.seqs slot (x.map fun x =>
      Work.ownParkBytes (a.seqs.get? slot) { x.times (fun n => ago (n + 5)) with stallAt := none, deadlineFrom := now })
  | .pool n p => t.fabricIs { a with pools := b.pools, units := b.units } ∧ Written a.pools b.pools n
      (p.map (Pool.times ago fun n => now + (start s).edges (n - 5)))
  | .engine n e => t.fabricIs { a with engines := b.engines } ∧ Written a.engines b.engines n (e.map fun g =>
      { g with atomic := none, stores := [], nextAseq := match a.engines.get? n with | some o => o.nextAseq | none => 0 })
  | .seg n g => t.fabricIs { a with segs := b.segs } ∧
      Written a.segs b.segs n (g.map fun g => { g with lastRef := ago g.lastRef })
  | .copy n c => t.fabricIs { a with copies := b.copies } ∧ Written a.copies b.copies n (c.map fun k =>
      { k with bytes := match a.copies.get? n with
        | some o => if o.extents = k.extents then o.bytes else k.bytes
        | none => k.bytes })
  | .handle k h left => t.fabricIs { a with handles := b.handles } ∧ Written a.handles b.handles k (h.map fun r =>
      { r with expiry := r.expiry.map fun _ => now + (start s).edges (left - 5), setAt := now })
  | .model n m => t.fabricIs { a with models := b.models } ∧ Written a.models b.models n (some m)
  | .mask id i => t.fabricIs { a with masks := { a.masks with images := b.masks.images } } ∧
      Written a.masks.images b.masks.images id i
  | .maskPart n p => t.fabricIs { a with masks := { a.masks with parts := b.masks.parts } } ∧
      Written a.masks.parts b.masks.parts n (some p)
  | .ctx n c => t.fabricIs { a with ctxs := b.ctxs } ∧ Written a.ctxs b.ctxs n (some c)
  | .cfg off v => t.fabricIs { a with cfg := b.cfg } ∧ Written a.cfg b.cfg off v
  | .park used lost port guests => t.fabricIs { a with park := { a.park with
      used := used, lost := b.park.lost, lastPort := port, guests := guests } } ∧
      (a.twin.mirror ≠ 1 → b.park.lost = a.park.lost) ∧
      (a.twin.mirror = 1 → a.park.lost.wf = true → lost.wf = true →
        ∀ e, b.park.lost.has e = (a.park.lost.has e || lost.has e))
  | .slots fresh free retired => t.fabricIs { a with freshSlot := fresh, freeSlots := free, retired := retired }
  | .ids seg copy ghosts ratios => t.fabricIs { a with nextSeg := seg, nextCopy := copy, ghosts := ghosts, ratios := ratios }
  | .counter off v => t.fabricIs a ∧ t.obs.ctr.get? off = some v
  | .hostCtx n h => t.fabricIs a ∧
      let x := (start t).hctx n
      x.key = h.key ∧ x.prevKey = h.prevKey ∧ x.hiSeq = h.hiSeq ∧ x.hiMac = h.hiMac ∧ x.sqDepth = h.sqDepth ∧
      x.frozen = h.frozen ∧ x.graceAt = h.graceAt.map (fun n => s.clk.hs.toNat - (start s).edges n) ∧
      x.queue = ((start s).hctx n).queue ∧ x.acting = ((start s).hctx n).acting ∧ messages t n = messages s n
  | .decided c cseq port r => t.fabricIs a ∧ b.twin.replies = a.twin.replies ++ [(port, r)] ∧
      b.twin.waiting = a.twin.waiting.filter fun i => !(i.pkt.ctx.toNat = c && i.pkt.cseq = cseq)
  | .released c cseq => t.fabricIs a ∧ Written a.twin.released b.twin.released c (some cseq) ∧
      b.twin.replies = a.twin.replies.filter fun x => !(x.2.ctx = c && x.2.cseq ≤ cseq.toNat)
  | .lost e => t.fabricIs { a with park := { a.park with lost := a.park.lost.set e () } }
  | .mirror m => t.fabricIs a ∧ b.twin.mirror = m
  | .fault _ _ _ | .imageOutcome _ _ _ _ => t.fabricIs a
  | .dropped c cseq => t.fabricIs a ∧
      b.twin.waiting = a.twin.waiting.filter fun i => !(i.pkt.ctx.toNat = c && i.pkt.cseq = cseq)
  | .keyGrace n => t.fabricIs a ∧ t.hostIs { s.m.hs with keyGrace := n }
  | .traceSet budget digest opcount layer operator en ae2 => t.fabricIs { a with obu := { a.obu with
      budget := budget, digestEn := digest, opcountEn := opcount, layer := layer, operator := operator, eventEn := en } } ∧
      t.obs.ae2 = ae2

/-- A takeover has begun: TAKING, one takeover more, every engine that is not frozen fenced (R752, steps 1 to 3). -/
structure TakingOver (s t : State) : Prop where
  state : t.m.fs.twin.state = .taking ∧ t.m.fs.twin.takeovers = (s.m.fs.twin.takeovers + 1) % 2 ^ 32 ∧
    t.m.fs.twin.fenced = s.m.fs.pools.length
  fencing : ∀ e, e ∈ t.m.fs.twin.fencing ↔ ∃ g, (e, g) ∈ s.m.fs.engines ∧ g.frozen = false
  issued : ∃ l, t.out.fabric = s.out.fabric ++ l ∧ ∀ e g q, s.m.fs.engines.get? e = some g → g.frozen = false →
    s.m.fs.pools.get? g.pool = some q → ∃ n, FabOp.cas e ((start s).reg rFabSrc) n g.desc.ctrlAddr q.epoch (q.epoch + 1) ∈ l
  rest : t.fabricIs { s.m.fs with engines := t.m.fs.engines }

/-! Peer messages. -/

/-- A frame has left on a link with the given body. -/
def Sent (s t : State) (link : Nat) (b : FrameBody) : Prop :=
  ∃ l, t.out.frames = s.out.frames ++ l ∧ ∃ f ∈ l, f.1 = link ∧ f.2.body = b

/-- The fabric side is `f`, but that this member may have begun or ceased to coordinate its group, that its slices of the
quotas may have followed, and that messages may have found their path; not even those where it is of no group (R763, R766,
R775). -/
def OnlyLed (s t : State) (f : FabricSide) : Prop :=
  t.fabricIs { f with peer := t.m.fs.peer, ctxs := t.m.fs.ctxs } ∧
  (∀ c, (start t).fctx c = { (start s).fctx c with
    gqSlice := ((start t).fctx c).gqSlice, gqParkSlice := ((start t).fctx c).gqParkSlice }) ∧
  ((start s).groupEn = false → s.m.fs.peer.led = false → s.m.fs.peer.noPath = [] → s.m.fs.peer.relays = [] →
    t.fabricIs f)

/-- A member other than this one is reached over peer port `i`, whose link is up (R763, R764). -/
abbrev Reaches (s : State) (dest i : Nat) : Prop :=
  (start s).isMember dest = true ∧ dest ≠ s.idn.grpPos ∧ (start s).hopTo dest = some i ∧ ((start s).link (i + 1)).up = true

/-- A peer message arrives in its place and in time, on the pairing link or on a peer link that is up (R88, R728, R762). -/
abbrev Arriving (s : State) (f : FrameIn) : Prop :=
  f.link ≤ 3 ∧ (f.link = 0 ∨ ((start s).link f.link).up = true) ∧ (start s).frameLate f.link = false ∧ InOrder s f

/-! Engines and their records. -/

/-- The counters of the flits that a fabric port receives and sends for an engine (R692). -/
def portOf (s : State) (e : Nat) : List Nat :=
  match (start s).fabPort e with
  | some p => [cFabTx p, cFabRx p]
  | none => []

/-- The engines once every store that was issued for `why` is acknowledged. -/
def storesEnded (l : Tbl Engine) (why : StoreWhy) : Tbl Engine :=
  l.mapV fun _ g => { g with stores := g.stores.filter fun x => x.why ≠ why }

/-- The counters of what the fabric ports receive. -/
def rxCounts (s : State) : List Nat := (List.range s.idn.fabPorts).map cFabRx

/-- The data of the outstanding loads that `p` picks is counted in whole flits at its port (R692). -/
def LoadsCounted (s t : State) (p : LoadOut → Bool) : Prop :=
  ∀ i < s.idn.fabPorts, Counted s t (cFabRx i)
    ((s.m.fs.fab.loads.filter fun (_, l) => p l && (start s).fabPort l.engine == some i).map
      fun (_, l) => 256 * Work.flits l.len).sum

/-- An engine that is attached to a pool and not frozen. -/
structure Attached (s : State) (e : Nat) (g : Engine) (q : Pool) : Prop where
  engine : s.m.fs.engines.get? e = some g
  pool : s.m.fs.pools.get? g.pool = some q
  running : g.frozen = false

/-- The unit of a ring at which an engine's next record begins (R670). -/
def nextUnitOf (g : Engine) (r : RingDef) : Nat := g.ringPos.getD r.base 0

/-- The engine once its ring has taken a record of `n` units: the ring has advanced, and the record's body units are no
longer held (R670 to R672). -/
def tookRecord (g : Engine) (r : RingDef) (n : Nat) : Engine :=
  { g with
    ringPos := g.ringPos.set r.base (Work.nextUnit r (nextUnitOf g r) n)
    body := g.body.filterV fun o _ =>
      !(r.base + 64 * nextUnitOf g r ≤ o && o < r.base + 64 * nextUnitOf g r + 64 * n) }

/-- The header of a record of ring `r` arrives from engine `e` where the ring's next record begins (R669 to R671). -/
structure RecordArrives (s : State) (e addr : Nat) (g : Engine) (q : Pool) (r : RingDef) : Prop where
  serves : Serves s
  attached : Attached s e g q
  place : addr = (start s).blockAddr e + r.base + 64 * nextUnitOf g r
  inside : 64 * nextUnitOf g r < r.size

/-- A record of `n` units has been taken: its ring has advanced, and no other engine changes. -/
abbrev RecordTaken (s t : State) (e : Nat) (g : Engine) (r : RingDef) (n : Nat) : Prop :=
  t.m.fs.engines.get? e = some (tookRecord g r n) ∧ ∀ k, k ≠ e → t.m.fs.engines.get? k = s.m.fs.engines.get? k

/-- Pool `p` has become `q`, and no other pool changes. -/
abbrev PoolIs (s t : State) (p : Nat) (q : Pool) : Prop :=
  t.m.fs.pools.get? p = some q ∧ ∀ k, k ≠ p → t.m.fs.pools.get? k = s.m.fs.pools.get? k

/-- Engine `e`, which stood as `g` in pool `q`, has been frozen: the executing step of its pool fails with `why` unless its
commit is decided, an F3 fault of the given cause is recorded, and context 0 is sent its notice (R141, R142, R849, R855). -/
structure EngineFrozen (s t : State) (e : Nat) (g : Engine) (q : Pool) (cause vclass why : Nat) : Prop where
  engine : t.m.fs.engines.get? e = some { g with frozen := true, atomic := none, stores := [] }
  others : ∀ k, k ≠ e → t.m.fs.engines.get? k = s.m.fs.engines.get? k
  pool : ∃ q', t.m.fs.pools.get? g.pool = some q' ∧ q'.degraded = (start t).degradedNow g.pool q ∧
    ∀ st, q.exec = some st → st.decided = false → st.failed = none → q'.exec = some { st with failed := some why }
  fault : t.m.fs.fault = { cls := 3, unit := 4, cause := cause, obj := e, time := s.clk.fs.toNat }
  notice : ∃ n, messages t 0 = messages s 0 ++ [.reply n] ∧ n.status = stFault ∧ n.kind = 1 ∧ n.obj = e ∧
    n.vclass = vclass ∧ n.result % 8 = 3 ∧ n.result / 256 % 256 = cause

/-- An engine acknowledges a store of kind `why` within ACK_TIMEOUT, where it owes one (R88, R660). -/
abbrev AckInTime (s : State) (e : Nat) (why : StoreWhy) : Prop := (start s).storeLate e why = false

/-- The engines once `e` has acknowledged a store of kind `why`, and with it what it was sent before (R656). -/
abbrev ackedEngines (s : State) (e : Nat) (why : StoreWhy) : Tbl Engine :=
  s.m.fs.engines.mod e fun g => { g with stores := Work.ackedUpTo why g.stores }

/-- The pool of an engine keeps its engines: some are attached to it, and none is leaving (R206). -/
abbrev KeepsEngines (s : State) (p : Nat) : Prop :=
  (start s).poolEngines p ≠ [] ∧ ∀ x ∈ (start s).poolEngines p, x.2.leaving = false

/-! Runs. -/

/-- A step does not stop the machine. -/
def State.safe (s : State) : Prop := ∃ t, step s = .next t

end Sys2Proof.Machine
end

