-- ==== Sys2Proof/Certificates/Slice0/Obligations.lean ====
section
/-! DEFINITION. The statements for the provers, in the terms of Sys2Proof.Safety. -/

open Sys2Proof Sys2Proof.Machine

/-- A step takes the command at the front of the queue and runs it with the rest of the queue. With an empty queue a
moment passes (log entry 2): a side on delay-line time goes on counting, and each memory port serves a round (R79, R614,
R823); where a hold that has ended left something at a unit's input, the oldest such thing is taken instead, before what
waits behind it (R824). (What of it is the model's own choice or reading: log entries 2 and 108.) -/
def Obligations.StepRunsFrontCommand : Prop :=
  (∀ (s : State) (c : Instr) (rest : List Instr), s.pending = c :: rest → step s = exec c { s with pending := rest }) ∧
  (∀ s : State, s.pending = [] → (s.stalled = [] ∨ (start s).halted = true) → step s = .next s.tick) ∧
  (∀ (s t : State) (c : Stalled) (rest : List Stalled), s.pending = [] → s.stalled = c :: rest → (start s).halted = false →
    exec (c.cmd.aged ((start s).hnsUp (s.clk.fs.toNat - c.at_))) { s with stalled := [] } = .next t →
      step s = .next { t with stalled := t.stalled ++ rest }) ∧
  (∀ s : State, (start s).memPowered = true → (start s).halted = false →
    s.tick = { s.delayTick with m := (start s.delayTick).memRound.m }) ∧
  ∀ s : State, ((start s).memPowered = false ∨ (start s).halted = true) → s.tick = s.delayTick

/-- No command changes the queue of waiting commands: the queue is the step's (derived). R49, R823: what waits at the
inputs of stopped units keeps its order; a command joins it at the end, and it is lost only with a reset of the fabric
side. What has left on a host port, a fabric port or a link is never taken back or reordered by a later command. (What
of it is the model's own choice or reading: log entries 4 and 5.) -/
def Obligations.CommandsKeepQueueAndOutputs : Prop :=
  ((∀ (i : Instr) (s t : State), exec i s = .next t → t.pending = s.pending) ∧
    ∀ (i : Instr) (s t : State), exec i s = .next t →
      t.stalled = s.stalled ∨ t.stalled = s.stalled ++ [{ cmd := i, at_ := s.clk.fs.toNat }] ∨ (t.stalled = [] ∧ t.clk.fs = 0)) ∧
  (∀ (i : Instr) (s t : State), exec i s = .next t → s.out.extends t.out)

/-- R814: event EVNO n of a ring lies in slot n modulo 256, overwrites the record that held it, and is its ring's
EVT_HEAD. From every state in which each stored record lies in the slot that its ring and EVNO name, each step gives
such a state. -/
def Obligations.EventRecordsKeepTheirSlots : Prop :=
  (∀ s t : State, s.obs.slotted → step s = .next t → t.obs.slotted) ∧
  ∀ (w : Work) (o : Obs) (ring code a0 a1 : Nat),
    let o' := w.logEvent o ring code a0 a1
    let n := o'.head.getD ring 0
    n ≠ 0 ∧ (∃ r, o'.recs.get? (ring * 256 + n % 256) = some r ∧ r.ring = ring ∧ r.evno = n ∧ r.code = code) ∧
    (∀ k, k ≠ ring * 256 + n % 256 → o'.recs.get? k = o.recs.get? k) ∧
    ∀ k, k ≠ ring → o'.head.get? k = o.head.get? k

/-- The observation unit's stores list each counter, flag, ring head, record, epoch and base once, in ascending order:
every step keeps that form (derived; the form is the model's own way of holding the stores of R782, R812 and R787). -/
def Obligations.ObservationStoresStayCanonical : Prop :=
  ∀ s t : State, s.obs.canonical → step s = .next t → t.obs.canonical

/-- R65, R73, R77, R99, R144, R381, R577, R693, R721, R758, R781, R811, R834: what reset leaves. The two invariants of
the observation unit hold, no command waits, both counters read zero, no context has a key, every entry is FREE, no pool
exists, the instance is unpaired and in its self-test, and the registers hold the defaults of their tables. (What of it
is the model's own choice or reading: log entries 1 and 3.) -/
def Obligations.ResetLeavesTheDefaults : Prop :=
  let s := State.reset
  s.obs.slotted ∧ s.obs.canonical ∧ s.pending = [] ∧ s.clk.hs = 0 ∧ s.clk.fs = 0 ∧ s.clk.hsDegraded = false ∧
  s.clk.fsDegraded = false ∧ (∀ off, s.obs.ctr.getD off 0 = 0) ∧ s.obs.eventEn = 0x1FFFF ∧ s.obs.ae2 = false ∧
  s.m.fs.boot.phase = .selfTest ∧ s.m.hs.bootDone = false ∧ s.m.hs.keyGrace = 10000 ∧
  s.m.fs.speed.idx = 0x1000 ∧ s.m.fs.speed.meas = 0x1000 ∧ s.m.fs.speed.calDone = false ∧
  s.m.fs.obu.budget = 10 ∧ s.m.fs.obu.digestEn = false ∧ s.m.fs.obu.opcountEn = true ∧
  s.m.fs.obu.layer = 0xFFFF ∧ s.m.fs.obu.operator = 0xFFFF ∧ s.m.fs.twin.state = .unpaired ∧
  s.m.fs.twin.takeovers = 0 ∧ s.m.fs.pools = [] ∧ s.m.fs.engines = [] ∧ s.m.fs.handles = [] ∧
  (∀ slot, ((start s).entry slot).st = .free ∧ ((start s).entry slot).fl.issued = false) ∧
  (∀ c, ((start s).hctx c).key = none ∧ ((start s).hctx c).frozen = false ∧ ((start s).hctx c).hiSeq = 0 ∧
    ((start s).hctx c).sqDepth = (if c = 0 then 256 else 64)) ∧
  (start s).reg rSpeedCtrl = 0x2000 ∧ (start s).reg rTimeCfg = 0x186A0 ∧ (start s).reg rRingCfg = 200000 ∧
  (start s).reg rAcuCfg = 10000 ∧ (start s).reg64 rFabBase = 0 ∧ fld ((start s).reg rFabTiming) 15 0 = 50 ∧
  fld ((start s).reg rFabTiming) 19 16 = 4 ∧ fld ((start s).reg rFabAtomic) 15 0 = 50 ∧
  fld ((start s).reg rFabAtomic) 19 16 = 8 ∧ fld ((start s).reg rMemCfg) 2 0 = 3 ∧ fld ((start s).reg rMemCfg) 10 8 = 2 ∧
  (start s).reg rMemRetrain = 100000 ∧ fld ((start s).reg rTwinCfg) 15 0 = 400 ∧ fld ((start s).reg rTwinCfg) 16 16 = 1 ∧
  (start s).reg rTwinGrace = 10000000 ∧ (start s).reg rGroupCfg = 0 ∧ (start s).reg rExportCfg = 100000 ∧
  (∀ p, p < 64 → (start s).reg (rPoolEnv p) = 8000 ∧ (start s).reg (rStepCfg p) = 10000) ∧
  (∀ c, 1 ≤ c → c < 256 → (start s).reg (rDlmCfg c) = 0 ∧ (start s).reg (rDlmCfg2 c) = 3) ∧
  ∀ c, c < 256 → (start s).reg (rPortWeight c) = 1

/-- R72, R73, R79: besides TREF_EDGE, DELAY_LINE_ENTER, DELAY_LINE_LEAVE and the reset inputs, no command changes a
local elapsed counter or puts a side on delay-line time, except that an F4 fault at an unpaired instance resets the
failed side as its reset input would (R871), and its counter then reads zero. R759: the straps are read at a fabric-side
reset and at no other time: once they are legal levels, a command other than RESET_FS_RELEASE leaves them, and which die
this is never changes. (What of it is the model's own choice or reading: log entries 2 and 38.) -/
def Obligations.ClocksAndStrapsHold : Prop :=
  (∀ (i : Instr) (s t : State),
      (∀ b, i ≠ .trefEdge b) → (∀ b f n, i ≠ .delayLineEnter b f n) → (∀ b, i ≠ .delayLineLeave b) →
      i ≠ .resetHs → i ≠ .resetFs → exec i s = .next t →
      ((t.clk.hs = s.clk.hs ∧ t.clk.hsDegraded = s.clk.hsDegraded) ∨ (t.clk.hs = 0 ∧ t.clk.hsDegraded = false)) ∧
      ((t.clk.fs = s.clk.fs ∧ t.clk.fsDegraded = s.clk.fsDegraded) ∨ (t.clk.fs = 0 ∧ t.clk.fsDegraded = false))) ∧
  (∀ (i : Instr) (s t : State), s.idn.grpPos < 8 → s.idn.pairSide < 2 → exec i s = .next t →
      t.idn.isM = s.idn.isM ∧ t.idn.grpPos < 8 ∧ t.idn.pairSide < 2 ∧
      ((∀ g p, i ≠ .resetFsRelease g p) → t.idn = s.idn))

/-- R783, R793: one addition to a counter whose set is not stopped. It reaches its exact sum below 2^64; a sum beyond
stays at 2^64 - 1, and the SAT flag is then set. No other counter and no other SAT flag changes. R791: while a horn
under AE2_FREEZE has stopped the counters, no addition reaches a counter. -/
def Obligations.CountersSaturateAndStop : Prop :=
  (∀ (w : Work) (o : Obs) (off n : Nat), o.frozenAt = none →
      ((o.ctr.getD off 0).toNat + n < 2 ^ 64 →
        ((w.addCtr o off n).ctr.getD off 0).toNat = (o.ctr.getD off 0).toNat + n ∧ (w.addCtr o off n).sat = o.sat ∧
        (w.addCtr o off n).recs = o.recs) ∧
      (2 ^ 64 ≤ (o.ctr.getD off 0).toNat + n →
        ((w.addCtr o off n).ctr.getD off 0).toNat = 2 ^ 64 - 1 ∧ (w.addCtr o off n).sat.has off = true ∧
        (o.sat.has off = false → (w.addCtr o off n).head.getD 16 0 = (o.head.getD 16 0 + 1) % 2 ^ 32 ∨
          (w.addCtr o off n).head.getD 16 0 = 1) ∧
        (o.sat.has off = true → (w.addCtr o off n).recs = o.recs)) ∧
      (∀ k, k ≠ off → (w.addCtr o off n).ctr.get? k = o.ctr.get? k ∧ (w.addCtr o off n).sat.get? k = o.sat.get? k)) ∧
  (∀ (w : Work) (o : Obs) (off n t : Nat), o.frozenAt = some t → w.addCtr o off n = o)

/-- R834, R835: each side's self-test ends, with the result that the rule gives; nothing else changes. R52, R57, R699,
R834, R836: CALIBRATE publishes the first speed index, 15/16 of the lowest reading; TRAIN reads each port's capacity,
and CLEAR follows when every port shows the capacity of port 0, FAILED when one does not; CLEAR ends in READY. -/
def Obligations.BringUpReachesReady : Prop :=
  ((∀ (s : State) (ok : Bool), s.m.hs.up = true → s.m.hs.bootDone = false →
      ∃ t, exec (.hsSelfTestDone ok) s = .next t ∧ Apart s t [] [] ∧ t.fabricIs s.m.fs ∧
        t.hostIs { s.m.hs with bootDone := true, bootFail := !ok }) ∧
    (∀ s : State, Awake s → s.m.fs.boot.phase = .selfTest →
      ∃ t, exec (.selfTestDone none) s = .next t ∧ Apart s t [] [] ∧ t.hostIs s.m.hs ∧
        t.fabricIs { s.m.fs with boot := { s.m.fs.boot with phase := .waitStart } }) ∧
    (∀ (s : State) (store : Nat), store < 8 → Awake s → s.m.fs.boot.phase = .selfTest →
      ∃ t, exec (.selfTestDone (some store)) s = .next t ∧ Apart s t [] [] ∧ t.hostIs s.m.hs ∧
        t.fabricIs { s.m.fs with boot := { s.m.fs.boot with phase := .failed, failStore := store } })) ∧
  ((∀ (s : State) (l : List Nat) (low : Nat), Awake s → s.m.fs.boot.phase = .calibrate → l ≠ [] → (∀ x ∈ l, x < 2 ^ 16) →
      low ∈ l → (∀ x ∈ l, low ≤ x) →
      ∃ t, exec (.calibrateDone l) s = .next t ∧ Apart s t [] [] ∧ t.hostIs s.m.hs ∧
        t.m.fs.boot.phase = .train ∧ t.m.fs.speed.idx = low * 15 / 16 ∧ t.m.fs.speed.meas = low ∧
        t.m.fs.speed.calDone = true ∧ t.m.fs.speed.tgl = !s.m.fs.speed.tgl ∧
        t.fabricIs { s.m.fs with boot := t.m.fs.boot, speed := t.m.fs.speed }) ∧
    (∀ (s : State) (l : List (Option Nat)) (g : Nat), Awake s → s.m.fs.boot.phase = .train → 0 < g →
      l = List.replicate s.idn.memPorts (some g) →
      ∃ t, exec (.trainDone l) s = .next t ∧ Apart s t [] [] ∧ t.hostIs s.m.hs ∧
        t.m.fs.boot.phase = .clear ∧ t.m.fs.park.gib = g ∧
        (∀ i, i < s.idn.memPorts → (t.m.fs.memPorts.getD i {}).trained = true) ∧
        t.fabricIs { s.m.fs with boot := t.m.fs.boot, memPorts := t.m.fs.memPorts, park := t.m.fs.park }) ∧
    (∀ (s : State) (l : List (Option Nat)) (i : Nat), Awake s → s.m.fs.boot.phase = .train → i < s.idn.memPorts →
      l.getD i none = none →
      ∃ t, exec (.trainDone l) s = .next t ∧ t.m.fs.boot.phase = .failed ∧ (t.m.fs.memPorts.getD i {}).failed = true) ∧
    (∀ s : State, Awake s → s.m.fs.boot.phase = .clear →
      ∃ t, exec .clearDone s = .next t ∧ Apart s t [] [] ∧ t.hostIs s.m.hs ∧
        t.m.fs.boot.phase = .ready ∧ t.fabricIs { s.m.fs with boot := t.m.fs.boot }))

/-- R834, R836, R842, R844, R846: the writes of START, DRAIN and SHUT move the fabric side through its phases, each from
the phase that the rules name and on their conditions. Nothing but the bring-up state changes. (What of it is the
model's own choice or reading: log entry 39.) -/
def Obligations.BootWritesMoveThePhase : Prop :=
  (∀ s : State, Decides s → s.m.fs.boot.phase = .waitStart → s.clk.fsDegraded = false →
    ∃ t, exec .bootStart s = .next t ∧ Apart s t [] [] ∧ t.hostIs s.m.hs ∧
      t.fabricIs { s.m.fs with boot := { s.m.fs.boot with phase := .calibrate, startAsked := false } }) ∧
  (∀ s : State, Decides s → s.m.fs.boot.phase = .waitStart → s.clk.fsDegraded = true →
    ∃ t, exec .bootStart s = .next t ∧ Apart s t [] [] ∧ t.hostIs s.m.hs ∧
      t.fabricIs { s.m.fs with boot := { s.m.fs.boot with startAsked := true } }) ∧
  (∀ s : State, Decides s → s.m.fs.boot.phase ≠ .waitStart →
    ∃ t, exec .bootStart s = .next t ∧ Apart s t [] [] ∧ t.hostIs s.m.hs ∧ t.fabricIs s.m.fs) ∧
  (∀ s : State, Decides s → s.m.fs.boot.phase = .ready →
    ∃ t, exec .bootDrain s = .next t ∧ Apart s t [] [] ∧ t.hostIs s.m.hs ∧
      t.fabricIs { s.m.fs with boot := { s.m.fs.boot with phase := .drain } }) ∧
  (∀ s : State, Decides s → s.m.fs.boot.phase = .drain → (∀ x ∈ s.m.fs.rqt, x.2.st.live = false) → s.m.fs.pools = [] →
    ∃ t, exec .bootShut s = .next t ∧ Apart s t [] [] ∧ t.hostIs s.m.hs ∧
      t.fabricIs { s.m.fs with
        boot := { s.m.fs.boot with phase := .shut, shutDone := true }
        memPorts := s.m.fs.memPorts.mapV fun _ p => { p with jobs := [] } }) ∧
  (∀ s : State, Decides s → ((∃ x ∈ s.m.fs.rqt, x.2.st.live = true) ∨ s.m.fs.pools ≠ []) →
    ∃ t, exec .bootShut s = .next t ∧ Apart s t [] [] ∧ t.hostIs s.m.hs ∧ t.fabricIs s.m.fs)

/-- R832, R835, R838, R839, R867: the resets are taken in every state. RST_HS_N stops the host side and returns it to
its defaults, every key with it; the fabric side ends every live sequence of contexts 1 to 255, keeps the entries of
context 0, the tenants' settings and the configuration, and gives up the fetches that packets began; with no such
sequence nothing else of it moves. RST_FS_N returns the fabric side to its defaults: every sequence, pool, engine and
tenant setting is gone, and no packet is being acted on any more; the host side keeps its keys and, where no tear-down
of F2 is owed, its sequence numbers; the status outputs are low. Either side's elapsed counter and delay-line time start
anew. R718, R759, R834, R835: the releases, in every state. The side starts its self-test with everything at its
defaults, RST_FS_N's release reads the straps, and the gate discards what it kept for the side; the release of a side
that is out of reset changes nothing. (What of it is the model's own choice or reading: log entries 36, 37, 40 and 147.)
-/
def Obligations.ResetsAreTakenAndReleased : Prop :=
  ((∀ s : State,
      ∃ t, exec .resetHs s = .next t ∧ t.m.hs.up = false ∧ t.m.hs.unheld = { up := false } ∧
        t.clk = { s.clk with hs := 0, hsDegraded := false, hsFrom := 0, hsEst := [] } ∧
        t.pending = s.pending ∧ t.idn = s.idn ∧ t.m.fs.boot = s.m.fs.boot ∧ t.m.fs.cfg = s.m.fs.cfg ∧
        t.m.fs.engines = s.m.fs.engines ∧
        (∀ c, ((start t).fctx c).tenant = ((start s).fctx c).tenant) ∧
        (∀ n, ((start t).entry n).st.live = true → ((start t).entry n).ctx = 0) ∧
        (∀ x ∈ t.m.fs.fab.loads, x ∈ s.m.fs.fab.loads) ∧
        ((∀ x ∈ s.m.fs.rqt, x.2.st.live = true → x.2.ctx = 0) →
          t.fabricIs { s.m.fs with fab := { s.m.fs.fab with loads := t.m.fs.fab.loads }, latches := [] })) ∧
    (∀ s : State,
      ∃ t, exec .resetFs s = .next t ∧ t.m.fs = { boot := { up := false }, kept := t.m.fs.kept } ∧
        (s.m.hs.up = true → t.m.fs.kept = []) ∧
        t.clk = { s.clk with fs := 0, fsDegraded := false, fsFrom := 0, fsEst := [] } ∧ t.stalled = [] ∧
        t.pending = s.pending ∧ t.idn = s.idn ∧ t.m.hs.up = s.m.hs.up ∧
        (start t).speedIdxOut = 0 ∧ (start t).thermOut = 0 ∧ (start t).speedAlarmOut = false ∧ (start t).alarmOut = false ∧
        (start t).twinRoleOut = false ∧
        (s.m.hs.ctxs.wf → s.m.hs.up = true → ∀ c h, s.m.hs.ctxs.get? c = some h →
          ((start t).hctx c).acting = none ∧ (h.f2 = false → ((start t).hctx c).key = h.key ∧
            (h.queue = [] → ((start t).hctx c).hiSeq = h.hiSeq))))) ∧
  ((∀ s : State, ∃ t, exec .resetHsRelease s = .next t ∧ (s.m.hs.up = true → t = s) ∧ (s.m.hs.up = false →
      t.m.hs = { up := true } ∧ t.m.fs = { s.m.fs with kept := [] } ∧
        t.obs = s.obs ∧ t.out = s.out ∧ t.clk = s.clk ∧ t.idn = s.idn ∧ t.pending = s.pending)) ∧
    (∀ (s : State) (g p : Nat), ∃ t, exec (.resetFsRelease g p) s = .next t ∧ (s.m.fs.boot.up = true → t = s) ∧
      (s.m.fs.boot.up = false → g < 8 → p < 2 →
        t.m.fs = { boot := { up := true, phase := .selfTest }, obu := { left := if s.idn.isM then 240000 else 480000 } } ∧
        t.idn.grpPos = g ∧
        t.idn.pairSide = p ∧ t.idn.isM = s.idn.isM ∧ t.m.hs = { s.m.hs with keptForFs := 0 } ∧
        t.obs = s.obs ∧ t.out = s.out ∧ t.clk = s.clk ∧ t.pending = s.pending)))

/-- R72, R73, R78 to R81, R834: a rising edge of TREF adds one to the counter of a side that is out of reset and not on
delay-line time, and to nothing else. A side that enters delay-line time takes the estimate since the last edge, marks
it in its status, logs it and has TIME_DEGRADED sent to context 0; a side that leaves it logs that, and CALIBRATE may
begin where START waits. -/
def Obligations.DelayLineTimeIsEnteredAndLeft : Prop :=
  (∀ s : State, s.m.fs.boot.up = true → s.m.fs.boot.shutDone = false → s.clk.fsDegraded = false →
    exec (.trefEdge true) s = .next { s with clk := { s.clk with fs := s.clk.fs + 1 } }) ∧
  (∀ s : State, s.m.hs.up = true → s.clk.hsDegraded = false →
    exec (.trefEdge false) s = .next { s with clk := { s.clk with hs := s.clk.hs + 1 } }) ∧
  (∀ s : State, (s.clk.fsDegraded = true ∨ s.m.fs.boot.up = false) → exec (.trefEdge true) s = .next s) ∧
  (∀ s : State, (s.clk.hsDegraded = true ∨ s.m.hs.up = false) → exec (.trefEdge false) s = .next s) ∧
  (∀ (s : State) (freq : Bool) (est : Nat), s.m.fs.boot.up = true → s.m.fs.boot.shutDone = false →
    s.clk.fsDegraded = false → s.m.hs.up = true →
    ∃ t, exec (.delayLineEnter true freq est) s = .next t ∧
      Apart { s with clk := { s.clk with
        fs := s.clk.fs + BitVec.ofNat 64 est, fsDegraded := true, fsFrom := s.clk.fs.toNat } } t [] [16] ∧
      t.fabricIs { s.m.fs with speed := { s.m.fs.speed with degradedSeen := true, freqBad := freq } } ∧
      messages t 0 = messages s 0 ++ [.reply { status := stTimeDegraded, ctx := 0, kind := 1 }]) ∧
  (∀ (s : State) (freq : Bool) (est : Nat), s.m.hs.up = true → s.clk.hsDegraded = false → s.m.fs.boot.up = true →
    ∃ t, exec (.delayLineEnter false freq est) s = .next t ∧
      Apart { s with clk := { s.clk with
        hs := s.clk.hs + BitVec.ofNat 64 est, hsDegraded := true, hsFrom := s.clk.hs.toNat } } t [] [17] ∧
      t.fabricIs s.m.fs ∧ t.m.hs.degradedSeen = true ∧
      messages t 0 = messages s 0 ++ [.reply { status := stTimeDegraded, ctx := 0, kind := 1 }]) ∧
  (∀ s : State, s.clk.fsDegraded = true →
    ∃ t, exec (.delayLineLeave true) s = .next t ∧ Apart { s with clk := { s.clk with
        fsDegraded := false, fsFrom := 0, fsEst := s.clk.fsTimes } } t [] [16] ∧
      t.hostIs s.m.hs ∧ t.m.fs.speed = { s.m.fs.speed with freqBad := false } ∧
      (s.m.fs.boot.phase = .waitStart → s.m.fs.boot.startAsked = true →
        t.m.fs.boot = { s.m.fs.boot with phase := .calibrate, startAsked := false }) ∧
      (s.m.fs.boot.phase ≠ .waitStart ∨ s.m.fs.boot.startAsked = false → t.m.fs.boot = s.m.fs.boot) ∧
      t.fabricIs { s.m.fs with speed := t.m.fs.speed, boot := t.m.fs.boot }) ∧
  (∀ s : State, s.clk.hsDegraded = true → s.m.fs.boot.up = true →
    ∃ t, exec (.delayLineLeave false) s = .next t ∧ Apart { s with clk := { s.clk with
        hsDegraded := false, hsFrom := 0, hsEst := s.clk.hsTimes } } t [] [17] ∧
      t.hostIs s.m.hs ∧ t.fabricIs s.m.fs) ∧
  (∀ (s : State) (freq : Bool) (est : Nat), s.clk.fsDegraded = true → s.m.fs.boot.up = true →
    s.m.fs.boot.shutDone = false → exec (.delayLineEnter true freq est) s =
      .next (if freq then { s with m := { s.m with fs := { s.m.fs with
        speed := { s.m.fs.speed with freqBad := true } } } } else s)) ∧
  ∀ s : State, s.clk.fsDegraded = false → exec (.delayLineLeave true) s = .next s

/-- R52 to R56, R902: the readings of the replica paths and of the junction sensors. The speed index falls at once to
15/16 of the lowest reading and never rises above it; a reading below the index in force is an underrun, which R55 holds
for 100 µs; the hottest sensor is published. (What of it is the model's own choice or reading: log entry 87.) -/
def Obligations.ReadingsMoveTheSpeedIndex : Prop :=
  (∀ (s : State) (l : List Nat) (low : Nat), Awake s → s.m.fs.speed.calDone = true → l ≠ [] → (∀ x ∈ l, x < 2 ^ 16) →
    low ∈ l → (∀ x ∈ l, low ≤ x) →
    let old := s.m.fs.speed.idx
    let new := low * 15 / 16
    ∃ t, exec (.speedRecompute l) s = .next t ∧ Apart s t [] [16] ∧ t.hostIs s.m.hs ∧
      t.fabricIs { s.m.fs with speed := t.m.fs.speed } ∧ t.m.fs.speed.meas = low ∧
      (new < old → t.m.fs.speed.idx = new) ∧ (new = old → t.m.fs.speed.idx = old) ∧
      (old < new → old ≤ t.m.fs.speed.idx ∧ t.m.fs.speed.idx ≤ new) ∧
      (t.m.fs.speed.tgl = (if t.m.fs.speed.idx = old then s.m.fs.speed.tgl else !s.m.fs.speed.tgl)) ∧
      (low < old → t.m.fs.speed.underrunHold = true ∧ t.m.fs.speed.underrunSeen = true ∧
        t.m.fs.speed.underrunAt = s.clk.fs.toNat) ∧
      (old ≤ low → t.m.fs.speed.underrunHold = s.m.fs.speed.underrunHold ∧
        t.m.fs.speed.underrunSeen = s.m.fs.speed.underrunSeen)) ∧
  (∀ s : State, Awake s → s.m.fs.speed.underrunHold = true →
    ∃ t, exec .underrunHoldClear s = .next t ∧ Apart s t [] [] ∧ t.hostIs s.m.hs ∧
      t.fabricIs { s.m.fs with speed := { s.m.fs.speed with
        underrunHold := !(start s).fired s.m.fs.speed.underrunAt 1000 } }) ∧
  ∀ (s : State) (l : List Nat) (hot : Nat), Awake s → (∀ x ∈ l, x < 256) → hot ∈ l → (∀ x ∈ l, x ≤ hot) →
    ∃ t, exec (.thermUpdate l) s = .next t ∧ Apart s t [] [] ∧ t.hostIs s.m.hs ∧
      t.fabricIs { s.m.fs with speed := { s.m.fs.speed with therm := hot, thermTgl := !s.m.fs.speed.thermTgl } }

/-- R187: QUERY answers the entry that the handle names: its state, its outcome, its length and the budget that remains.
Nothing else changes. (What of it is the model's own choice or reading: log entry 47.) -/
def Obligations.QueryAnswersTheEntry : Prop :=
  ∀ (s : State) (port : Nat) (p : Packet) (slot : Nat), Accepted s port opQuery p →
    (start s).resolve p.ctx.toNat (Work.handleOf p) = .entry slot →
    let e := (start s).entry slot
    ∃ t, exec (.query port p) s = .next t ∧ Apart s t [cRxBeats port, cStaleKey p.ctx.toNat] [] ∧ t.fabricIs s.m.fs ∧
      Answered s t port opQuery p { result := pack [(0, 4, e.st.code), (4, 4, e.outcome), (8, 21, e.length),
        (32, 32, Nat.min (2 ^ 32 - 1) ((start s).remaining e))] }

/-- R191: PING answers the residence in [31:0], 0 at the instant of the packet's arrival, READY, ACTIVE, and whether the
side is on delay-line time or the speed index is below 0x0C00. Nothing else changes. R188, R190, R788, R794: STATS_READ
answers a counter of the context that it targets, with its SAT flag, less its base while AE2_FREEZE is set; a tenant may
target itself alone. R194, R873: CFG_READ answers two words from the address on; an RW word reads as it was last
written. Nothing else changes. (What of it is the model's own choice or reading: log entry 45.) -/
def Obligations.ReadsAreAnswered : Prop :=
  (∀ (s : State) (port : Nat) (p : Packet), Accepted s port opPing p →
      ∃ t, exec (.ping port p) s = .next t ∧ Apart s t [cRxBeats port, cStaleKey p.ctx.toNat] [] ∧ t.fabricIs s.m.fs ∧
        Answered s t port opPing p { result := pack [(32, 1, 1), (33, 1, b01 (start s).activeBit),
          (34, 1, b01 s.clk.fsDegraded), (35, 1, b01 (decide (s.m.fs.speed.idx < 0x0C00)))] }) ∧
  (∀ (s : State) (port : Nat) (p : Packet) (off : Nat), Accepted s port opStatsRead p →
      (p.ctx.toNat = 0 ∨ Work.targetOf p = 0 ∨ Work.targetOf p = p.ctx.toNat) →
      let c := if p.ctx.toNat = 0 then Work.targetOf p else p.ctx.toNat
      statsOff c (p.opf 207 192) = some off →
      let own := if off = cStaleKey p.ctx.toNat ∧ (start s).authOf opStatsRead p = .previous ∧ s.obs.frozenAt = none then 1 else 0
      let v := Nat.min (2 ^ 64 - 1) ((s.obs.ctr.getD off 0).toNat + own)
      let base := if s.obs.ae2 then (s.obs.bases.getD (c * 0x200 + p.opf 207 192) 0).toNat else 0
      let epoch := if s.obs.ae2 then s.obs.epochs.getD c 0 else 0
      ∃ t, exec (.statsRead port p) s = .next t ∧ Apart s t [cRxBeats port, cStaleKey p.ctx.toNat] [] ∧ t.fabricIs s.m.fs ∧
        Answered s t port opStatsRead p {
          obj := b01 (s.obs.sat.has off) + epoch % 2 ^ 16 * 2 ^ 16
          result := if s.obs.sat.has off then 2 ^ 64 - 1 else (v + 2 ^ 64 - base) % 2 ^ 64 }) ∧
  (∀ (s : State) (port : Nat) (p : Packet), Accepted s port opCfgRead p →
      let a := p.opf 223 192 / 4 * 4
      ∃ t v, exec (.cfgRead port p) s = .next t ∧ Apart s t [cRxBeats port, cStaleKey p.ctx.toNat] [] ∧ t.fabricIs s.m.fs ∧
        Answered s t port opCfgRead p { result := v } ∧
        ((rwWord s.idn.isM a).isSome → (rwWord s.idn.isM (a + 4)).isSome → isCounter s.idn.isM (a / 8 * 8) = false →
          isCounter s.idn.isM ((a + 4) / 8 * 8) = false → v = (start s).raw a + (start s).raw (a + 4) * 2 ^ 32))

/-- R195, R877: CFG_WRITE of one word of a pool, model slot, KV layout entry or engine block merges the enabled bytes
into the word's value and sets the word to that, under its writable bits and its clamp; with no byte enabled it has no
effect. No other word changes. R44: a word whose write waits for its reply stays in force as it was until that reply is
released. (What of it is the model's own choice or reading: log entry 44.) -/
def Obligations.ConfigWriteSetsTheWord : Prop :=
  ∀ (s : State) (port : Nat) (p : Packet) (a d be : Nat) (r : RwWord), Accepted s port opCfgWrite p →
    cfgItems p = [(a, d, be)] →
    let off := a / 4 * 4
    let v := (r.stored (mergeBytes ((start s).raw off) d be)).1
    rwWord s.idn.isM off = some r → r.half = 0 → v < 2 ^ 32 →
    ((∃ q o, regionOf s.idn.isM off = .pool q o ∧ o ≠ 0x14 ∧ o ≠ 0x40) ∨ (∃ m o, regionOf s.idn.isM off = .model m o) ∨
      (∃ i o, regionOf s.idn.isM off = .kvl i o) ∨ ∃ e o, regionOf s.idn.isM off = .engine e o) →
    ∃ t, exec (.cfgWrite port p) s = .next t ∧ Apart s t [cRxBeats port, cStaleKey 0, cClamp 0] [] [0] ∧
      Answered s t port opCfgWrite p {} ∧ t.fabricIs { s.m.fs with cfg := t.m.fs.cfg, latches := t.m.fs.latches } ∧
      (be = 0 → t.fabricIs s.m.fs) ∧ (be ≠ 0 → (start t).raw off = v) ∧
      (be ≠ 0 → (start s).latched off = false → t.m.fs.latches = s.m.fs.latches) ∧
      (be ≠ 0 → (start s).latched off = true → (start t).reg off = (start s).reg off ∧
        (s.m.fs.latches = [] → ((start t).unlatch p.cseq).reg off = v)) ∧
      ∀ o, o ≠ off → (start t).raw o = (start s).raw o ∧ (start t).reg o = (start s).reg o

/-- R193, R209: ENVELOPE_SET sets the watts of an attached engine, or the watts of an existing pool with its mode where
the packet gives one, each at most 8,000; what was in force stays so until the reply is released. BAD_STATE where the
target is not attached, or where the mode is 0b11. R193, R810, R816: TRACE_SET sets the budget, clamped to 5 to 30,
DIGEST_EN, OPCOUNT_EN, the two filters and EVENT_EN; the switches and filters that were in force stay so until the reply
is released. R790, R792: COUNTER_MODE enters AE2_FREEZE, where every context's epoch becomes 1 and every base latches
its counter, or leaves it, where no base is left; counters that a horn stopped go on. (What of it is the model's own
choice or reading: log entries 42 and 52.) -/
def Obligations.SettingsAreSet : Prop :=
  (∀ (s : State) (port : Nat) (p : Packet), Accepted s port opEnvelopeSet p →
      let watts := Nat.min 8000 (p.opf 229 216)
      let e := p.opf 209 200
      let modeOf := if p.opf 193 193 = 1 then p.opf 233 232 else fld ((start s).raw (rPoolEnv e)) 15 14
      let kept (o : Nat) : List Latch := s.m.fs.latches ++ [{ cseq := p.cseq, held := .word o ((start s).raw o) }]
      ∃ t a, exec (.envelopeSet port p) s = .next t ∧ Apart s t [cRxBeats port, cStaleKey 0, cClamp 0] [] [0] ∧
        Answered s t port opEnvelopeSet p a ∧
        (p.opf 192 192 = 1 → ((start s).engine? e).isSome → a = {} ∧
          t.fabricIs { ((start s).setReg (rEngEnv e) watts).m.fs with latches := kept (rEngEnv e) }) ∧
        (p.opf 192 192 = 0 → ¬ (p.opf 193 193 = 1 ∧ p.opf 233 232 = 3) → ((start s).pool? e).isSome →
          a = {} ∧ t.fabricIs { ((start s).setReg (rPoolEnv e) (watts + modeOf * 2 ^ 14)).m.fs with
            latches := kept (rPoolEnv e) }) ∧
        (p.opf 192 192 = 1 → (start s).engine? e = none → a = Ans.bad .notAttached ∧ t.fabricIs s.m.fs) ∧
        (p.opf 192 192 = 0 → p.opf 193 193 = 1 → p.opf 233 232 = 3 → a = Ans.bad .encoding ∧ t.fabricIs s.m.fs)) ∧
  (∀ (s : State) (port : Nat) (p : Packet), Accepted s port opTraceSet p →
      ∃ t, exec (.traceSet port p) s = .next t ∧ Answered s t port opTraceSet p {} ∧
        t.obs.eventEn = BitVec.ofNat 17 (p.opf 248 232) ∧ t.obs.ae2 = s.obs.ae2 ∧ t.obs.frozenAt = s.obs.frozenAt ∧
        t.out.host = s.out.host ∧ t.out.fabric = s.out.fabric ∧
        t.fabricIs { s.m.fs with
          latches := s.m.fs.latches ++ [Latch.mk p.cseq (.trace s.m.fs.obu.digestEn s.m.fs.obu.opcountEn
            s.m.fs.obu.layer s.m.fs.obu.operator)],
          obu := { s.m.fs.obu with
          budget := clampTo 5 30 (p.opf 197 192), digestEn := p.opf 198 198 = 1, opcountEn := p.opf 199 199 = 1
          layer := p.opf 215 200, operator := p.opf 231 216, eventEn := p.opf 248 232 } }) ∧
  (∀ (s : State) (port : Nat) (p : Packet), Accepted s port opCounterMode p →
      ∃ t, exec (.counterMode port p) s = .next t ∧ Answered s t port opCounterMode p {} ∧ t.fabricIs s.m.fs ∧
        t.obs.ae2 = decide (p.opf 192 192 = 1) ∧ t.obs.frozenAt = none ∧ t.obs.eventEn = s.obs.eventEn ∧
        (p.opf 192 192 = 0 → t.obs.epochs = [] ∧ t.obs.bases = []) ∧
        (p.opf 192 192 = 1 → s.obs.ae2 = false → ∀ c, c < 256 → t.obs.epochs.getD c 0 = 1 ∧
          ∀ idx ∈ statsIndices, ∀ off, statsOff c idx = some off →
            t.obs.bases.getD (c * 0x200 + idx) 0 = t.obs.ctr.getD off 0))

/-- R200, R201, R387, R909: VARIANT_SET with ENABLE 1 enables a variant with the grants and private experts that it
names, unless a range is not one of the slot's model (encoding), or a live sequence uses the variant and its experts
would change (in use). Changed experts are routed to once the reply is released. With ENABLE 0 an enabled variant loses
its grants and is enabled no more; any other stays as it is. R199: STENCIL_DROP removes a mask image that no sequence
uses; one in use is withdrawn and keeps no grant. (What of it is the model's own choice or reading: log entries 52 and
134.) -/
def Obligations.VariantsAndStencilsAreSet : Prop :=
  ((∀ (s : State) (port : Nat) (p : Packet), Accepted s port opVariantSet p → p.opf 208 208 = 1 →
      let m := p.opf 196 192
      let v := p.opf 207 200
      let old := ((start s).variantOf m v).ranges
      let same := rangesIn (variantRanges p) old && rangesIn old (variantRanges p)
      ∃ t a, exec (.variantSet port p) s = .next t ∧ (messages t 0).getLast? = some (.reply (replyTo opVariantSet p a)) ∧
        ((variantRanges p).all ((start s).rangeOk m) = false → a = Ans.bad .encoding ∧ t.fabricIs s.m.fs) ∧
        ((variantRanges p).all ((start s).rangeOk m) = true → same = false → (start s).variantInUse m v = true →
          a = Ans.bad .inUse ∧ t.fabricIs s.m.fs) ∧
        ((variantRanges p).all ((start s).rangeOk m) = true → same = true → a = {} ∧ t.fabricIs ((start s).setVariant m v
          { enabled := true, grants := bitmap p.body, ranges := variantRanges p }).m.fs) ∧
        ((variantRanges p).all ((start s).rangeOk m) = true → same = false → (start s).variantInUse m v = false →
          a = {} ∧ (start t).variantOf m v = { enabled := true, grants := bitmap p.body, ranges := variantRanges p } ∧
          t.m.fs.latches = s.m.fs.latches ++ [{ cseq := p.cseq, held := .ranges m v old }])) ∧
    ∀ (s : State) (port : Nat) (p : Packet), Accepted s port opVariantSet p → p.opf 208 208 = 0 →
      let m := p.opf 196 192
      let v := p.opf 207 200
      let old := (start s).variantOf m v
      ∃ t, exec (.variantWithdraw port p) s = .next t ∧ Apart s t [cRxBeats port, cStaleKey 0] [] [0] ∧
        Answered s t port opVariantSet p {} ∧
        t.fabricIs (if old.enabled then ((start s).setVariant m v { old with enabled := false, grants := 0 }).m.fs else s.m.fs)) ∧
  (∀ (s : State) (port : Nat) (p : Packet), Accepted s port opStencilDrop p →
      let id := p.opf 203 192
      ∃ t, exec (.stencilDrop port p) s = .next t ∧ Apart s t [cRxBeats port, cStaleKey 0] [] [0] ∧
        Answered s t port opStencilDrop p {} ∧
        (∀ x, s.m.fs.masks.images.get? id = some x → x.withdrawn = false → x.users = 0 →
          t.m.fs.masks.images.get? id = none) ∧
        (∀ x, s.m.fs.masks.images.get? id = some x → x.withdrawn = false → x.users ≠ 0 →
          t.m.fs.masks.images.get? id = some { x with withdrawn := true, grants := 0 }) ∧
        ((∀ x, s.m.fs.masks.images.get? id = some x → x.withdrawn = true) → t.fabricIs s.m.fs) ∧
        (∀ k, k ≠ id → t.m.fs.masks.images.get? k = s.m.fs.masks.images.get? k) ∧
        t.fabricIs { s.m.fs with masks := { s.m.fs.masks with images := t.m.fs.masks.images } })

/-- R196, R204: MODEL_LOAD, STENCIL_LOAD and POOL_ATTACH begin the fetch of an image or a descriptor: one load leaves
for the engine that holds it, and the packet waits for it. With a length of 0, MODEL_LOAD unloads a slot that no live
sequence uses and STENCIL_LOAD removes an image that none uses. (The engine that an image is fetched from is left open:
log entry 16.) (What of it is the model's own choice or reading: log entries 16, 52 and 91.) -/
def Obligations.LoadsBeginTheirFetch : Prop :=
  (∀ (s : State) (port : Nat) (p : Packet), Accepted s port opModelLoad p → Issues s → p.opf 319 288 ≠ 0 →
    ¬ (p.opf 197 197 = 1 ∧ p.opf 204 200 = p.opf 196 192) →
    let e := Config.imageHome (p.opf 287 224)
    ∃ t, exec (.modelLoad port p) s = .next t ∧ Waiting s t port opModelLoad p .image ∧
      t.out.fabric = s.out.fabric ++ [.load e (p.opf 287 224) (p.opf 319 288)] ∧ t.out.host = s.out.host ∧
      t.m.fs.fab.loads.get? s.m.fs.fab.nextLoad = some {
        engine := e, addr := p.opf 287 224, len := p.opf 319 288, issues := 1, at_ := s.clk.fs.toNat
        firstAt := s.clk.fs.toNat, why := .image 0 } ∧ t.fabricIs { s.m.fs with fab := t.m.fs.fab }) ∧
  (∀ (s : State) (port : Nat) (p : Packet), Accepted s port opModelLoad p → p.opf 319 288 = 0 →
    ¬ (p.opf 197 197 = 1 ∧ p.opf 204 200 = p.opf 196 192) → (start s).slotInUse (p.opf 196 192) = false →
    ∃ t, exec (.modelLoad port p) s = .next t ∧ (messages t 0).getLast? = some (.reply (replyTo opModelLoad p {})) ∧
      (start t).image? (p.opf 196 192) = none) ∧
  (∀ (s : State) (port : Nat) (p : Packet), Accepted s port opStencilLoad p → Issues s → p.opf 319 288 ≠ 0 →
    let e := Config.imageHome (p.opf 287 224)
    ∃ t, exec (.stencilLoad port p) s = .next t ∧ Waiting s t port opStencilLoad p .image ∧
      t.out.fabric = s.out.fabric ++ [.load e (p.opf 287 224) (p.opf 319 288)] ∧ t.out.host = s.out.host ∧
      t.m.fs.fab.loads.get? s.m.fs.fab.nextLoad = some {
        engine := e, addr := p.opf 287 224, len := p.opf 319 288, issues := 1, at_ := s.clk.fs.toNat
        firstAt := s.clk.fs.toNat, why := .image 0 } ∧ t.fabricIs { s.m.fs with fab := t.m.fs.fab }) ∧
  (∀ (s : State) (port : Nat) (p : Packet), Accepted s port opStencilLoad p → p.opf 319 288 = 0 →
    ∃ t a, exec (.stencilLoad port p) s = .next t ∧ Answered s t port opStencilLoad p a ∧
      ((start s).maskUsers (p.opf 203 192) = 0 → a = {} ∧ t.m.fs.masks.images.get? (p.opf 203 192) = none) ∧
      ((start s).maskUsers (p.opf 203 192) ≠ 0 → a = Ans.bad .inUse ∧ t.fabricIs s.m.fs)) ∧
  (∀ (s : State) (port : Nat) (p : Packet), Accepted s port opPoolAttach p → Issues s →
    (start s).attachRefusal (p.opf 197 192) (p.opf 199 198) (p.opf 209 200) = none →
    ∃ t, exec (.poolAttach port p) s = .next t ∧ Waiting s t port opPoolAttach p .descriptor ∧
      t.out.fabric = s.out.fabric ++ [.load (p.opf 209 200) (p.opf 287 224) 128] ∧ t.out.host = s.out.host ∧
      t.m.fs.fab.loads.get? s.m.fs.fab.nextLoad = some {
        engine := p.opf 209 200, addr := p.opf 287 224, len := 128, issues := 1, at_ := s.clk.fs.toNat
        firstAt := s.clk.fs.toNat, why := .descriptor 0 } ∧ t.fabricIs { s.m.fs with fab := t.m.fs.fab }) ∧
  (∀ (s : State) (port : Nat) (p : Packet) (c : Cause), Accepted s port opPoolAttach p →
    (start s).attachRefusal (p.opf 197 192) (p.opf 199 198) (p.opf 209 200) = some c →
    ∃ t, exec (.poolAttach port p) s = .next t ∧ Answered s t port opPoolAttach p (Ans.bad c) ∧ t.fabricIs s.m.fs)

/-- R88, R89, R152, R196, R204, R331: the ends of fetches, for the packet of context 0 that waits, whose data come in
time; data that come after ACK_TIMEOUT find the load issued again, and are counted (log entry 138). A fetch that failed
is answered FABRIC_READ; bytes that are not the image named are answered IMAGE_CHECK; a model image is loaded into its
slot unless a live sequence uses it; a good descriptor attaches its engine to the pool that it fits, and the engine's
control block is stored. (What of it is the model's own choice or reading: log entries 18 and 53.) -/
def Obligations.FetchesEnd : Prop :=
  (∀ (s : State) (i : QItem) (v : Wait) (cmd : Instr) (op : Nat), Decides s → s.m.hs.up = true →
    (∀ x ∈ s.m.hs.ctxs, x.2.f2 = false) → NoneLeaves s →
    ((start s).hctx 0).acting = some (i, v) → ((start s).hctx 0).queue = [] → i.opcode = op →
    ((cmd = .descriptorFetchDone .failed ∧ v = .descriptor ∧ (start s).lateFetch false = none ∧
        (start s).attachRefusal (i.pkt.opf 197 192) (i.pkt.opf 199 198) (i.pkt.opf 209 200) = none) ∨
      (v = .image ∧ (start s).lateFetch true = none ∧
        (op = opModelLoad ∨ op = opStencilLoad) ∧ ∃ img, cmd = .imageFetchDone .failed img)) →
    ∃ t, exec cmd s = .next t ∧ t.pending = s.pending ∧ ((start t).hctx 0).acting = none ∧
      messages t i.pkt.ctx.toNat = messages s i.pkt.ctx.toNat ++ [.reply (replyTo op i.pkt (Ans.bad .fabricRead))] ∧
      t.fabricIs { s.m.fs with fab := { s.m.fs.fab with loads := t.m.fs.fab.loads } } ∧
      ∀ x ∈ t.m.fs.fab.loads, ∀ c, (v = .descriptor → x.2.why ≠ .descriptor c) ∧ (v = .image → x.2.why ≠ .image c)) ∧
  (∀ (s : State) (i : QItem) (bs : List Byte) (img : Option ImageIn), Decides s → s.m.hs.up = true →
    (∀ x ∈ s.m.hs.ctxs, x.2.f2 = false) → NoneLeaves s →
    ((start s).hctx 0).acting = some (i, .image) → ((start s).hctx 0).queue = [] → i.opcode = opModelLoad →
    (start s).lateFetch true = none →
    let slot := i.pkt.opf 196 192
    ∃ t a, exec (.imageFetchDone (.bytes bs) img) s = .next t ∧ t.pending = s.pending ∧ ((start t).hctx 0).acting = none ∧
      messages t i.pkt.ctx.toNat = messages s i.pkt.ctx.toNat ++ [.reply (replyTo opModelLoad i.pkt a)] ∧
      (Work.imageBytesOk i.pkt bs = false → a = Ans.bad .imageCheck ∧ (start t).slot slot = (start s).slot slot) ∧
      (∀ j, img = some j → let m := j.parsed; Work.imageBytesOk i.pkt bs = true → m.ok = true → i.pkt.opf 319 288 ≤ 262144 →
        ((start s).slotInUse slot = true → a = Ans.bad .inUse ∧ (start t).slot slot = (start s).slot slot) ∧
        ((start s).slotInUse slot = false → a = {} ∧
          (start t).slot slot = { image := some m, fallback := Work.fallbackField i.pkt } ∧
          ∀ k, k ≠ slot → (start t).slot k = (start s).slot k))) ∧
  (∀ (s : State) (image : Bool) (k : Nat) (l : LoadOut) (cmd : Instr), Issues s → (∀ x ∈ s.m.hs.ctxs, x.2.f2 = false) →
    NoneLeaves s → (start s).lateFetch image = some (k, l) → s.m.fs.fab.loads.get? k = some l →
    l.issues < fld ((start s).reg rFabTiming) 19 16 →
    ((image = false ∧ ∃ f, cmd = .descriptorFetchDone f) ∨ (image = true ∧ ∃ f img, cmd = .imageFetchDone f img)) →
    ∃ t, exec cmd s = .next t ∧
      Apart s t (portOf s l.engine ++ [cFabLoadRetry, cIgnoredWrites l.engine]) [] [] [] [.load l.engine l.addr l.len] ∧
      Counted s t cFabLoadRetry 1 ∧ Counted s t (cIgnoredWrites l.engine) 1 ∧ t.hostIs s.m.hs ∧
      t.fabricIs { s.m.fs with fab := { s.m.fs.fab with
        loads := s.m.fs.fab.loads.set k { l with issues := l.issues + 1, at_ := s.clk.fs.toNat } } }) ∧
  ∀ (s : State) (i : QItem) (bs : List Byte) (q : Pool) (n : Nat), Issues s → s.m.hs.up = true →
    (∀ x ∈ s.m.hs.ctxs, x.2.f2 = false) → NoneLeaves s →
    ((start s).hctx 0).acting = some (i, .descriptor) → ((start s).hctx 0).queue = [] → i.opcode = opPoolAttach →
    let p := i.pkt.opf 197 192
    let e := i.pkt.opf 209 200
    let d := descFields bs
    (start s).lateFetch false = none →
    s.m.fs.engines.get? e = none → s.m.fs.pools.get? p = some q → q.typ = i.pkt.opf 199 198 → q.typ ≠ 3 →
    bs.length = 128 → d.ok = true → q.kvLayout = d.kvLayout → q.vocabShards = d.vocabShards → q.kvShards = d.kvShards →
    (start s).layoutEntry d.kvLayout = some n → (start s).layoutOk n = true →
    ∃ t, exec (.descriptorFetchDone (.bytes bs)) s = .next t ∧ t.pending = s.pending ∧
      ((start t).hctx 0).acting = none ∧
      messages t i.pkt.ctx.toNat = messages s i.pkt.ctx.toNat ++
        [.reply (replyTo opPoolAttach i.pkt { result := q.epoch % 2 ^ 32 })] ∧
      t.m.fs.engines.get? e = some { pool := p, desc := d, stores := [{ why := .other, at_ := s.clk.fs.toNat }] } ∧
      t.m.fs.fab.windows.get? e = none ∧
      PoolIs s t p { q with degraded := (start t).degradedNow p q } ∧
      t.out.fabric = s.out.fabric ++ [.store e d.ctrlAddr (Work.controlBlock q.epoch { pool := p, desc := d })]

/-- R101, R107, R119, R210, R211, R620: TENANT_SET sets a tenant context's settings, clamped, unless the reserves of all
contexts would exceed what exists; KEY_VALID installs the key, the previous one staying valid for KEY_GRACE after the
reply. Context 0 is no target. (What of it is the model's own choice or reading: log entries 46 and 120.) -/
def Obligations.TenantsAreSet : Prop :=
  ∀ (s : State) (port : Nat) (p : Packet), Accepted s port opTenantSet p →
    let c := Work.targetOf p
    let ten := (clampTenant (tenantFields p.body)).1
    let key := BitVec.ofNat 128 (ofLe (p.body.take 16))
    ∃ t a, exec (.tenantSet port p) s = .next t ∧ Apart s t [cRxBeats port, cStaleKey 0, cClamp 0] [] [0] ∧
      (messages t 0).getLast? = some (.reply (replyTo opTenantSet p a)) ∧
      (c = 0 → a = Ans.bad .targetSteward ∧ t.fabricIs s.m.fs) ∧
      (c ≠ 0 → (start s).overReserved c ten = true → a = Ans.bad .overReserved ∧ t.fabricIs s.m.fs) ∧
      (c ≠ 0 → (start s).overReserved c ten = false → a = {} ∧
        t.fabricIs ((start s).modFctx c fun x => { x with tenant := ten }).m.fs ∧
        (((start s).hctx c).key = none → ((start t).hctx c).sqDepth = ten.sqDepth) ∧
        (((start s).hctx c).key ≠ none → ((start t).hctx c).sqDepth = ((start s).hctx c).sqDepth ∧
          ((start t).hctx c).nextDepth = some ten.sqDepth) ∧
        (p.opf 192 192 = 0 → ((start t).hctx c).key = ((start s).hctx c).key) ∧
        (p.opf 192 192 = 1 → ((start t).hctx c).key = some key ∧ ((start t).hctx c).prevKey = ((start s).hctx c).key ∧
          ((start t).hctx c).graceAt = none ∧ ((start t).hctx c).accepted = 0 ∧
          (((start s).hctx c).key = none → ((start t).hctx c).hiSeq = 0)))

/-- R135, R213: TENANT_THAW thaws a frozen context: its THAW event is logged, and the context is sent its notice. A
context that is not frozen, or context 0, is BAD_STATE. R136, R629, R630: TENANT_RESET of a tenant context completes
whenever nothing of the context is being acted on and no reply to it is unreleased: its queue is dropped, it thaws, its
sequence numbers start anew with a full depth, every live sequence of it ends, its handles go and its deadline counters
clear, its key and settings stay, and its RESET_DONE notice is its last message; with no live sequence and no handle of
the context, the fabric side stays as it was. While a packet of it is being acted on or a reply is unreleased, the reset
waits; context 0 is refused. (What of it is the model's own choice or reading: log entries 84, 90 and 92.) -/
def Obligations.TenantsAreThawedAndReset : Prop :=
  (∀ (s : State) (port : Nat) (p : Packet), Accepted s port opTenantThaw p →
      let c := Work.targetOf p
      ∃ t a, exec (.tenantThaw port p) s = .next t ∧ Apart s t [cRxBeats port, cStaleKey 0] [17] [0] ∧ t.fabricIs s.m.fs ∧
        (messages t 0).getLast? = some (.reply (replyTo opTenantThaw p a)) ∧
        (c = 0 → a = Ans.bad .targetSteward) ∧
        (c ≠ 0 → ((start s).hctx c).frozen = false → a = Ans.bad .notFrozen) ∧
        (c ≠ 0 → ((start s).hctx c).frozen = true → a = {} ∧ ((start t).hctx c).frozen = false ∧
          messages t c = messages s c ++ [.reply { status := stThawed, ctx := c, kind := 1 }] ∧
          t.obs.head.getD 17 0 = (if (s.obs.head.getD 17 0 + 1) % 2 ^ 32 = 0 then 1 else (s.obs.head.getD 17 0 + 1) % 2 ^ 32))) ∧
  ((∀ (s : State) (port : Nat) (p : Packet), Accepted s port opTenantReset p → Work.targetOf p ≠ 0 →
      (start s).resetReady (Work.targetOf p) = true →
      let c := Work.targetOf p
      let h := (start s).hctx c
      ∃ t, exec (.tenantReset port p) s = .next t ∧
        (messages t 0).getLast? = some (.reply (replyTo opTenantReset p {})) ∧
        ((start t).hctx c).hiSeq = 0 ∧ ((start t).hctx c).frozen = false ∧ ((start t).hctx c).resetting = false ∧
        ((start t).hctx c).key = h.key ∧ ((start t).hctx c).sqDepth = h.nextDepth.getD h.sqDepth ∧
        ((start t).fctx c).tenant = ((start s).fctx c).tenant ∧
        (∀ i ∈ ((start t).hctx c).queue, i.answer ≠ none) ∧
        (messages t c).getLast? = some (.reply { status := stResetDone, ctx := c, kind := 1 }) ∧
        (∀ o ∈ Work.deadlineCounters c, t.obs.ctr.get? o = none) ∧
        (∀ n, ((start t).entry n).ctx = c → ((start t).entry n).st.live = false) ∧ (∀ x ∈ t.m.fs.handles, prefixOwner x.1 ≠ c) ∧
        ((∀ x ∈ s.m.fs.rqt, x.2.ctx = c → x.2.st.live = false) → (∀ x ∈ s.m.fs.handles, prefixOwner x.1 ≠ c) →
          t.fabricIs s.m.fs)) ∧
    (∀ (s : State) (port : Nat) (p : Packet), Accepted s port opTenantReset p → Work.targetOf p ≠ 0 →
      (start s).resetReady (Work.targetOf p) = false →
      ∃ t, exec (.tenantReset port p) s = .next t ∧ t.fabricIs s.m.fs ∧
        ((start t).hctx (Work.targetOf p)).resetting = true ∧ ((start t).hctx 0).acting =
          some (arrived s port opTenantReset p, .reset (Work.targetOf p))) ∧
    ∀ (s : State) (port : Nat) (p : Packet), Accepted s port opTenantReset p → Work.targetOf p = 0 →
      ∃ t, exec (.tenantReset port p) s = .next t ∧ t.fabricIs s.m.fs ∧
        Answered s t port opTenantReset p (Ans.bad .targetSteward))

/-- R206, R220: POOL_DETACH. An engine that no plan of its pool includes leaves at once; one that a composed or
delivered plan includes is in no further plan, and the reply waits for the end of that plan; ALL names every engine of
the pool. An engine or a pool that is not attached is BAD_STATE. (What of it is the model's own choice or reading: log
entry 53.) -/
def Obligations.EnginesAreDetached : Prop :=
  (∀ (s : State) (port : Nat) (p : Packet), Accepted s port opPoolDetach p →
    ((start s).pool? (p.opf 197 192) = none ∨
      (p.opf 198 198 = 0 ∧ ∀ x ∈ s.m.fs.engines, x.1 = p.opf 209 200 → x.2.pool ≠ p.opf 197 192 ∨ x.2.leaving = true)) →
    ∃ t, exec (.poolDetach port p) s = .next t ∧ Apart s t [cRxBeats port, cStaleKey 0] [] [0] ∧ t.fabricIs s.m.fs ∧
      Answered s t port opPoolDetach p (Ans.bad .notAttached)) ∧
  (∀ (s : State) (port : Nat) (p : Packet) (g : Engine) (q : Pool), Accepted s port opPoolDetach p → p.opf 198 198 = 0 →
    let pool := p.opf 197 192
    let e := p.opf 209 200
    (start s).engine? e = some g → g.pool = pool → (∀ x ∈ s.m.fs.engines, x.2.leaving = false) →
    (start s).pool? pool = some q → (q.plans.any fun pl => pl.engines.contains e) = true →
    ∃ t es, exec (.poolDetach port p) s = .next t ∧ Apart s t [cRxBeats port, cStaleKey 0] [] [0] ∧
      Waiting s t port opPoolDetach p (.detach pool es) ∧ (∀ x ∈ es, x = e) ∧ es ≠ [] ∧
      t.m.fs.engines.get? e = some { g with leaving := true } ∧
      (∀ x, x ≠ e → t.m.fs.engines.get? x = s.m.fs.engines.get? x) ∧
      t.fabricIs { s.m.fs with engines := t.m.fs.engines }) ∧
  (∀ (s : State) (port : Nat) (p : Packet) (g : Engine) (q : Pool), Accepted s port opPoolDetach p → p.opf 198 198 = 0 →
    let pool := p.opf 197 192
    let e := p.opf 209 200
    let other (k : Engine → Bool) : Prop :=
      ∃ x ∈ s.m.fs.engines, x.1 ≠ e ∧ x.2.pool = pool ∧ x.2.frozen = false ∧ k x.2 = true
    (start s).engine? e = some g → g.pool = pool → (∀ x ∈ s.m.fs.engines, x.2.leaving = false) →
    (start s).pool? pool = some q → (q.plans.any fun pl => pl.engines.contains e) = false →
    (start s).copyingFrom pool = false → other (fun _ => true) → (∀ k, k < q.kvShards → other fun x => x.desc.kvShard = k) →
    (∀ k, k < q.vocabShards → other fun x => decide (0 < x.desc.vocabShards) && x.desc.vocabShard = k) →
    ∃ t, exec (.poolDetach port p) s = .next t ∧ Apart s t [cRxBeats port, cStaleKey 0] [] [0] ∧
      Answered s t port opPoolDetach p {} ∧ t.m.fs.engines.get? e = none ∧
      (∀ x, x ≠ e → t.m.fs.engines.get? x = s.m.fs.engines.get? x) ∧
      t.fabricIs { s.m.fs with engines := t.m.fs.engines }) ∧
  ∀ (s : State) (port : Nat) (p : Packet) (q : Pool), Accepted s port opPoolDetach p → p.opf 198 198 = 1 →
    let pool := p.opf 197 192
    let es := ((start s).poolEngines pool).map (·.1)
    (∀ x ∈ s.m.fs.engines, x.2.leaving = false) →
    (start s).pool? pool = some q → (q.plans.any fun pl => pl.engines.any es.contains) = true →
    ∃ t, exec (.poolDetach port p) s = .next t ∧ Apart s t [cRxBeats port, cStaleKey 0] [] [0] ∧
      Waiting s t port opPoolDetach p (.detach pool es) ∧
      (∀ x g, t.m.fs.engines.get? x = some g → g.pool = pool → g.leaving = true) ∧
      t.fabricIs { s.m.fs with engines := t.m.fs.engines }

/-- R141, R142, R207, R849, R855: ENGINE_FREEZE of an attached engine. It is frozen, an executing step not yet decided
of its pool fails with cause 4, the pool is degraded where a shard is left without an engine, and an F3 fault of cause
0x08 is raised, whose notice goes before the reply. A frozen engine stays as it is; one that is not attached is
BAD_STATE. (Here the pool executes a step, or another engine holds each shard: what a degraded pool parks at once is not
said.) R143, R207, R331, R860: ENGINE_THAW of a frozen engine. Its rings, its replay window and its malformed count
start anew, its next plan carries every page, its control block is written again, and its pool may be whole again. An
engine that is not frozen, or not attached, is BAD_STATE. (What of it is the model's own choice or reading: log entry
53.) -/
def Obligations.EnginesAreFrozenAndThawed : Prop :=
  ((∀ (s : State) (port : Nat) (p : Packet) (g : Engine) (q : Pool), Accepted s port opEngineFreeze p →
      let e := p.opf 209 200
      let other (k : Engine → Bool) : Prop :=
        ∃ x ∈ s.m.fs.engines, x.1 ≠ e ∧ x.2.pool = g.pool ∧ x.2.frozen = false ∧ x.2.leaving = false ∧ k x.2 = true
      (start s).engine? e = some g → g.frozen = false → (start s).pool? g.pool = some q →
      (q.exec ≠ none ∨ ((∀ k, k < q.kvShards → other fun x => x.desc.kvShard = k) ∧
        ∀ k, k < q.vocabShards → other fun x => decide (0 < x.desc.vocabShards) && x.desc.vocabShard = k)) →
      ∃ t q' n, exec (.engineFreeze port p) s = .next t ∧
        t.m.fs.engines.get? e = some { g with frozen := true, atomic := none, stores := [] } ∧
        t.m.fs.pools.get? g.pool = some q' ∧ q'.degraded = (start t).degradedNow g.pool q ∧
        (∀ st, q.exec = some st → st.decided = false → st.failed = none → q'.exec = some { st with failed := some 4 }) ∧
        t.m.fs.fault = { cls := 3, unit := 4, cause := 8, obj := e, time := s.clk.fs.toNat } ∧
        t.fabricIs { s.m.fs with
          engines := t.m.fs.engines, pools := t.m.fs.pools, fault := t.m.fs.fault
          units := t.m.fs.units } ∧
        messages t 0 = messages s 0 ++ (keyNotices s opEngineFreeze p).map .reply ++
          [.reply n, .reply (replyTo opEngineFreeze p {})] ∧
        n.status = stFault ∧ n.kind = 1 ∧ n.obj = e ∧ n.result % 8 = 3 ∧ n.result / 256 % 256 = 8) ∧
    (∀ (s : State) (port : Nat) (p : Packet) (g : Engine), Accepted s port opEngineFreeze p →
      (start s).engine? (p.opf 209 200) = some g → g.frozen = true →
      ∃ t, exec (.engineFreeze port p) s = .next t ∧ Apart s t [cRxBeats port, cStaleKey 0] [] [0] ∧ t.fabricIs s.m.fs ∧
        Answered s t port opEngineFreeze p {}) ∧
    ∀ (s : State) (port : Nat) (p : Packet), Accepted s port opEngineFreeze p →
      (start s).engine? (p.opf 209 200) = none →
      ∃ t, exec (.engineFreeze port p) s = .next t ∧ Apart s t [cRxBeats port, cStaleKey 0] [] [0] ∧ t.fabricIs s.m.fs ∧
        Answered s t port opEngineFreeze p (Ans.bad .notAttached)) ∧
  ((∀ (s : State) (port : Nat) (p : Packet) (g : Engine) (q : Pool), Accepted s port opEngineThaw p → Issues s →
      let e := p.opf 209 200
      let g' := { pool := g.pool, desc := g.desc, leaving := g.leaving }
      (start s).engine? e = some g → g.frozen = true → (start s).pool? g.pool = some q →
      ∃ t, exec (.engineThaw port p) s = .next t ∧ Answered s t port opEngineThaw p {} ∧
        t.m.fs.engines.get? e = some { g' with stores := [{ why := .other, at_ := s.clk.fs.toNat }] } ∧
        (∀ x, x ≠ e → t.m.fs.engines.get? x = s.m.fs.engines.get? x) ∧
        t.m.fs.fab.windows.get? e = none ∧
        t.m.fs.pools.get? g.pool = some { q with degraded := (start t).degradedNow g.pool q } ∧
        t.out.fabric = s.out.fabric ++ [.store e g.desc.ctrlAddr (Work.controlBlock q.epoch g')] ∧ t.out.host = s.out.host ∧
        t.fabricIs { s.m.fs with engines := t.m.fs.engines, pools := t.m.fs.pools, fab := t.m.fs.fab }) ∧
    ∀ (s : State) (port : Nat) (p : Packet), Accepted s port opEngineThaw p →
      (∀ g, (start s).engine? (p.opf 209 200) = some g → g.frozen = false) →
      ∃ t, exec (.engineThaw port p) s = .next t ∧ Apart s t [cRxBeats port, cStaleKey 0] [] [0] ∧ t.fabricIs s.m.fs ∧
        Answered s t port opEngineThaw p
          (Ans.bad (if (start s).engine? (p.opf 209 200) = none then .notAttached else .notFrozen)))

/-- R202, R203, R320, R321: SHARED_HANDLE_GRANT. Mode 0 creates a shared handle over SRC_HANDLE's copy, which never
expires, and answers once that copy is finished; mode 1 replaces the grants; mode 2 drops the handle. Each refusal
leaves the table. R183, R186, R307, R309, R312, R317: PREFIX_PUT of a running sequence's own context puts the handle and
its unfinished park-tier copy, whose expiry is the clamped TTL from now, and answers the positions covered, whole pages
of them; PREFIX_DROP and the expiry take a handle out of its namespace. (What of it is the model's own choice or
reading: log entries 97, 98, 132 and 133.) -/
def Obligations.HandlesComeAndGo : Prop :=
  ((∀ (s : State) (port : Nat) (p : Packet) (r : HandleRec), Accepted s port opSharedGrant p → p.opf 193 192 = 0 →
      let h := p.handle.toNat
      (start s).sharedEncoding p = false → s.m.fs.handles.has h = false → s.m.fs.handles.get? (p.opf 263 200) = some r →
      (start s).handleRoom h = true →
      ∃ t, exec (.sharedHandleCreate port p) s = .next t ∧ Apart s t [cRxBeats port, cStaleKey 0] [] [0] ∧
        t.fabricIs { s.m.fs with
          handles := s.m.fs.handles.set h { copy := r.copy, expiry := none, grants := bitmap p.body }
          copies := s.m.fs.copies.mod r.copy fun k => { k with names := k.names ++ [h] }
          memPorts := ((((start s).lookUp h).lookUp (p.opf 263 200)).queueHandle h 1 0).fs.memPorts } ∧
        ((∀ k, s.m.fs.copies.get? r.copy = some k → k.done = true) → Answered s t port opSharedGrant p {}) ∧
        ((∃ k, s.m.fs.copies.get? r.copy = some k ∧ k.done = false) →
          Waiting s t port opSharedGrant p (.handleCopy r.copy))) ∧
    (∀ (s : State) (port : Nat) (p : Packet), Accepted s port opSharedGrant p → p.opf 193 192 = 0 →
      let h := p.handle.toNat
      ((start s).sharedEncoding p = true ∨ s.m.fs.handles.has h = true ∨ s.m.fs.handles.get? (p.opf 263 200) = none ∨
        (start s).handleRoom h = false) →
      ∃ t, exec (.sharedHandleCreate port p) s = .next t ∧ Apart s t [cRxBeats port, cStaleKey 0] [] [0] ∧
        t.fabricIs { s.m.fs with memPorts := (if (start s).sharedEncoding p = true then start s
          else ((start s).lookUp h).lookUp (p.opf 263 200)).fs.memPorts } ∧
        Answered s t port opSharedGrant p (if (start s).sharedEncoding p = true then Ans.bad .encoding
          else if s.m.fs.handles.has h = true then Ans.bad .exists_
          else if s.m.fs.handles.get? (p.opf 263 200) = none then Ans.refuse stNoPrefix else Ans.refuse stNoPages)) ∧
    (∀ (s : State) (port : Nat) (p : Packet), Accepted s port opSharedGrant p → p.opf 193 192 = 1 →
      let h := p.handle.toNat
      ∃ t a, exec (.sharedHandleSetGrants port p) s = .next t ∧ Apart s t [cRxBeats port, cStaleKey 0] [] [0] ∧
        Answered s t port opSharedGrant p a ∧
        ((start s).sharedEncoding p = true → a = Ans.bad .encoding ∧ t.fabricIs s.m.fs) ∧
        ((start s).sharedEncoding p = false → s.m.fs.handles.get? h = none →
          a = Ans.refuse stNoPrefix ∧ t.fabricIs { s.m.fs with memPorts := ((start s).lookUp h).fs.memPorts }) ∧
        ((start s).sharedEncoding p = false → ∀ r, s.m.fs.handles.get? h = some r →
          a = {} ∧ t.fabricIs { s.m.fs with
            handles := s.m.fs.handles.set h { r with grants := bitmap p.body }
            memPorts := (((start s).lookUp h).queueHandle h 1 0).fs.memPorts })) ∧
    ∀ (s : State) (port : Nat) (p : Packet), Accepted s port opSharedGrant p → p.opf 193 192 = 2 →
      let h := p.handle.toNat
      ∃ t a, exec (.sharedHandleDrop port p) s = .next t ∧ Apart s t [cRxBeats port, cStaleKey 0] [] [0] ∧
        Answered s t port opSharedGrant p a ∧
        ((start s).sharedEncoding p = true → a = Ans.bad .encoding ∧ t.fabricIs s.m.fs) ∧
        ((start s).sharedEncoding p = false → s.m.fs.handles.has h = false → a = Ans.refuse stNoPrefix ∧
          t.fabricIs { s.m.fs with memPorts := ((start s).lookUp h).fs.memPorts }) ∧
        ((start s).sharedEncoding p = false → s.m.fs.handles.has h = true → a = {} ∧
          t.m.fs.handles = s.m.fs.handles.erase h ∧
          t.fabricIs { s.m.fs with
            handles := t.m.fs.handles, copies := t.m.fs.copies, ctxs := t.m.fs.ctxs, park := t.m.fs.park
            memPorts := (((start s).lookUp h).queueHandle h 1 (prefixOwner h)).fs.memPorts })) ∧
  ((∀ (s : State) (port : Nat) (p : Packet) (slot : Nat) (pool : Pool), Accepted s port opPrefixPut p → p.ctx.toNat ≠ 0 →
      let c := p.ctx.toNat
      let h := p.handle.toNat
      let e := (start s).entry slot
      let pp := (start s).pagePos e.model
      let want := p.opf 244 224
      let q := (if want = 0 ∨ e.length < want then e.length else want) / pp * pp
      let n := ceilDiv (q / pp * pool.kvShards * pool.pageBytes) 65536 + Work.listExtents q
      let ten := ((start s).fctx c).tenant
      let ttl := (clampTtl ten (p.opf 287 256)).1
      prefixOwner h = c → (start s).resolve c (p.opf 223 192) = .entry slot → (start s).groupEn = false →
      s.m.fs.handles.has h = false → (e.st = .prefilling ∨ e.st = .decoding) → q ≠ 0 → (start s).handleRoom h = true →
      (start s).residencyRoom = true → (start s).pool? ((start s).standing slot).1 = some pool → (start s).mayCharge c n = true →
      ∃ t k, exec (.prefixPut port p) s = .next t ∧ Answered s t port opPrefixPut p { result := q } ∧
        t.m.fs.handles = s.m.fs.handles.set h
          { copy := s.m.fs.nextCopy, expiry := some (s.clk.fs.toNat + (start s).edges (if ttl = 0 then ten.defTtl else ttl))
            setAt := s.clk.fs.toNat } ∧
        t.m.fs.copies = s.m.fs.copies.set s.m.fs.nextCopy k ∧
        k.handle = h ∧ k.owner = c ∧ k.model = e.model ∧ k.variant = e.variant ∧ k.q = q ∧ k.pagePos = pp ∧
        k.layout = pool.kvLayout ∧ k.done = false ∧ k.tokens = (start s).tokenList ((start s).seq slot) q ∧
        ((start t).fctx c).parkUsed = ((start s).fctx c).parkUsed + n ∧ t.out.host = s.out.host ∧
        t.fabricIs { s.m.fs with
          handles := t.m.fs.handles, copies := t.m.fs.copies, nextCopy := s.m.fs.nextCopy + 1, nextSeg := s.m.fs.nextSeg + 1
          segs := t.m.fs.segs, seqs := t.m.fs.seqs, ctxs := t.m.fs.ctxs, park := t.m.fs.park, fab := t.m.fs.fab
          memPorts := ((((start s).lookUp h).queueHandle h 1 c).queueExtents k.extents
            (q / pp * pool.kvShards * pool.pageBytes) .prefix_ c
            (.handle s.m.fs.nextCopy)).fs.memPorts }) ∧
    (∀ (s : State) (port : Nat) (p : Packet), Accepted s port opPrefixDrop p → p.ctx.toNat ≠ 0 →
      let h := p.handle.toNat
      prefixOwner h = p.ctx.toNat →
      ∃ t a, exec (.prefixDrop port p) s = .next t ∧ Answered s t port opPrefixDrop p a ∧
        Apart s t [cRxBeats port, cStaleKey p.ctx.toNat] [] [p.ctx.toNat] ∧
        (s.m.fs.handles.has h = false → a = Ans.refuse stNoPrefix ∧
          t.fabricIs { s.m.fs with memPorts := ((start s).lookUp h).fs.memPorts }) ∧
        (s.m.fs.handles.has h = true → a = {} ∧ t.m.fs.handles = s.m.fs.handles.erase h ∧
          t.fabricIs { s.m.fs with
            handles := t.m.fs.handles, copies := t.m.fs.copies, ctxs := t.m.fs.ctxs, park := t.m.fs.park
            memPorts := (((start s).lookUp h).queueHandle h 1 (prefixOwner h)).fs.memPorts })) ∧
    ∀ (s : State) (h at_ : Nat) (r : HandleRec), Decides s → Settled s → s.m.fs.handles.get? h = some r →
      r.expiry = some at_ →
      ∃ t, exec (.handleExpiry h) s = .next t ∧ Apart s t [] [] ∧ t.hostIs s.m.hs ∧
        ((start s).reached r.setAt at_ = false → t.fabricIs s.m.fs) ∧
        ((start s).reached r.setAt at_ = true → t.m.fs.handles = s.m.fs.handles.erase h ∧
          t.fabricIs { s.m.fs with
            handles := t.m.fs.handles, copies := t.m.fs.copies, ctxs := t.m.fs.ctxs, park := t.m.fs.park
            memPorts := ((start s).queueHandle h 1 (prefixOwner h)).fs.memPorts }))

/-- R105, R130 to R132, R146, R147: a packet that passes checks 1 to 5 and names a reserved or unassigned opcode freezes
its context with class 2, sets its sequence number, and is not queued; a notice of the freeze goes to the context. A
handle of another context's namespace does so in PREFIX_DROP, with class 3, when the packet is acted on. (What of it is
the model's own choice or reading: log entries 88 and 121.) -/
def Obligations.ViolationsFreezeContexts : Prop :=
  (∀ (s : State) (port op : Nat) (p : Packet), Arrives s port op p → opReserved op = true →
    let c := p.ctx.toNat
    ∃ t, exec (.reservedOpcode port op p) s = .next t ∧ t.fabricIs s.m.fs ∧ Frozen s t port op p 0x02 ∧
      Apart s t [cRxBeats port, cStaleKey c] [17] [c]) ∧
  ∀ (s : State) (port : Nat) (p : Packet), Accepted s port opPrefixDrop p →
    let c := p.ctx.toNat
    prefixOwner p.handle.toNat ≠ 0 → prefixOwner p.handle.toNat ≠ c →
    ∃ t, exec (.prefixDrop port p) s = .next t ∧ t.fabricIs s.m.fs ∧ Frozen s t port opPrefixDrop p 0x03 ∧
      Apart s t [cRxBeats port, cStaleKey c] [17] [c]

/-- R93, R94, R709: beats that frame no packet are counted and dropped; those after a partial packet's time-out are
counted with them, up to the next first-beat marker. R715, R716: the receiving half of the message gate takes a good
message; it refuses a bad one, which is sent again and counted, up to three times; the fourth refusal is an F4 fault of
the receiving side, which at an unpaired instance resets it. (What of it is the model's own choice or reading: log
entries 38, 40, 89 and 111.) -/
def Obligations.GateTrafficIsChecked : Prop :=
  ((∀ (s : State) (port : Nat) (first : Bool) (beats : Nat), port < s.idn.hostPorts → s.m.hs.up = true →
      ∃ t, exec (.framingDrop port first beats) s = .next t ∧ Apart s t [cRxBeats port, cFramingDrop port] [] ∧
        t.fabricIs s.m.fs ∧ Counted s t (cRxBeats port) beats ∧
        Counted s t (cFramingDrop port) (if first = true then 1 else beats) ∧
        t.hostIs { s.m.hs with
          skipping := if first = true then s.m.hs.skipping.filter (· ≠ port) else s.m.hs.skipping }) ∧
    ∀ (s : State) (port beats : Nat), port < s.idn.hostPorts → s.m.hs.up = true →
      ∃ t, exec (.partialPacketTimeout port beats) s = .next t ∧ Apart s t [cRxBeats port, cPartialDrop port] [] ∧
        t.fabricIs s.m.fs ∧ Counted s t (cRxBeats port) beats ∧ Counted s t (cPartialDrop port) 1 ∧
        port ∈ t.m.hs.skipping ∧ t.hostIs { s.m.hs with skipping := t.m.hs.skipping } ∧
        (∀ x, x ≠ port → (x ∈ t.m.hs.skipping ↔ x ∈ s.m.hs.skipping))) ∧
  ((∀ (s : State) (g : GateMsg), s.m.hs.up = true → s.m.fs.boot.up = true → (start s).halted = false → s.stalled = [] →
      gateMsgGood g = true →
      ∃ t, exec (.gateCrossing g) s = .next t ∧ Apart s t [] [] ∧ t.fabricIs s.m.fs ∧
        t.hostIs (if g.toFabric = true then { s.m.hs with refusedToFs := 0 } else { s.m.hs with refusedToHs := 0 })) ∧
    (∀ (s : State) (g : GateMsg), s.m.hs.up = true → s.m.fs.boot.up = true → (start s).halted = false → s.stalled = [] →
      gateMsgGood g = false →
      (if g.toFabric = true then s.m.hs.refusedToFs else s.m.hs.refusedToHs) < 3 →
      ∃ t, exec (.gateCrossing g) s = .next t ∧ Apart s t [cGateRetry, cFault 0] [0, 17] ∧ Counted s t cGateRetry 1 ∧
        t.fabricIs { s.m.fs with fault := t.m.fs.fault } ∧
        (g.toFabric = true → t.m.fs.fault = s.m.fs.fault) ∧
        (g.toFabric = false → t.m.fs.fault = { cls := 0, unit := 0, cause := 0x12, obj := 0, time := s.clk.fs.toNat }) ∧
        t.hostIs (if g.toFabric = true then { s.m.hs with refusedToFs := s.m.hs.refusedToFs + 1 }
          else { s.m.hs with refusedToHs := s.m.hs.refusedToHs + 1 })) ∧
    (∀ (s : State) (g : GateMsg), s.m.hs.up = true → s.m.fs.boot.up = true → (start s).halted = false → s.stalled = [] →
      gateMsgGood g = false →
      g.toFabric = false → 3 ≤ s.m.hs.refusedToHs → s.m.fs.twin.state = .unpaired →
      (∀ x ∈ s.m.hs.ctxs, x.2.queue = [] ∧ x.2.acting = none ∧ x.2.f2 = false) →
      ∃ t, exec (.gateCrossing g) s = .next t ∧ t.m.fs.boot = { up := true, phase := .selfTest } ∧ t.m.fs.pools = [] ∧
        t.m.fs.rqt = [] ∧ t.clk.fs = 0 ∧ t.clk.hs = s.clk.hs ∧ (messages t 0) ≠ []) ∧
    ∀ (s : State) (g : GateMsg), s.m.hs.up = true → s.m.fs.boot.up = true → (start s).halted = false → s.stalled = [] →
      gateMsgGood g = false →
      g.toFabric = true → 3 ≤ s.m.hs.refusedToFs → s.m.fs.twin.state = .unpaired →
      (∀ x ∈ s.m.fs.rqt, x.2.st.live = true → x.2.ctx = 0) →
      ∃ t, exec (.gateCrossing g) s = .next t ∧ t.m.hs = { up := true } ∧ t.clk.hs = 0 ∧ t.clk.fs = s.clk.fs ∧
        t.m.fs.rqt = s.m.fs.rqt ∧ t.m.fs.pools = s.m.fs.pools ∧
        ∃ o, s.out.host ++ o = t.out.host ∧ o ≠ [])

/-- R101, R104, R138, R840, R892, R893: what the service port and the host side's timer do. KEY_GRACE ends a previous
key; LOAD installs the steward's key with sequence numbers from 0; STEWARD_THAW thaws context 0; a capture of SVC_DATA
reads the word at SVC_ADDR, an update writes it where R893 lets it, and each steps SVC_ADDR by 4. (What of it is the
model's own choice or reading: log entries 46 and 82.) -/
def Obligations.ServicePortKeepsTheKeys : Prop :=
  (∀ (s : State) (c at_ : Nat), s.m.hs.up = true → ((start s).hctx c).graceAt = some at_ →
    ∃ t, exec (.keyGraceExpiry c) s = .next t ∧ Apart s t [] [] ∧ t.fabricIs s.m.fs ∧
      ((start s).hsFired at_ s.m.hs.keyGrace = false → t.hostIs s.m.hs) ∧
      ((start s).hsFired at_ s.m.hs.keyGrace = true → ((start t).hctx c).prevKey = none ∧
        ((start t).hctx c).key = ((start s).hctx c).key ∧ ((start t).hctx c).graceAt = none)) ∧
  (∀ s : State, s.m.hs.up = true →
    ∃ t, exec .svcKeyLoad s = .next t ∧ Apart s t [] [] ∧ t.fabricIs s.m.fs ∧
      ((start t).hctx 0).key = some s.m.hs.svcKey ∧ ((start t).hctx 0).prevKey = none ∧ ((start t).hctx 0).hiSeq = 0 ∧
      ((start t).hctx 0).accepted = 0 ∧ ((start t).hctx 0).keyExpired = false ∧
      ((start t).hctx 0).queue = ((start s).hctx 0).queue ∧
      ∀ c, c ≠ 0 → ((start t).hctx c).key = ((start s).hctx c).key ∧ ((start t).hctx c).hiSeq = ((start s).hctx c).hiSeq) ∧
  (∀ s : State, s.m.hs.up = true → ((start s).hctx 0).queue = [] →
    ∃ t, exec .stewardThaw s = .next t ∧ Apart s t [] [17] ∧ t.fabricIs s.m.fs ∧ ((start t).hctx 0).frozen = false ∧
      (((start s).hctx 0).frozen = false → t.hostIs s.m.hs) ∧
      (((start s).hctx 0).frozen = true →
        messages t 0 = messages s 0 ++ [.reply { status := stThawed, ctx := 0, kind := 1 }])) ∧
  (∀ (s : State) (addr : Option Word), s.m.hs.up = true → s.m.hs.svcBusy = false →
    let a := addr.getD s.m.hs.svcAddr
    ∃ t, exec (.svcDataCapture addr) s = .next t ∧ Apart s t [] [] ∧ t.fabricIs s.m.fs ∧
      t.hostIs { s.m.hs with svcAddr := a + 4, svcSideDown := t.m.hs.svcSideDown, svcData := t.m.hs.svcData } ∧
      ((start s).svcReaches a.toNat = false → t.m.hs.svcSideDown = true ∧ t.m.hs.svcData = 0) ∧
      ((start s).svcReaches a.toNat = true → t.m.hs.svcSideDown = false ∧
        ((rwWord s.idn.isM (a.toNat / 4 * 4)).isSome → isCounter s.idn.isM (a.toNat / 8 * 8) = false →
          t.m.hs.svcData = BitVec.ofNat 32 ((start s).raw (a.toNat / 4 * 4))))) ∧
  (∀ (s : State) (addr : Option Word) (data : Word) (k : Nat), s.m.hs.up = true → s.m.hs.svcBusy = false → k < 4 →
    let a := addr.getD s.m.hs.svcAddr
    regionOf s.idn.isM a.toNat = .hostInst (0x10 + 4 * k) → a.toNat % 4 = 0 →
    ∃ t, exec (.svcDataUpdate addr data) s = .next t ∧ Apart s t [] [] ∧ t.fabricIs s.m.fs ∧
      t.hostIs { s.m.hs with svcAddr := a + 4, svcDenied := false, svcSideDown := false, svcKey := t.m.hs.svcKey } ∧
      fld t.m.hs.svcKey.toNat (32 * k + 31) (32 * k) = data.toNat) ∧
  ∀ (s : State) (addr : Option Word) (data : Word), s.m.hs.up = true → s.m.hs.svcBusy = false →
    let a := addr.getD s.m.hs.svcAddr
    (∀ o, regionOf s.idn.isM a.toNat ≠ .hostInst o) →
    ∃ t, exec (.svcDataUpdate addr data) s = .next t ∧ Apart s t [] [] ∧ t.fabricIs s.m.fs ∧
      t.hostIs { s.m.hs with svcAddr := a + 4, svcDenied := true, svcSideDown := !(start s).svcReaches a.toNat }

/-- R44, R122, R712, R733, R882: the head of a reply stream leaves on its port when it may, in order; a reply or a
notice by REPLY_RELEASE, a ring record by RING_RECORD_SEND, and what a packet wrote that waits for its reply is in force
from then on (R44); in a pair not before the twin has acknowledged what it waits for. (What of it is the model's own
choice or reading: log entries 30, 35 and 135.) -/
def Obligations.StreamsLeaveInOrder : Prop :=
  (∀ (s : State) (c : Nat) (i : StreamItem) (rest : List StreamItem) (r : Reply), Settled s → s.m.hs.up = true →
    s.m.fs.horn.held = false → s.m.fs.twin.state = .unpaired → ((start s).hctx c).stream = i :: rest → i.msg = .reply r →
    (∀ m n, i.after ≠ .relayTaken m n) →
    ∃ t, exec (.replyRelease c) s = .next t ∧ Apart s t [cTxBeats i.port] [] []
        [{ port := i.port, slot := (start s).slotOn i.port, ctx := c, msg := i.msg }] ∧
      t.fabricIs (if r.ctx = 0 ∧ r.kind = 0
        then { s.m.fs with latches := s.m.fs.latches.filter fun l => l.cseq ≠ BitVec.ofNat 32 r.cseq } else s.m.fs) ∧
      Counted s t (cTxBeats i.port) (1 - (start s).slotOn i.port) ∧ ((start t).hctx c).stream = rest ∧
      (∀ d n, i.after = .graceStart d n → ((start t).hctx d).graceAt =
        (if ((start s).hctx d).keyNum = n then some s.clk.hs.toNat else ((start s).hctx d).graceAt)) ∧
      (i.after = .nothing → ∀ d, ((start t).hctx d).graceAt = ((start s).hctx d).graceAt) ∧
      ∀ d, d ≠ c → ((start t).hctx d).stream = ((start s).hctx d).stream) ∧
  (∀ (s : State) (c : Nat) (i : StreamItem) (rest : List StreamItem) (r : RingRec), s.m.hs.up = true →
    s.m.fs.horn.held = false → s.m.fs.twin.state = .unpaired → ((start s).hctx c).stream = i :: rest → i.msg = .ring r →
    i.after = .nothing →
    ∃ t, exec (.ringRecordSend c) s = .next t ∧ Apart s t [cTxBeats i.port] [] []
        [{ port := i.port, slot := (start s).slotOn i.port, ctx := c, msg := i.msg }] ∧
      t.fabricIs s.m.fs ∧ Counted s t (cTxBeats i.port) (1 - (start s).slotOn i.port) ∧ ((start t).hctx c).stream = rest ∧
      ∀ d, d ≠ c → ((start t).hctx d).stream = ((start s).hctx d).stream) ∧
  ∀ (s : State) (c : Nat) (i : StreamItem) (rest : List StreamItem), s.m.fs.twin.state = .pairedA →
    ((start s).hctx c).stream = i :: rest → s.m.fs.twin.link.acked < i.need →
    ∃ t u, exec (.replyRelease c) s = .next t ∧ Apart s t [] [] ∧ t.fabricIs s.m.fs ∧ t.hostIs s.m.hs ∧
      exec (.ringRecordSend c) s = .next u ∧ Apart s u [] [] ∧ u.fabricIs s.m.fs ∧ u.hostIs s.m.hs

/-- R214, R215, R818 to R820, R882: the starts of a horn. While none stands, HORN, a rising edge on HORN_TRIG and a
marker on a link with LINK set each record every unit under a cut number, held or not, stop the counters under
AE2_FREEZE, and send markers on the pairing link and on every peer link that is up. While one stands, HORN waits for it,
an edge is counted and ignored, and a marker is taken and ignored. R214, R818, R825, R826: the ends. HORN_CUT_DONE
completes the cut window with the messages that were in flight and lets the HORN that waits be answered with the cut's
number; HORN_RELEASE ends the hold, and is BAD_STATE while none is held; HORN is BAD_STATE while one is. R48, R49, R68,
R70, R823: a held horn stops the units of the fabric side. What then reaches one (a request of an engine, a frame of a
link, an answer or an end that a unit waits for) stays at its input, in order of arrival, with no effect, and so does
what comes after the hold while something still waits there. What fits is in the entry FIFO of the port that it came in
by, which never holds more than its depth. (What of it is the model's own choice or reading: log entries 32, 33, 34 and
113.) -/
def Obligations.HornsRecordEveryUnitAndEnd : Prop :=
  ((∀ (s : State) (port : Nat) (p : Packet), Accepted s port opHorn p → s.m.fs.horn.recording = false →
      let n := (start s).nextCut
      let hold := decide (p.opf 192 192 = 1)
      ∃ t, exec (.horn port p) s = .next t ∧ Waiting s t port opHorn p (.cut n) ∧ Sounded s t n hold 0 ∧
        t.fabricIs { s.m.fs with horn := t.m.fs.horn, peer := t.m.fs.peer }) ∧
    (∀ (s : State) (port : Nat) (p : Packet), Accepted s port opHorn p → s.m.fs.horn.recording = true →
      ∃ t, exec (.horn port p) s = .next t ∧ Waiting s t port opHorn p (.cut s.m.fs.horn.cut) ∧ t.fabricIs s.m.fs ∧
        Apart s t [cRxBeats port, cStaleKey 0] [] [0]) ∧
    (∀ s : State, s.m.fs.boot.up = true → s.m.fs.boot.shutDone = false → (start s).hornStands = false →
      ∃ t, exec .hornTrig s = .next t ∧ t.hostIs s.m.hs ∧ Sounded s t (start s).nextCut (bit ((start s).reg rHornCfg) 0) 1 ∧
        t.fabricIs { s.m.fs with horn := t.m.fs.horn, peer := t.m.fs.peer }) ∧
    (∀ s : State, s.m.fs.boot.up = true → s.m.fs.boot.shutDone = false → (start s).hornStands = true →
      ∃ t, exec .hornTrig s = .next t ∧ Apart s t [cObuTrigIgnored] [] ∧ Counted s t cObuTrigIgnored 1 ∧ t.hostIs s.m.hs ∧
        t.fabricIs s.m.fs) ∧
    (∀ (s : State) (f : FrameIn) (n : Nat) (hold : Bool), Takes s → Arriving s f →
      bit ((start s).reg rHornCfg) 1 = true → s.m.fs.horn.recording = false →
      ∃ t, exec (.hornLinkMarker f n hold) s = .next t ∧ t.hostIs s.m.hs ∧ Sounded s t n hold 2 ∧ FrameTaken s t f ∧
        t.fabricIs { s.m.fs with horn := t.m.fs.horn, peer := t.m.fs.peer }) ∧
    ∀ (s : State) (f : FrameIn) (n : Nat) (hold : Bool), Takes s → Arriving s f →
      (bit ((start s).reg rHornCfg) 1 = false ∨ s.m.fs.horn.recording = true) →
      ∃ t, exec (.hornLinkMarker f n hold) s = .next t ∧ t.hostIs s.m.hs ∧ Apart s t [] [] ∧ FrameTaken s t f ∧
        t.fabricIs { s.m.fs with peer := t.m.fs.peer }) ∧
  ((∀ (s : State) (chans : List CutChan), s.m.fs.boot.up = true → s.m.fs.boot.shutDone = false → s.m.fs.horn.recording = true →
      (∀ x ∈ s.m.hs.ctxs, x.2.f2 = false) → ((start s).hctx 0).queue = [] → s.m.hs.up = true →
      (((start s).hctx 0).acting = none ∨ ∃ i, ((start s).hctx 0).acting = some (i, .cut s.m.fs.horn.cut)) →
      ∃ t, exec (.hornCutDone chans) s = .next t ∧ t.pending = s.pending ∧ t.clk = s.clk ∧ t.out.host = s.out.host ∧
        t.fabricIs { s.m.fs with horn := { s.m.fs.horn with recording := false } } ∧
        t.obs.cut = { s.obs.cut with
          done := true, doneAt := s.clk.fs.toNat, chans := chans.take 65536, chDropped := chans.length - 65536
          overflow := decide (65536 < chans.length) } ∧
        ((start t).hctx 0).acting = none ∧
        (((start s).hctx 0).acting = none → messages t 0 = messages s 0) ∧
        ∀ i, ((start s).hctx 0).acting = some (i, .cut s.m.fs.horn.cut) →
          ∃ r, messages t i.pkt.ctx.toNat = messages s i.pkt.ctx.toNat ++ [.reply r] ∧ r.status = stOk ∧
            r.result = s.m.fs.horn.cut) ∧
    (∀ (s : State) (port : Nat) (p : Packet),
      Accepted { s with m := { s.m with fs := { s.m.fs with horn := { s.m.fs.horn with held := false } } } }
        port opHornRelease p → s.m.fs.horn.held = true → (∀ x ∈ s.m.hs.ctxs, x.2.queue = []) →
      ∃ t, exec (.hornRelease port p) s = .next t ∧
        t.fabricIs { s.m.fs with horn := { s.m.fs.horn with held := false } } ∧ t.obs.cut = { s.obs.cut with held := false } ∧
        (messages t 0).getLast? = some (.reply (replyTo opHornRelease p {}))) ∧
    (∀ (s : State) (port : Nat) (p : Packet),
      Accepted { s with m := { s.m with fs := { s.m.fs with horn := { s.m.fs.horn with held := false } } } } port opHorn p →
      s.m.fs.horn.held = true →
      ∃ t, exec (.horn port p) s = .next t ∧ t.fabricIs s.m.fs ∧ Apart s t [cRxBeats port, cStaleKey 0] [] [0] ∧
        Answered s t port opHorn p (Ans.bad .hornState)) ∧
    ∀ (s : State) (port : Nat) (p : Packet), Accepted s port opHornRelease p →
      ∃ t, exec (.hornRelease port p) s = .next t ∧ t.fabricIs s.m.fs ∧ Apart s t [cRxBeats port, cStaleKey 0] [] [0] ∧
        Answered s t port opHornRelease p (Ans.bad .hornState)) ∧
  (∀ (s : State) (cmd : Instr), ((start s).halted = true ∨ s.stalled ≠ []) →
      (((start s).takesRequests = true ∧ ((∃ e a r, cmd = .routerPart e a r) ∨ (∃ e a r l, cmd = .sketchPart e a r l) ∨
          (∃ e a b, cmd = .draftList e a b) ∨ (∃ e a b, cmd = .ringBodyStore e a b) ∨ (∃ e a b, cmd = .energyReport e a b) ∨
          (∃ e a r, cmd = .keepList e a r) ∨ (∃ e a r, cmd = .completionDone e a r) ∨
          (∃ e a r, cmd = .completionYielded e a r) ∨ (∃ e a r, cmd = .completionAbort e a r) ∨
          (∃ e a x v, cmd = .reduction e a x v) ∨ (∃ e n a o, cmd = .atomicRequest e n a o))) ∨
        ((start s).fsTakes = true ∧ ((∃ f port op p, cmd = .twinCommandFrame f port op p) ∨
          (∃ f d, cmd = .twinDecisionFrame f d) ∨ (∃ f d, cmd = .twinBulkFrame f d) ∨
          (∃ f n a b x, cmd = .twinParkDataFrame f n a b x) ∨ (∃ f a b m, cmd = .peerMessageTransit f a b m) ∨
          (∃ f a b n o p x, cmd = .peerForward f a b n o p x) ∨ (∃ f a b n r, cmd = .peerAnswer f a b n r) ∨
          (∃ f a b n r, cmd = .peerRelay f a b n r) ∨ (∃ f a b m, cmd = .migDataFrame f a b m) ∨
          (∃ f a b m, cmd = .quotaMessage f a b m))) ∨
        ((start s).runs = true ∧ ((∃ p, cmd = .stepCommit p) ∨ (∃ p, cmd = .stepFail p) ∨ (∃ n, cmd = .appendGroup n) ∨
          (∃ p e, cmd = .planHeaderAcked p e) ∨ (∃ p e, cmd = .mailboxAcked p e) ∨ (∃ p n e, cmd = .routeReturnAcked p n e) ∨
          (∃ n i h b, cmd = .deepFetchData n i h b) ∨ (∃ n b, cmd = .parkCopyDone n b) ∨ (∃ n, cmd = .restoreDone n) ∨
          (∃ n b, cmd = .handleCopyDone n b) ∨ (∃ p h, cmd = .placementDone p h)))) →
      let t := { s with stalled := s.stalled ++ [{ cmd := cmd, at_ := s.clk.fs.toNat }] }
      exec cmd s = .next t ∧
      ∀ p : Port, s.entryFifo p <+: t.entryFifo p ∧
        sumOf ((t.entryFifo p).map fun c => match arrivalOf (start t) c with | some (_, n) => n | none => 0) ≤ p.entryDepth ∧
        ∀ n, arrivalOf (start s) cmd = some (p, n) →
          t.unitsAt p = s.unitsAt p + n ∧ (t.unitsAt p ≤ p.entryDepth → t.entryFifo p = s.entryFifo p ++ [cmd]))

/-- R231: how a sequence handle is resolved, by the rows of its table in their order. One that names another context's
sequence, or none ever issued, freezes the tenant's context with class 3 (NAMESPACE); one whose slot has been issued
again is NOT_LIVE, and so is one never issued, for the steward. -/
def Obligations.SequenceHandlesAreResolved : Prop :=
  (∀ (w : Work) (c h : Nat),
    let e := w.entry (handleSlot h)
    let ahead := (handleGen h + 2 ^ 14 - e.gen) % 2 ^ 14
    let never := w.idn.slots ≤ handleSlot h ∨ e.fl.issued = false ∨ (1 ≤ ahead ∧ ahead ≤ 8191)
    (never → w.resolve c h = .neverIssued) ∧
    (¬ never → handleGen h ≠ e.gen → w.resolve c h = .reissued) ∧
    (¬ never → handleGen h = e.gen → e.ctx ≠ c → c ≠ 0 → w.resolve c h = .foreign) ∧
    (¬ never → handleGen h = e.gen → (e.ctx = c ∨ c = 0) → w.resolve c h = .entry (handleSlot h))) ∧
  (∀ (s : State) (port : Nat) (p : Packet), Accepted s port opQuery p → p.ctx.toNat = 0 →
    ((start s).resolve 0 (Work.handleOf p) = .neverIssued ∨ (start s).resolve 0 (Work.handleOf p) = .reissued) →
    ∃ t, exec (.query port p) s = .next t ∧ t.fabricIs s.m.fs ∧ Answered s t port opQuery p (Ans.refuse stNotLive)) ∧
  ∀ (s : State) (port op : Nat) (p : Packet) (cmd : Instr),
    (op, cmd) ∈ [(opAppend, Instr.append port p), (opCancel, .cancel port p), (opPause, .pause port p),
      (opResume, .resume port p), (opCredit, .credit port p), (opQuery, .query port p)] →
    Accepted s port op p → p.ctx.toNat ≠ 0 →
    let r := (start s).resolve p.ctx.toNat (Work.handleOf p)
    (r = .neverIssued ∨ r = .foreign → ∃ t, exec cmd s = .next t ∧ t.fabricIs s.m.fs ∧ Frozen s t port op p 0x03) ∧
    (r = .reissued → ∃ t, exec cmd s = .next t ∧ t.fabricIs s.m.fs ∧ Answered s t port op p (Ans.refuse stNotLive))

/-- R166, R167, R239, R245 to R252: SUBMIT. A request that fails a test of its admission is answered with that test's
status and leaves nothing; one that passes takes N slots and writes an entry in each, QUEUED, with its deadline, and its
answer names the first. (Here the slots have never been issued and none has been retired; a SUBMIT that another member
homes is forwarded, which ForwardedAdmissions says.) (What of it is the model's own choice or reading: log entries 44,
48, 93, 127, 128 and 129.) -/
def Obligations.SubmitsAreDecided : Prop :=
  ∀ (s : State) (port : Nat) (p : Packet), Accepted s port opSubmit p →
    let c := p.ctx.toNat
    let r := ((start s).requestOf port none p (submitFields p).budget).2.1
    let test := (start s).admissionTests r
    ¬ ((submitFields p).form = 1 ∧ prefixOwner p.handle.toNat ≠ 0 ∧ prefixOwner p.handle.toNat ≠ c) →
    (start s).groupEn = false →
    (∀ a, test = .error a → ∃ t, exec (.submit port p []) s = .next t ∧ Answered s t port opSubmit p a ∧
      Apart s t [cRxBeats port, cStaleKey c, cClamp c, cTokenFiltered c] [] [c] ∧ t.fabricIs { s.m.fs with
        memPorts := (if r.f.form = 1 then (start s).queueHandle r.handle 2 (prefixOwner r.handle) else start s).fs.memPorts }) ∧
    (∀ ch, test = .ok ch → s.m.fs.retired = [] → s.m.fs.freshSlot + ch.req.f.n ≤ s.idn.slots →
      let f0 := s.m.fs.freshSlot
      let n := ch.req.f.n
      let h := f0 + (start s).nextGen f0 * 2 ^ 18
      ∃ t a, exec (.submit port p []) s = .next t ∧ Answered s t port opSubmit p a ∧ a.status = stOk ∧ a.obj = h ∧
        a.result = pack [(0, 8, n), (8, 1, b01 ch.fb), (32, 32, Nat.min (2 ^ 32 - 1) ch.pred)] ∧
        t.m.fs.freshSlot = f0 + n ∧ ((start t).fctx c).seqs = ((start s).fctx c).seqs + n ∧
        (∀ k, k < n →
          let e' := (start t).entry (f0 + k)
          e'.st = .queued ∧ e'.gen = (start s).nextGen (f0 + k) ∧ e'.ctx = c ∧ e'.n = n ∧ e'.fork = k ∧ e'.model = ch.model ∧
          e'.kind = Work.kindOf ch.req.f ∧ e'.reqHandle = h ∧ e'.promptLen = (start s).reqPositions ch.req ∧
          e'.admitAt = s.clk.fs.toNat ∧ e'.deadline = s.clk.fs.toNat + (start s).edges ch.req.rem ∧ e'.par = ch.req.f.par ∧
          ((start t).seq (f0 + k)).assigned = some ch.pool ∧ ((start t).seq (f0 + k)).items = ch.req.items) ∧
        (∀ k, k < f0 ∨ f0 + n ≤ k → (start t).entry k = (start s).entry k ∧ (start t).seq k = (start s).seq k) ∧
        t.fabricIs { s.m.fs with
          freshSlot := f0 + n, rqt := t.m.fs.rqt, seqs := t.m.fs.seqs, ctxs := t.m.fs.ctxs, masks := t.m.fs.masks
          park := t.m.fs.park, memPorts := t.m.fs.memPorts })

/-- R174 to R177, R233, R263: CANCEL ends each live sequence that it names, CANCELLED, its FINAL before the reply; what
has ended already is TOO_LATE. R174, R178, R182, R258, R538, R610: PAUSE marks a running sequence to be parked at its
pool's next commit, with its clamped TTL; CREDIT gives its ring credits, up to the ring's depth less one. Each refuses a
sequence that it does not apply to. (What of it is the model's own choice or reading: log entries 51 and 131.) -/
def Obligations.SequencesEndPauseAndTakeCredits : Prop :=
  ((∀ (s : State) (port : Nat) (p : Packet) (slot : Nat), Accepted s port opCancel p →
      let c := p.ctx.toNat
      (start s).resolve c (Work.handleOf p) = .entry slot → p.opf 192 192 = 0 → ((start s).entry slot).st.live = true →
      ((start s).seq slot).home = none →
      ∃ t, exec (.cancel port p) s = .next t ∧ Ended s t slot 2 ∧
        messages t c = messages s c ++
          [.ring (finalOf s slot 2 0), .reply (replyTo opCancel p { result := 1 })]) ∧
    (∀ (s : State) (port : Nat) (p : Packet) (slot : Nat), Accepted s port opCancel p →
      let c := p.ctx.toNat
      (start s).resolve c (Work.handleOf p) = .entry slot → p.opf 192 192 = 0 → ((start s).entry slot).st.live = false →
      ∃ t, exec (.cancel port p) s = .next t ∧ Apart s t [cRxBeats port, cStaleKey c] [] [c] ∧ t.fabricIs s.m.fs ∧
        Answered s t port opCancel p { status := stTooLate, result := 2 ^ 16 }) ∧
    ∀ (s : State) (port : Nat) (p : Packet) (slot : Nat), Accepted s port opCancel p →
      let c := p.ctx.toNat
      let l := (start s).requestSlots slot
      (start s).resolve c (Work.handleOf p) = .entry slot → p.opf 192 192 = 1 →
      ∃ t r, exec (.cancel port p) s = .next t ∧ (messages t c).getLast? = some (.reply r) ∧ r.opcode = opCancel ∧
        r.status = (if l.any (fun k => ((start s).entry k).st.live) then stOk else stTooLate) ∧
        (∀ k ∈ l, ((start t).entry k).st.live = false) ∧ ∀ k, k ∉ l → (start t).entry k = (start s).entry k) ∧
  ((∀ (s : State) (port : Nat) (p : Packet) (slot : Nat), Accepted s port opPause p →
      let c := p.ctx.toNat
      let e := (start s).entry slot
      (start s).resolve c (Work.handleOf p) = .entry slot → p.opf 192 192 = 0 →
      ∃ t a, exec (.pause port p) s = .next t ∧ Apart s t [cRxBeats port, cStaleKey c, cClamp c] [] [c] ∧
        Answered s t port opPause p a ∧
        ((e.st = .prefilling ∨ e.st = .decoding) → a = { result := 1 } ∧
          t.fabricIs { s.m.fs with
            rqt := s.m.fs.rqt.set slot { e with fl := { e.fl with pausePending := true } }
            seqs := s.m.fs.seqs.set slot { (start s).seq slot with
              pauseTtl := (clampTtl ((start s).fctx c).tenant (p.opf 231 200)).1 } }) ∧
        (e.st.live = false → a = Ans.refuse stNotLive ∧ t.fabricIs s.m.fs) ∧
        ((e.st = .queued ∨ e.st = .parked) → a = Ans.bad .notRunning ∧ t.fabricIs s.m.fs)) ∧
    ∀ (s : State) (port : Nat) (p : Packet) (slot : Nat), Accepted s port opCredit p →
      let c := p.ctx.toNat
      let e := (start s).entry slot
      let x := (start s).seq slot
      (start s).resolve c (Work.handleOf p) = .entry slot →
      ∃ t a, exec (.credit port p) s = .next t ∧ Apart s t [cRxBeats port, cStaleKey c, cClamp c] [] [] ∧
        Answered s t port opCredit p a ∧ t.fabricIs { s.m.fs with seqs := t.m.fs.seqs } ∧
        (∀ k, k ≠ slot → (start t).seq k = (start s).seq k) ∧
        (e.st.live = false → a = Ans.refuse stNotLive ∧ (start t).seq slot = x) ∧
        (e.st.live = true → a = {} ∧
          ((start t).seq slot).credits = x.credits + Nat.min (p.opf 198 192) (e.par.ringDepth - 1 - x.credits)))

/-- R172, R173, R180, R262: APPEND adds prompt items to a request that awaits them, at the position that it names;
RESUME of a parked sequence queues it again with its new tokens, its new budget and its new pool, awaiting what it still
awaits. Here the request has one sequence. (What of it is the model's own choice or reading: log entries 49, 95, 96, 102
and 130.) -/
def Obligations.PromptsGrow : Prop :=
  (∀ (s : State) (port : Nat) (p : Packet) (slot : Nat), Accepted s port opAppend p →
    let c := p.ctx.toNat
    let e := (start s).entry slot
    let x := (start s).seq slot
    let form := if e.promptForm = 2 ∧ x.resuming = false then 2 else 0
    let items := ((start s).filterTokens c e.model (promptItems form (p.opf 207 192) p.body)).1
    let last := decide (p.opf 208 208 = 1)
    let total := e.promptLen + itemsPositions items
    (start s).resolve c (Work.handleOf p) = .entry slot → e.st.live = true → e.fl.awaitAppend = true →
    (start s).slotsWhere (fun _ y => decide (y.reqHandle = e.reqHandle) && y.st.live) = [slot] →
    itemsFit p.body.length 0 (p.opf 207 192) (if form = 2 then 16 else 4) = true →
    embedItemsOk (embedPoolOf (x.items ++ items)) items = true →
    ∃ t a, exec (.append port p) s = .next t ∧ Answered s t port opAppend p a ∧
      (p.opf 236 216 ≠ e.promptLen → a = Ans.bad .position ∧ t.fabricIs s.m.fs) ∧
      (p.opf 236 216 = e.promptLen → total < 1048576 → (last = true → 2 ≤ total) →
        a = { result := total } ∧ ((start t).entry slot).promptLen = total ∧
        ((start t).entry slot).fl = { e.fl with awaitAppend := !last } ∧ ((start t).entry slot).st = e.st ∧
        (x.tokens = [] → ((start t).seq slot).items = x.items ++ items) ∧
        (∀ k, k ≠ slot → (start t).entry k = (start s).entry k) ∧
        t.fabricIs { s.m.fs with
          rqt := t.m.fs.rqt, seqs := t.m.fs.seqs, ctxs := t.m.fs.ctxs, park := t.m.fs.park
          memPorts := t.m.fs.memPorts })) ∧
  (∀ (s : State) (port : Nat) (p : Packet) (slot : Nat) (r : Work.ResumeReq) (q : Nat), Accepted s port opResume p →
    let c := p.ctx.toNat
    let e := (start s).entry slot
    let ten := ((start s).fctx c).tenant
    let total := e.length + itemsPositions r.tokens
    (start s).resolve c (Work.handleOf p) = .entry slot → p.opf 192 192 = 0 → e.st = .parked → e.fl.displaced = false →
    r.tokens = ((start s).filterTokens c e.model (promptItems 0 (p.opf 215 200) p.body)).1 →
    r.rem = (clampBudget ten (p.opf 247 216)).1 → r.more = decide (p.opf 193 193 = 1) →
    r.maxTokens = (if e.kind = .generate then clampTo 1 (Nat.max 1 (1048576 - total)) (p.opf 268 248) else p.opf 268 248) →
    (start s).resumePool slot r = .ok q →
    ∃ t, exec (.resume port p) s = .next t ∧ Answered s t port opResume p {} ∧
      ((start t).entry slot).st = .queued ∧ ((start t).entry slot).promptLen = total ∧
      ((start t).entry slot).deadline = s.clk.fs.toNat + (start s).edges r.rem ∧
      ((start t).entry slot).fl = { e.fl with awaitAppend := e.fl.awaitAppend || r.more } ∧
      ∀ k, k ≠ slot → (start t).entry k = (start s).entry k) ∧
  ∀ (s : State) (port : Nat) (p : Packet) (slot : Nat) (a : Ans), Accepted s port opResume p →
    let c := p.ctx.toNat
    (start s).resolve c (Work.handleOf p) = .entry slot → p.opf 192 192 = 0 → (start s).resumeState slot = some a →
    ∃ t, exec (.resume port p) s = .next t ∧ Answered s t port opResume p a ∧ t.fabricIs s.m.fs

/-- R235, R497, R498, R544, R545, R574, R575: the deadline timer ends a live sequence DEADLINE_MISSED, with its FINAL;
the stall timer has a running sequence parked at its pool's next commit; a mask partition's request takes effect once it
holds no image. Before their time they do nothing. (What of it is the model's own choice or reading: log entry 7.) -/
def Obligations.TimersFire : Prop :=
  (∀ (s : State) (slot : Nat), Decides s → s.m.hs.up = true → ((start s).seq slot).home = none →
    let e := (start s).entry slot
    e.st.live = true → e.deadline ≠ 0 → (start s).reached ((start s).seq slot).deadlineFrom e.deadline = true →
    ∃ t, exec (.deadlineExpiry slot) s = .next t ∧ Ended s t slot 6 ∧ t.pending = s.pending ∧
      Counted s t (cDlmMiss e.ctx) 1 ∧ messages t e.ctx = messages s e.ctx ++ [.ring (finalOf s slot 6 0)]) ∧
  (∀ (s : State) (slot : Nat), Decides s →
    let e := (start s).entry slot
    (e.st.live = false ∨ e.deadline = 0 ∨ (start s).reached ((start s).seq slot).deadlineFrom e.deadline = false) →
    ∃ t, exec (.deadlineExpiry slot) s = .next t ∧ Apart s t [] [] ∧ t.hostIs s.m.hs ∧ t.fabricIs s.m.fs) ∧
  (∀ (s : State) (slot at_ : Nat), Decides s →
    let e := (start s).entry slot
    let x := (start s).seq slot
    (e.st = .prefilling ∨ e.st = .decoding) → x.stallAt = some at_ →
    ((start s).fired at_ ((start s).reg rRingCfg) = true →
      ∃ t, exec (.stallExpiry slot) s = .next t ∧ Apart s t [cStuStallPark] [] ∧ Counted s t cStuStallPark 1 ∧
        t.hostIs s.m.hs ∧
        t.fabricIs { s.m.fs with seqs := s.m.fs.seqs.set slot { x with stallAt := none, stallWon := true } }) ∧
    ((start s).fired at_ ((start s).reg rRingCfg) = false →
      ∃ t, exec (.stallExpiry slot) s = .next t ∧ Apart s t [] [] ∧ t.hostIs s.m.hs ∧ t.fabricIs s.m.fs)) ∧
  ∀ (s : State) (i : Nat), Decides s → i < 16 → ((start s).maskPart i).pending = true →
    let cfg := (start s).raw (maskPartBase i)
    let blocks := Nat.min ((start s).raw (maskPartBase i + 4)) (768 - (start s).blocksElsewhere i)
    ((start s).partImages i = [] →
      ∃ t, exec (.maskPartitionApply i) s = .next t ∧ Apart s t [cClamp 0] [] ∧ t.hostIs s.m.hs ∧
        (start t).raw (maskPartBase i + 4) = blocks ∧
        (∀ n, n ≠ maskPartBase i + 4 → t.m.fs.cfg.get? n = s.m.fs.cfg.get? n) ∧
        t.fabricIs { s.m.fs with
          cfg := t.m.fs.cfg
          masks := { s.m.fs.masks with parts := s.m.fs.masks.parts.set i {
            firstId := fld cfg 11 0, idCount := fld cfg 24 12, blocks := blocks } } }) ∧
    ((start s).partImages i ≠ [] →
      ∃ t, exec (.maskPartitionApply i) s = .next t ∧ Apart s t [] [] ∧ t.hostIs s.m.hs ∧ t.fabricIs s.m.fs)

/-- R290, R295, R339, R343, R359, R368: COMPOSE_PLAN. Whatever it composes is the pool's next plan: one step beyond the
last one stored or delivered, of the pool's epoch, over the pool's running engines, with at least one entry; the steps
in progress stay as they are. A sequence that decodes alone on its pool, with its pages in hand, has exactly its decode
entry in the plan, with its draft, from its last position on. (What of it is the model's own choice or reading: log
entries 58, 59, 103, 109 and 144.) -/
def Obligations.PlansAreComposed : Prop :=
  (∀ (s : State) (p : Nat) (q : Pool), Issues s → Settled s → KeepsEngines s p → s.m.fs.pools.get? p = some q →
    q.next = none →
    ∃ t q', exec (.composePlan p []) s = .next t ∧ t.pending = s.pending ∧ t.clk = s.clk ∧ t.m.fs.pools.get? p = some q' ∧
      q'.exec = q.exec ∧ q'.held = q.held ∧ q'.interp = q.interp ∧ q'.yield = q.yield ∧ q'.step = q.step ∧
      q'.stepNo = q.stepNo ∧ q'.epoch = q.epoch ∧ (q'.next = none ∨ ∃ pl, q'.next = some pl ∧
        pl.step = Nat.max q.stepNo q.step + 1 ∧ pl.epoch = q.epoch ∧ pl.pool = p ∧ pl.interposed = false ∧
        pl.entries ≠ [] ∧ pl.engines = ((start s).liveEngines p).map (·.1))) ∧
  (∀ (s : State) (p : Nat) (q : Pool) (pl : Plan), Issues s → Settled s → KeepsEngines s p →
    s.m.fs.pools.get? p = some q → q.next = some pl →
    ∃ t, exec (.composePlan p []) s = .next t ∧ Apart s t [] [] ∧ t.hostIs s.m.hs ∧ t.fabricIs s.m.fs) ∧
  ∀ (s : State) (p slot : Nat) (q : Pool) (e : RqtEntry) (x : Seq), Issues s → Settled s → KeepsEngines s p →
    s.m.fs.pools.get? p = some q → q.next = none → q.exec = none → q.held = none → q.degraded = false →
    (start s).degradedNow p q = false → fld ((start s).reg (rPoolEnv p)) 15 14 = 0 → s.m.fs.segs = [] →
    s.m.fs.rqt = [(slot, e)] → s.m.fs.seqs = [(slot, x)] → e.st = .decoding → e.fl.bound = true → e.pool = p →
    e.fl.pausePending = false → e.fl.awaitAppend = false → e.kind = .generate → 0 < e.emitted → e.promptLen ≤ e.length →
    x = { x with joined := true, stallWon := false, marked := false, unbind := false, moved := false, left := [], follows := none
                 park := none } → x.kv + 1 = e.length →
    let w := start s
    let modes := w.modesNow
    let d := w.draftOf ((modes.find? (·.model = e.model)).getD { model := e.model, sample := 0, draft := 0, route := 0 }) slot
    let n := Nat.max q.stepNo q.step + 1
    ceilDiv (e.length + d) (w.pagePos e.model) ≤ w.listLen slot →
    w.fits { w.emptyPlan p q n with entries := [w.mkEntry slot (e.length - 1) (1 + d) d .decode] } = true →
    ∃ t pl, exec (.composePlan p []) s = .next t ∧ Apart s t [] [] ∧ t.hostIs s.m.hs ∧
      PoolIs s t p { q with next := some pl, composedEmpty := false, trimDue := true } ∧
      t.fabricIs { s.m.fs with pools := t.m.fs.pools } ∧
      pl.step = n ∧ pl.epoch = q.epoch ∧ pl.pool = p ∧
      pl.entries.map (fun y => (y.slot, y.seq, y.pos, y.npos, y.draft, y.etype)) =
        [(slot, seqHandle slot e, e.length - 1, 1 + d, d, .decode)]

/-- R37, R291, R341, R679: PLAN_DELIVER stores the composed plan to its running engines, the header last, and it becomes
the executing step; each acknowledgement of the header that comes in time is noted with its time, the last one makes the
plan delivered, and the sequences that it names enter their states; TRIM is done once. (What of it is the model's own
choice or reading: log entries 17, 57, 136 and 141.) -/
def Obligations.PlansAreDelivered : Prop :=
  (∀ (s : State) (p : Nat) (q : Pool) (pl : Plan), Issues s → s.m.fs.pools.get? p = some q → q.exec = none → q.held = none →
    q.interp = none → q.next = some pl → q.degraded = false → q.trimDue = false → q.paceUntil = none →
    pl.envMode ≠ 2 → pl.interposed = false →
    let es := pl.entries.filterMap (start s).fixEntry
    let engines := pl.engines.filter fun e => match s.m.fs.engines.get? e with | some g => !g.frozen | none => false
    es ≠ [] → engines ≠ [] →
    ∃ t q' st, exec (.planDeliver p) s = .next t ∧ t.pending = s.pending ∧ t.clk = s.clk ∧ t.hostIs s.m.hs ∧
      t.m.fs.pools.get? p = some q' ∧ q'.exec = some st ∧ q'.next = none ∧ q'.held = none ∧ q'.outcomes = [] ∧
      q'.stepNo = Nat.max q.stepNo pl.step ∧ q'.step = q.step ∧ q'.named = es.map (·.seq) ∧
      st.deliveredAt = none ∧ st.acked = [] ∧ st.done = [] ∧ st.failed = none ∧ st.plan.step = pl.step ∧
      st.plan.epoch = pl.epoch ∧ st.plan.engines = engines ∧
      st.plan.entries = es.map (fun pe => { pe with plLen := (start s).listLen pe.slot }) ∧
      (bit ((start s).reg rFabCfg) 16 = false → s.m.fs.twin.state ≠ .pairedA → ∀ e g, e ∈ engines →
        s.m.fs.engines.get? e = some g →
        .store e (Work.bufferAddr st.plan g.desc) (planHeader st.plan) ∈ t.out.fabric)) ∧
  (∀ (s : State) (p : Nat) (q : Pool), Issues s → s.m.fs.pools.get? p = some q →
    (q.exec ≠ none ∨ q.held ≠ none ∨ q.degraded = true ∨ (q.interp = none ∧ (q.next = none ∨ q.trimDue = true))) →
    ∃ t, exec (.planDeliver p) s = .next t ∧ Apart s t [] [] ∧ t.hostIs s.m.hs ∧ t.fabricIs s.m.fs) ∧
  (∀ (s : State) (p e : Nat) (q : Pool) (st : Step), Decides s → s.m.fs.pools.get? p = some q → q.exec = some st →
    st.failed = none → st.plan.engines.contains e = true → st.acked.get? e = none → AckInTime s e .plan → st.allDone = false →
    let acked := st.acked.set e s.clk.fs.toNat
    ((∃ x ∈ st.plan.engines, x ≠ e ∧ st.acked.get? x = none) →
      ∃ t, exec (.planHeaderAcked p e) s = .next t ∧ Apart s t (portOf s e) [] ∧ t.hostIs s.m.hs ∧
        PoolIs s t p { q with exec := some { st with acked := acked } } ∧
        t.fabricIs { s.m.fs with pools := t.m.fs.pools, engines := ackedEngines s e .plan }) ∧
    ((∀ x ∈ st.plan.engines, x = e ∨ st.acked.get? x ≠ none) →
      ∃ t, exec (.planHeaderAcked p e) s = .next t ∧ t.hostIs s.m.hs ∧ t.pending = s.pending ∧
        PoolIs s t p { q with
          exec := some { st with acked := acked, deliveredAt := some s.clk.fs.toNat }
          step := Nat.max q.step st.plan.step
          lastDur := if st.plan.interposed then q.lastDur else some st.plan.period
          returned := if st.plan.interposed then q.returned else q.returned ++ q.lateReturn
          lateReturn := if st.plan.interposed then q.lateReturn else [] } ∧
        Counted s t (cPlans p) 1 ∧
        (∀ x g, (ackedEngines s e .plan).get? x = some g → t.m.fs.engines.get? x =
          some { g with fresh := g.fresh && !(!st.plan.interposed && st.plan.engines.contains x) }) ∧
        t.fabricIs { s.m.fs with
          pools := t.m.fs.pools, engines := t.m.fs.engines, rqt := t.m.fs.rqt, seqs := t.m.fs.seqs } ∧
        (∀ pe y, st.plan.entries = [pe] → (start s).entry pe.slot = y → seqHandle pe.slot y = pe.seq → y.st = .queued →
          ((start s).seq pe.slot).unbind = false → (pe.etype = .decode ∨ y.n ≤ 1) →
          (start t).entry pe.slot = { y with
            st := if pe.etype = .decode then .decoding else .prefilling, pool := p
            fl := { y.fl with bound := true, displaced := false } }))) ∧
  ∀ (s : State) (p : Nat) (q : Pool), Decides s → s.m.fs.pools.get? p = some q →
    (q.trimDue = true → ∃ t q', exec (.trim p) s = .next t ∧ t.hostIs s.m.hs ∧ t.pending = s.pending ∧
      t.m.fs.pools.get? p = some q' ∧ q'.trimDue = false ∧ q'.exec = q.exec ∧ q'.next = q.next ∧
      (∃ back, q'.returned = q.returned ++ back) ∧
      t.fabricIs { s.m.fs with pools := t.m.fs.pools, seqs := t.m.fs.seqs }) ∧
    (q.trimDue = false → ∃ t, exec (.trim p) s = .next t ∧ Apart s t [] [] ∧ t.hostIs s.m.hs ∧ t.fabricIs s.m.fs)

/-- R332, R333, R371 to R377: yields. A plan is interposed only into a delivered step of a shared pool whose next plan
is composed, with the step's own number and engines, and YIELD is then asked of each of them; where a joiner of R371
waits and R372's plan has an entry and keeps the deadlines of R373, it is interposed; the YIELD timer runs from the last
acknowledgement; a yield whose time has passed has failed; the last acknowledgement of RESUME sets the step going. (What
of it is the model's own choice or reading: log entries 61, 104 and 142.) -/
def Obligations.StepsYieldAndResume : Prop :=
  (∀ (s : State) (p : Nat) (q : Pool) (st : Step), Issues s → s.m.fs.pools.get? p = some q → q.exec = some st →
    q.interp = none → q.yield = .none →
    ∃ t q' st', exec (.interposeCompose p) s = .next t ∧ t.pending = s.pending ∧ t.clk = s.clk ∧
      t.m.fs.pools.get? p = some q' ∧ q'.exec = some st' ∧ st'.plan = st.plan ∧ st'.done = st.done ∧ q'.next = q.next ∧
      q'.held = q.held ∧ q'.step = q.step ∧
      ((q'.interp = none ∧ q'.yield = .none) ∨ ∃ pl, q'.interp = some pl ∧ pl.interposed = true ∧
        pl.step = st.plan.step ∧ pl.engines = st.plan.engines ∧ pl.entries ≠ [] ∧ q'.yield = .asked st.plan.engines ∧
        st'.interposedOnce = true ∧ q.typ = 2 ∧ st.deliveredAt ≠ none ∧
        ∀ e ∈ st.plan.engines, ∀ g, t.m.fs.engines.get? e = some g → g.mboxStep = st.plan.step ∧ g.mboxCmd = 1)) ∧
  (∀ (s : State) (p : Nat) (q : Pool) (st : Step) (nx : Plan) (v : Work) (pl : Plan), Issues s →
    s.m.fs.pools.get? p = some q → q.exec = some st → q.next = some nx → (start s).mayInterpose p q st = true →
    (start s).interposable p ≠ [] → ((start s).phase1 p).refollow.interposition p q st nx = some (v, pl) →
    ∃ t q', exec (.interposeCompose p) s = .next t ∧ t.pending = s.pending ∧ t.clk = s.clk ∧
      t.m.fs.pools.get? p = some q' ∧ q'.interp = some pl ∧ q'.yield = .asked st.plan.engines ∧
      q'.exec = some { st with interposedOnce := true } ∧ q'.next = some nx ∧ pl.interposed = true ∧
      pl.step = st.plan.step ∧ pl.engines = st.plan.engines ∧ pl.entries ≠ [] ∧
      ∀ e ∈ st.plan.engines, ∀ g, s.m.fs.engines.get? e = some g →
        ∃ g', t.m.fs.engines.get? e = some g' ∧ g'.mboxStep = st.plan.step ∧ g'.mboxCmd = 1) ∧
  (∀ (s : State) (p : Nat) (q : Pool), Issues s → s.m.fs.pools.get? p = some q →
    (q.exec = none ∨ q.next = none ∨ q.typ ≠ 2 ∨ fld ((start s).reg (rSched p)) 2 2 = 0 ∨ q.held ≠ none ∨ q.interp ≠ none) →
    ∃ t, exec (.interposeCompose p) s = .next t ∧ Apart s t [] [] ∧ t.hostIs s.m.hs ∧ t.fabricIs s.m.fs) ∧
  (∀ (s : State) (p e : Nat) (q : Pool) (l : List Nat), Decides s → s.m.fs.pools.get? p = some q →
    AckInTime s e .mailbox →
    (q.yield = .asked l → ∃ t, exec (.mailboxAcked p e) s = .next t ∧ Apart s t (portOf s e) [] ∧ t.hostIs s.m.hs ∧
      PoolIs s t p { q with
        yield := if l.all (· = e) then .timing s.clk.fs.toNat else .asked (l.filter (· ≠ e)) } ∧
      t.fabricIs { s.m.fs with pools := t.m.fs.pools, engines := ackedEngines s e .mailbox }) ∧
    (q.yield = .resuming l → (∃ x ∈ l, x ≠ e) →
      ∃ t, exec (.mailboxAcked p e) s = .next t ∧ Apart s t (portOf s e) [] ∧ t.hostIs s.m.hs ∧
        PoolIs s t p { q with yield := .resuming (l.filter (· ≠ e)) } ∧
        t.fabricIs { s.m.fs with pools := t.m.fs.pools, engines := ackedEngines s e .mailbox }) ∧
    (∀ st h, q.yield = .resuming l → (∀ x ∈ l, x = e) → q.exec = some st → st.heldAt = some h →
      ∃ t st', exec (.mailboxAcked p e) s = .next t ∧ Apart s t (portOf s e) [] ∧ t.hostIs s.m.hs ∧
        PoolIs s t p { q with yield := .none, exec := some st' } ∧
        st' = { st with heldFor := st.heldFor + (s.clk.fs.toNat - h), heldAt := none, yielded := [], acked := st'.acked } ∧
        (∀ x ∈ st.plan.engines, st'.acked.get? x = some s.clk.fs.toNat) ∧
        t.fabricIs { s.m.fs with pools := t.m.fs.pools, engines := ackedEngines s e .mailbox })) ∧
  ∀ (s : State) (p at_ : Nat) (q : Pool) (st : Step), Decides s → s.m.fs.pools.get? p = some q → q.yield = .timing at_ →
    q.exec = some st →
    let limit := maxOf (st.plan.engines.map fun e => match s.m.fs.engines.get? e with | some g => g.desc.tileTime | none => 0)
    ((start s).fired at_ limit = true →
      ∃ t q', exec (.yieldTimeout p) s = .next t ∧ Counted s t (cYieldTimeout p) 1 ∧ t.hostIs s.m.hs ∧
        t.m.fs.pools.get? p = some q' ∧ q'.yield = .failed ∧ q'.interp = q.interp ∧ q'.next = q.next ∧
        (∃ st', q'.exec = some st' ∧ st'.plan = st.plan ∧ st'.done = st.done ∧ st'.yielded = []) ∧
        t.fabricIs { s.m.fs with pools := t.m.fs.pools, engines := t.m.fs.engines }) ∧
    ((start s).fired at_ limit = false →
      ∃ t, exec (.yieldTimeout p) s = .next t ∧ Apart s t [] [] ∧ t.hostIs s.m.hs ∧ t.fabricIs s.m.fs)

/-- R36, R41, R88, R89, R142, R371 to R379, R675 to R679: completion records. DONE and YIELDED are entered for the step
that they name, a second DONE is counted, a record of an earlier epoch is counted as stale, and an ABORT, or a
completion timer that fires, freezes the engine; a DONE that comes after its timer has fired finds the engine frozen,
and is discarded and counted. Here another engine of the plan has still to complete, so that nothing is sampled yet.
(What of it is the model's own choice or reading: log entry 67.) -/
def Obligations.CompletionsAreTaken : Prop :=
  (∀ (s : State) (e addr : Nat) (g : Engine) (q : Pool) (st : Step) (r : Completion),
    RecordArrives s e addr g q ringCompletion → Settled s → q.exec = some st → st.failed = none →
    r.ckind ≠ 3 → r.pool = g.pool → r.engine = e → q.epoch ≤ r.epoch → r.step = st.plan.step →
    r.interposed = st.plan.interposed → st.plan.engines.contains e = true →
    (∃ x ∈ st.plan.engines, x ≠ e ∧ st.done.contains x = false) →
    (start s).overdue ((start s).completionTimer e) = false → (start s).overdue ((start s).yieldTimer g.pool) = false →
    let g' := tookRecord g ringCompletion 1
    (st.done.contains e = false → (Work.yieldPending q = false ∨ r.interposed = true) →
      ∃ t, exec (.completionDone e addr r) s = .next t ∧ Apart s t (portOf s e) [] ∧ t.hostIs s.m.hs ∧
        RecordTaken s t e g ringCompletion 1 ∧ PoolIs s t g.pool { q with exec := some { st with done := st.done ++ [e] } } ∧
        t.fabricIs { s.m.fs with engines := t.m.fs.engines, pools := t.m.fs.pools }) ∧
    (st.done.contains e = true →
      ∃ t, exec (.completionDone e addr r) s = .next t ∧ Apart s t (portOf s e ++ [cComplDup]) [] ∧
        Counted s t cComplDup 1 ∧ t.hostIs s.m.hs ∧ RecordTaken s t e g ringCompletion 1 ∧
        t.fabricIs { s.m.fs with engines := t.m.fs.engines }) ∧
    (st.done.contains e = false → st.yielded.contains e = false → Work.yieldPending q = true → r.interposed = false →
      (∃ x ∈ st.plan.engines, x ≠ e ∧ st.yielded.contains x = false) →
      ∃ t, exec (.completionYielded e addr r) s = .next t ∧ Apart s t (portOf s e) [] ∧ t.hostIs s.m.hs ∧
        RecordTaken s t e g ringCompletion 1 ∧
        PoolIs s t g.pool { q with exec := some { st with yielded := st.yielded ++ [e] } } ∧
        t.fabricIs { s.m.fs with engines := t.m.fs.engines, pools := t.m.fs.pools }) ∧
    (s.m.hs.up = true → st.decided = false →
      ∃ t, exec (.completionAbort e addr r) s = .next t ∧ EngineFrozen s t e g' q 0x02 0 2 ∧ t.pending = s.pending ∧
        t.fabricIs { s.m.fs with
          engines := t.m.fs.engines, pools := t.m.fs.pools, fault := t.m.fs.fault, units := t.m.fs.units })) ∧
  (∀ (s : State) (e addr : Nat) (g : Engine) (q : Pool) (r : Completion),
    RecordArrives s e addr g q ringCompletion → Settled s → s.m.hs.up = true →
    (start s).overdue ((start s).completionTimer e) = true →
    ∃ t, exec (.completionDone e addr r) s = .next t ∧ EngineFrozen s t e (tookRecord g ringCompletion 1) q 0x01 0 1 ∧
      Counted s t (cIgnoredWrites e) 1 ∧ t.pending = s.pending ∧ t.fabricIs { s.m.fs with
        engines := t.m.fs.engines, pools := t.m.fs.pools, fault := t.m.fs.fault, units := t.m.fs.units }) ∧
  (∀ (s : State) (e addr : Nat) (g : Engine) (q : Pool) (st : Step) (r : Completion),
    RecordArrives s e addr g q ringCompletion → Settled s → q.exec = some st → st.allDone = false →
    r.ckind ≠ 3 → r.pool = g.pool → r.engine = e → r.epoch < q.epoch →
    (start s).overdue ((start s).completionTimer e) = false → (start s).overdue ((start s).yieldTimer g.pool) = false →
    ∃ t, exec (.completionDone e addr r) s = .next t ∧ Apart s t (portOf s e ++ [cComplStale]) [] ∧
      Counted s t cComplStale 1 ∧ t.hostIs s.m.hs ∧ RecordTaken s t e g ringCompletion 1 ∧
      t.fabricIs { s.m.fs with engines := t.m.fs.engines }) ∧
  ∀ (s : State) (e at_ : Nat) (g : Engine) (q : Pool) (st : Step), Decides s → Settled s → s.m.hs.up = true →
    Attached s e g q → q.exec = some st → st.acked.get? e = some at_ → st.plan.engines.contains e = true →
    st.done.contains e = false → st.yielded.contains e = false → st.heldAt = none →
    ((start s).fired at_ g.desc.completionTimeout = true →
      ∃ t, exec (.completionTimeout e) s = .next t ∧ EngineFrozen s t e g q 0x01 0 1 ∧ t.pending = s.pending ∧
        t.fabricIs { s.m.fs with
          engines := t.m.fs.engines, pools := t.m.fs.pools, fault := t.m.fs.fault, units := t.m.fs.units }) ∧
    ((start s).fired at_ g.desc.completionTimeout = false →
      ∃ t, exec (.completionTimeout e) s = .next t ∧ Apart s t [] [] ∧ t.hostIs s.m.hs ∧ t.fabricIs s.m.fs)

/-- R36, R369, R373, R376, R377, R637, R817: the ends of a step. The commit of a step whose completions are all in and
whose tokens are all appended frees the pool for its next plan, or lets the step that was held resume, and the engines'
malformed records are counted anew; a failed step is torn down with the composed plans and logged. The pool keeps its
engines. (What of it is the model's own choice or reading: log entries 61 and 67.) -/
def Obligations.StepsCommitOrFail : Prop :=
  (∀ (s : State) (p : Nat) (q : Pool) (st : Step), Decides s → Settled s → KeepsEngines s p →
    s.m.fs.pools.get? p = some q → q.exec = some st → st.failed = none → st.deliveredAt ≠ none → st.allDone = true →
    (start s).appendsDue p st = [] → q.interp = none →
    (q.held = none →
      ∃ t q', exec (.stepCommit p) s = .next t ∧ t.pending = s.pending ∧ t.m.fs.pools.get? p = some q' ∧
        q'.exec = none ∧ q'.held = none ∧ q'.yield = .none ∧ q'.next = (if q.degraded then none else q.next) ∧
        q'.step = q.step ∧ q'.epoch = q.epoch ∧
        q'.committedAt = s.clk.fs.toNat ∧ q'.trimDue = (q.trimDue || q.next.isSome || q.composedEmpty) ∧
        ∀ e ∈ st.plan.engines, ∀ g, t.m.fs.engines.get? e = some g → g.bad = 0) ∧
    (∀ h, q.held = some h →
      ∃ t q', exec (.stepCommit p) s = .next t ∧ t.pending = s.pending ∧ t.m.fs.pools.get? p = some q' ∧
        q'.exec = some h ∧ q'.held = none ∧ q'.yield = .resuming h.plan.engines ∧ q'.next = q.next ∧
        ∀ e ∈ h.plan.engines, ∀ g, t.m.fs.engines.get? e = some g → g.mboxStep = h.plan.step ∧ g.mboxCmd = 2)) ∧
  (∀ (s : State) (p : Nat) (q : Pool) (st : Step), Decides s → Settled s → s.m.fs.pools.get? p = some q →
    q.exec = some st → (st.failed ≠ none ∨ st.deliveredAt = none ∨ st.allDone = false ∨ (start s).appendsDue p st ≠ []) →
    ∃ t, exec (.stepCommit p) s = .next t ∧ Apart s t [] [] ∧ t.hostIs s.m.hs ∧ t.fabricIs s.m.fs) ∧
  (∀ (s : State) (p : Nat) (q : Pool) (st : Step) (why : Nat), Decides s → Settled s → KeepsEngines s p →
    s.m.fs.pools.get? p = some q → q.exec = some st → st.failed = some why → q.degraded = false →
    ∃ t q', exec (.stepFail p) s = .next t ∧ t.pending = s.pending ∧ t.m.fs.pools.get? p = some q' ∧
      q'.exec = none ∧ q'.held = none ∧ q'.next = none ∧ q'.interp = none ∧ q'.yield = .none ∧ q'.step = q.step ∧
      q'.committedAt = s.clk.fs.toNat ∧
      (∃ k r, t.obs.recs.get? k = some r ∧ r.ring = 4 ∧ r.code = 0x21 ∧ r.arg0 = st.plan.step ∧ r.arg1 = p + why * 256) ∧
      ∀ e ∈ st.plan.engines, ∀ g, t.m.fs.engines.get? e = some g → g.bad = 0) ∧
  ∀ (s : State) (p : Nat) (q : Pool), Decides s → Settled s → s.m.fs.pools.get? p = some q →
    (∀ st, q.exec = some st ∨ q.held = some st → st.failed = none) →
    ∃ t, exec (.stepFail p) s = .next t ∧ Apart s t [] [] ∧ t.hostIs s.m.hs ∧ t.fabricIs s.m.fs

/-- R392, R397, R398, R401, R417, R672: router-candidate parts. A part of the executing or held step, for which a set
slot is free, gives its tokens' candidates to its set; one of an earlier epoch is counted; body units are held, but 64
bytes where a ring's next record begins are that record, as here an energy report; an acknowledgement of a set's return
header is entered, and the last one frees the set's slot, while its tokens stay known (R398). (What of it is the model's
own choice or reading: log entries 65, 66 and 145.) -/
def Obligations.RouterPartsAreTaken : Prop :=
  (∀ (s : State) (e addr : Nat) (g : Engine) (q : Pool) (r : RouterPart) (st : Step),
    RecordArrives s e addr g q ringRouter → 64 * (1 + ceilDiv (32 * r.count) 64) ≤ ringRouter.m → q.epoch ≤ r.epoch →
    (start s).stepNamed g.pool r.step r.interposed = some st → (start s).routerMalformed g.pool st.plan r = false →
    r.records.length = r.count → (∀ x ∈ ((start s).unit g.pool).heldParts, x.engine ≠ e) →
    let sets := ((start s).unit g.pool).sets
    (sets.any (Work.isSetOf r) = true ∨ (sets.filter fun x => x.interposed = r.interposed && !x.closed).length < 2) →
    ∃ t, exec (.routerPart e addr r) s = .next t ∧ t.pending = s.pending ∧ t.clk = s.clk ∧
      ∃ x ∈ ((start t).unit g.pool).sets, Work.isSetOf r x = true ∧ ∀ i, i < r.count → x.got.has (r.first + i) = true) ∧
  (∀ (s : State) (e addr : Nat) (g : Engine) (q : Pool) (r : RouterPart),
    RecordArrives s e addr g q ringRouter → 64 * (1 + ceilDiv (32 * r.count) 64) ≤ ringRouter.m → r.epoch < q.epoch →
    ∃ t, exec (.routerPart e addr r) s = .next t ∧ Apart s t (portOf s e ++ [cRouteStale g.pool]) [] ∧
      Counted s t (cRouteStale g.pool) 1 ∧ t.hostIs s.m.hs ∧
      RecordTaken s t e g ringRouter (1 + ceilDiv (32 * r.count) 64) ∧
      t.fabricIs { s.m.fs with engines := t.m.fs.engines }) ∧
  (∀ (s : State) (e addr : Nat) (g : Engine) (q : Pool) (bytes : List Byte), Serves s → Settled s → Attached s e g q →
    (start s).blockAddr e ≤ addr → addr + bytes.length ≤ (start s).blockAddr e + 0x200000 →
    (bytes.length = 64 → Work.ringNext g (addr - (start s).blockAddr e) = none) →
    ∃ t, exec (.ringBodyStore e addr bytes) s = .next t ∧ Apart s t (portOf s e) [] ∧ t.hostIs s.m.hs ∧
      t.m.fs.engines.get? e = some { g with body := g.body.set (addr - (start s).blockAddr e) bytes } ∧
      (∀ k, k ≠ e → t.m.fs.engines.get? k = s.m.fs.engines.get? k) ∧
      t.fabricIs { s.m.fs with engines := t.m.fs.engines }) ∧
  (∀ (s : State) (e addr : Nat) (g : Engine) (q : Pool) (bytes : List Byte), Serves s → Settled s →
    RecordArrives s e addr g q ringEnergy → bytes.length = 64 →
    ∃ t u, exec (.ringBodyStore e addr bytes) s = .next t ∧ exec (.energyReport e addr bytes) s = .next u ∧
      t.m.fs.engines = u.m.fs.engines ∧ t.m.fs.pools = u.m.fs.pools) ∧
  ∀ (s : State) (p n e : Nat) (x : RouteSet) (l : List Nat), Decides s → AckInTime s e .route →
    let u := (start s).unit p
    u.sets[n]? = some x → x.answering = some l → x.closed = false →
    let left := l.filter fun k => k ≠ e && (match s.m.fs.engines.get? k with | some g => !g.frozen | none => false)
    (left ≠ [] → ∃ t, exec (.routeReturnAcked p n e) s = .next t ∧ Apart s t (portOf s e) [] ∧ t.hostIs s.m.hs ∧
      (start t).unit p = { u with
        sets := u.sets.take n ++ [{ x with answering := some left }] ++ u.sets.drop (n + 1) } ∧
      t.fabricIs { s.m.fs with units := t.m.fs.units, engines := ackedEngines s e .route }) ∧
    (left = [] → u.heldParts = [] →
      ∃ t, exec (.routeReturnAcked p n e) s = .next t ∧ Apart s t (portOf s e) [] ∧ t.hostIs s.m.hs ∧
        (start t).unit p = { u with
          sets := u.sets.take n ++ [{ x with answering := some [], closed := true }] ++ u.sets.drop (n + 1) } ∧
        t.fabricIs { s.m.fs with units := t.m.fs.units, engines := ackedEngines s e .route })

/-- R432, R433, R437, R441, R507, R511, R513: sketch parts, embed records and draft lists. One that names a step in
progress, is well formed and is the first of its kind is taken once its position has a slot, and waits in its window
until then; a repeated one is counted, and so is one of an earlier epoch. (What of it is the model's own choice or
reading: log entries 65, 66, 72 and 105.) -/
def Obligations.SketchPartsAndDraftListsAreTaken : Prop :=
  (∀ (s : State) (e addr : Nat) (g : Engine) (q : Pool) (r : SketchPart),
    let units := if r.pkind = 1 then 1 else 1 + ceilDiv (8 * r.entries.length) 64
    RecordArrives s e addr g q ringSketch → Settled s → 64 * units ≤ ringSketch.m →
    ((start s).unit g.pool).heldSketches = [] →
    (∀ st, q.epoch ≤ r.epoch → (start s).stepNamed g.pool r.step r.interposed = some st →
      (start s).partMalformed g.pool q st.plan r = false → (start s).partTaken g.pool r = false →
      (∀ pe, st.plan.entries.find? (fun y => y.seq = r.seq) = some pe →
        (r.pkind ≠ 0 ∨ (start s).hasSlot g.pool q st.plan pe r.index = true) →
        ∃ t, exec (.sketchPart e addr r []) s = .next t ∧ t.pending = s.pending ∧ t.clk = s.clk ∧
          (start t).partTaken g.pool r = true) ∧
      (∀ pe, st.plan.entries.find? (fun y => y.seq = r.seq) = some pe → r.pkind = 0 →
        (start s).hasSlot g.pool q st.plan pe r.index = false →
        ∃ t, exec (.sketchPart e addr r []) s = .next t ∧ Apart s t (portOf s e) [] ∧ t.hostIs s.m.hs ∧
          RecordTaken s t e g ringSketch units ∧
          (start t).unit g.pool = { (start s).unit g.pool with heldSketches := [{ engine := e, part := r }] } ∧
          t.fabricIs { s.m.fs with engines := t.m.fs.engines, units := t.m.fs.units })) ∧
    (∀ st, q.epoch ≤ r.epoch → (start s).stepNamed g.pool r.step r.interposed = some st →
      (start s).partMalformed g.pool q st.plan r = false → (start s).partTaken g.pool r = true →
      ∃ t, exec (.sketchPart e addr r []) s = .next t ∧ Apart s t (portOf s e ++ [cSketchDup g.pool]) [] ∧
        Counted s t (cSketchDup g.pool) 1 ∧ t.hostIs s.m.hs ∧ RecordTaken s t e g ringSketch units ∧
        t.fabricIs { s.m.fs with engines := t.m.fs.engines }) ∧
    (r.epoch < q.epoch →
      ∃ t, exec (.sketchPart e addr r []) s = .next t ∧ Apart s t (portOf s e ++ [cSketchStale g.pool]) [] ∧
        Counted s t (cSketchStale g.pool) 1 ∧ t.hostIs s.m.hs ∧ RecordTaken s t e g ringSketch units ∧
        t.fabricIs { s.m.fs with engines := t.m.fs.engines })) ∧
  ∀ (s : State) (e addr : Nat) (g : Engine) (q : Pool) (bytes : List Byte),
    let r := draftListOf bytes
    let units := 1 + ceilDiv (4 * r.nodes.length) 64
    let nodes : List DraftNode := r.nodes.map fun x => { parent := x.2, token := x.1 }
    RecordArrives s e addr g q ringDraft → 64 * units ≤ ringDraft.m →
    (∀ st, q.epoch ≤ r.epoch → (start s).stepNamed g.pool r.step false = some st →
      Work.listMalformed g.pool st.plan r = false → ((start s).unit g.pool).drafts.get? r.seq = none →
      ∃ t, exec (.draftList e addr bytes) s = .next t ∧ t.pending = s.pending ∧ t.clk = s.clk ∧
        ((start t).unit g.pool).drafts.get? r.seq = some nodes) ∧
    (∀ st, q.epoch ≤ r.epoch → (start s).stepNamed g.pool r.step false = some st →
      Work.listMalformed g.pool st.plan r = false → ((start s).unit g.pool).drafts.get? r.seq = some nodes →
      ∃ t, exec (.draftList e addr bytes) s = .next t ∧ Apart s t (portOf s e ++ [cDraftDup g.pool]) [] ∧
        Counted s t (cDraftDup g.pool) 1 ∧ t.hostIs s.m.hs ∧ RecordTaken s t e g ringDraft units ∧
        t.fabricIs { s.m.fs with engines := t.m.fs.engines }) ∧
    (r.epoch < q.epoch →
      ∃ t, exec (.draftList e addr bytes) s = .next t ∧ Apart s t (portOf s e ++ [cDraftStale g.pool]) [] ∧
        Counted s t (cDraftStale g.pool) 1 ∧ t.hostIs s.m.hs ∧ RecordTaken s t e g ringDraft units ∧
        t.fabricIs { s.m.fs with engines := t.m.fs.engines })

/-- R233, R263, R523, R532, R537: APPEND_GROUP of a decode entry with one token that ends nothing: the token's record
joins the context's stream, the entry takes its new length, one token is emitted and one credit used, and the token is
among the pool's outcomes. A group that an end decision has beaten is discarded. (What of it is the model's own choice
or reading: log entries 62 and 63.) -/
def Obligations.TokensAreAppended : Prop :=
  ∀ (s : State) (slot p : Nat) (q : Pool) (st : Step) (pe : PlanEntry) (g : Group), Decides s → slot < 2 ^ 18 →
    let w := start s
    let e := w.entry slot
    let x := w.seq slot
    w.groupOf slot = some (p, st, pe) → s.m.fs.pools.get? p = some q → q.exec = some st → x.group = some g →
    (∀ o, g.toks = [o] → g.embed = none → g.dead = none → g.short = false → pe.slot = slot → pe.etype = .decode →
      pe.draft = 0 → e.st = .decoding → e.kind = .generate → 0 < e.emitted → 1 < e.maxTokens →
      e.fl.stencilEn = false → w.isEnd e o.token = false → hasCounts e = false → x.home = none → 2 ≤ x.credits →
      x.replay = none → x.strikes = 0 → x.skipGap = false → x.stallAt = none → w.reg (rDlmCfg e.ctx) = 0 →
      s.m.hs.up = true →
      let rec' : RingRec := { w.recBase slot with
        kind := 0, pos := o.pos, token := o.token, logprob := o.logprob, drafted := o.drafted, deep := o.deep }
      ∃ t, exec (.appendGroup (seqHandle slot e)) s = .next t ∧ Apart s t [cStuRecords, cAcct e.ctx 8] [] ∧
        Counted s t cStuRecords 1 ∧ Counted s t (cAcct e.ctx 8) 1 ∧
        (start t).entry slot = { e with
          length := g.newLength, emitted := e.emitted + 1, lastEmitAt := s.clk.fs.toNat, maxTokens := e.maxTokens - 1 } ∧
        (start t).seq slot = { x with
          group := none, credits := x.credits - 1, tokens := x.tokens ++ [o.token]
          unreturned := x.unreturned ++ [rec'] } ∧
        messages t e.ctx = messages s e.ctx ++ [.ring rec'] ∧
        PoolIs s t p { q with
          exec := some { st with appended := st.appended ++ [slot] }
          outcomes := q.outcomes ++ [[st.plan.step, seqHandle slot e, o.token] ++ g.path] } ∧
        (∀ k, k ≠ slot → (start t).entry k = w.entry k ∧ (start t).seq k = w.seq k) ∧
        t.fabricIs { s.m.fs with rqt := t.m.fs.rqt, seqs := t.m.fs.seqs, pools := t.m.fs.pools }) ∧
    (e.st.live = false →
      ∃ t, exec (.appendGroup (seqHandle slot e)) s = .next t ∧ Apart s t [cStuDiscarded, cDraftSpoiled p] [] ∧
        Counted s t cStuDiscarded 1 ∧ t.hostIs s.m.hs ∧ (start t).seq slot = { x with group := none } ∧
        PoolIs s t p { q with exec := some { st with appended := st.appended ++ [slot] } } ∧
        t.fabricIs { s.m.fs with seqs := t.m.fs.seqs, pools := t.m.fs.pools })

/-- R457, R461, R855: deep fetches. The logits that a load brings are kept with the position that asked for them; a load
that goes unanswered for the engine's COMPLETION_TIMEOUT freezes it, with cause 0x05, and the step fails with cause 7.
(What of it is the model's own choice or reading: log entries 68 and 112.) -/
def Obligations.DeepFetchesAreAnswered : Prop :=
  (∀ (s : State) (seq i shard k p : Nat) (n : Nat) (l : LoadOut) (bs : List Byte), Decides s →
    (start s).deepLoad seq i shard = some (k, l, p, n) → (start s).deepLapsed l = false →
    ((∀ q, s.m.fs.pools.get? p = some q → q.exec = none) →
      ∃ t, exec (.deepFetchData seq i shard bs) s = .next t ∧ Apart s t (portOf s l.engine) [] ∧ t.hostIs s.m.hs ∧
        t.fabricIs { s.m.fs with fab := { s.m.fs.fab with loads := s.m.fs.fab.loads.erase k } }) ∧
    (∀ q st pe f x y, s.m.fs.pools.get? p = some q → q.exec = some st → st.failed = none →
      st.plan.step = n → let d := handleSlot seq
      seqHandle d ((start s).entry d) = seq → (start s).entryFor p st.plan d = some pe →
      (start s).deepOf p st.plan d i = some f → (start s).sketchAt p st.plan pe i = some x →
      x.parts.find? (·.shard = shard) = some y → (∃ h ∈ f.shards, h ≠ shard ∧ f.data.get? h = none) →
      ∃ t f', exec (.deepFetchData seq i shard bs) s = .next t ∧
        Apart s t (portOf s l.engine ++ [cSketchNonfinite p]) [] ∧ t.hostIs s.m.hs ∧
        (start t).deepOf p st.plan d i = some f' ∧ f'.cause = f.cause ∧ f'.shards = f.shards ∧
        f'.data.has shard = true ∧ (∀ h, h ≠ shard → f'.data.get? h = f.data.get? h) ∧
        t.fabricIs { s.m.fs with
          units := t.m.fs.units, fab := { s.m.fs.fab with loads := s.m.fs.fab.loads.erase k } })) ∧
  ∀ (s : State) (seq i shard k n : Nat) (l : LoadOut) (g : Engine) (q : Pool), Decides s → Settled s → s.m.hs.up = true →
    Attached s l.engine g q → q.exec ≠ none → (start s).deepLoad seq i shard = some (k, l, g.pool, n) →
    (start s).stillWanted g.pool n = true →
    ((start s).fired l.firstAt g.desc.completionTimeout = true →
      ∃ t, exec (.deepFetchTimeout seq i shard) s = .next t ∧ EngineFrozen s t l.engine g q 0x05 0 7 ∧
        t.pending = s.pending ∧ t.fabricIs { s.m.fs with
          engines := t.m.fs.engines, pools := t.m.fs.pools, fault := t.m.fs.fault, units := t.m.fs.units
          fab := { s.m.fs.fab with loads := s.m.fs.fab.loads.erase k } }) ∧
    ((start s).fired l.firstAt g.desc.completionTimeout = false →
      ∃ t, exec (.deepFetchTimeout seq i shard) s = .next t ∧ Apart s t [] [] ∧ t.hostIs s.m.hs ∧ t.fabricIs s.m.fs)

/-- R88, R640, R641: a report of an engine's energy that comes in time is entered with the step that awaits it, and one
of an earlier epoch is counted as stale; once ENERGY_WAIT has passed the step waits no longer, and a failed step is then
charged nothing. (What of it is the model's own choice or reading: log entries 74, 116 and 138.) -/
def Obligations.EnergyReportsAreAwaited : Prop :=
  (∀ (s : State) (e addr : Nat) (g : Engine) (q : Pool) (bytes : List Byte), RecordArrives s e addr g q ringEnergy →
    let r := energyReportOf bytes
    r.engine = e → r.pool = g.pool →
    (∀ x ∈ q.closing, x.at_ < 2 ^ 64 → (start s).lapsed x.at_ ((start s).reg rAcuCfg) = false) →
    (∀ x, q.epoch ≤ r.epoch → (q.closing.find? fun x => x.step = r.step && x.interposed = r.interposed) = some x →
      (∃ u, (e, u) ∈ x.planned) → (∀ y ∈ x.reported, y.1 ≠ e) →
      (∃ y ∈ x.planned, y.1 ≠ e ∧ ∀ z ∈ x.reported, z.1 ≠ y.1) →
      ∃ t, exec (.energyReport e addr bytes) s = .next t ∧ Apart s t (portOf s e ++ [cEgvReported g.pool]) [] ∧
        Counted s t (cEgvReported g.pool) r.energy ∧ t.hostIs s.m.hs ∧ RecordTaken s t e g ringEnergy 1 ∧
        PoolIs s t g.pool { q with closing := q.closing.map fun y =>
          if y = x then { x with reported := x.reported ++ [(e, r.energy)] } else y } ∧
        t.fabricIs { s.m.fs with engines := t.m.fs.engines, pools := t.m.fs.pools }) ∧
    (r.epoch < q.epoch →
      ∃ t, exec (.energyReport e addr bytes) s = .next t ∧ Apart s t (portOf s e ++ [cEgvStale g.pool]) [] ∧
        Counted s t (cEgvStale g.pool) 1 ∧ t.hostIs s.m.hs ∧ RecordTaken s t e g ringEnergy 1 ∧
        t.fabricIs { s.m.fs with engines := t.m.fs.engines })) ∧
  ∀ (s : State) (p : Nat) (q : Pool), Decides s → s.m.fs.pools.get? p = some q →
    let due (x : EnergyWait) : Bool := decide (x.at_ < 2 ^ 64) && (start s).fired x.at_ ((start s).reg rAcuCfg)
    ∃ t, exec (.energyWaitExpiry p) s = .next t ∧ t.pending = s.pending ∧ t.hostIs s.m.hs ∧
      PoolIs s t p { q with closing := q.closing.filter fun x => !due x } ∧
      t.fabricIs { s.m.fs with pools := t.m.fs.pools, ratios := t.m.fs.ratios } ∧
      ((∀ x ∈ q.closing, due x = true → x.failed = true) → Apart s t [] [] ∧ t.m.fs.ratios = s.m.fs.ratios)

/-- R601 to R604: keep-lists. The timeout of a request runs from its acknowledgement; a keep-list that comes in time
chooses the kept positions, up to the KEEP_MAX of the request; one that is missing, or comes after the time (R88), keeps
every position; one that nobody waits for only takes its place in the ring. (What of it is the model's own choice or
reading: log entries 60, 74 and 138.) -/
def Obligations.KeepListsChoosePositions : Prop :=
  (∀ (s : State) (e : Nat), Decides s → AckInTime s e .keep →
    ∃ t, exec (.keepRequestAcked e) s = .next t ∧ Apart s t (portOf s e) [] ∧ t.hostIs s.m.hs ∧
      t.fabricIs { s.m.fs with seqs := t.m.fs.seqs, engines := ackedEngines s e .keep } ∧
      ∀ slot x, s.m.fs.seqs.get? slot = some x →
        (∀ r n, x.park = some r → r.copy = .keepList e n none →
          t.m.fs.seqs.get? slot = some { x with park := some { r with copy := .keepList e n (some s.clk.fs.toNat) } }) ∧
        ((∀ r n, x.park = some r → r.copy ≠ .keepList e n none) → t.m.fs.seqs.get? slot = some x)) ∧
  (∀ (s : State) (slot e n at_ : Nat) (r : ParkRec) (g : Engine), Decides s → ((start s).seq slot).park = some r →
    r.copy = .keepList e n (some at_) → s.m.fs.engines.get? e = some g →
    ((start s).fired at_ g.desc.completionTimeout = true → g.bad + 1 ≤ g.desc.discardLimit →
      ∃ t r', exec (.keepListTimeout slot) s = .next t ∧ t.pending = s.pending ∧ Counted s t cKeepTimeout 1 ∧
        t.hostIs s.m.hs ∧ ((start t).seq slot).park = some r' ∧
        r'.keep = [(r.firstOwn * r.pagePos, r.written - r.firstOwn * r.pagePos)]) ∧
    ((start s).fired at_ g.desc.completionTimeout = false →
      ∃ t, exec (.keepListTimeout slot) s = .next t ∧ Apart s t [] [] ∧ t.hostIs s.m.hs ∧ t.fabricIs s.m.fs)) ∧
  ∀ (s : State) (e addr : Nat) (g : Engine) (q : Pool) (r : KeepList), RecordArrives s e addr g q ringKeep →
    64 * (1 + ceilDiv (8 * r.ranges.length) 64) ≤ ringKeep.m →
    (∀ slot k, (start s).keepWaiting e r = some (slot, k) → ((start s).seq slot).park = some k → k.condensed = true →
      (∀ n t, k.copy = .keepList e n (some t) → (start s).lapsed t g.desc.completionTimeout = false) →
      s.m.fs.pools.get? k.pool ≠ none → r.ranges ≠ [] → Work.rangesOk k.written 0 r.ranges = true →
      ∃ t k', exec (.keepList e addr r) s = .next t ∧ t.pending = s.pending ∧ t.hostIs s.m.hs ∧
        ((start t).seq slot).park = some k' ∧
        k'.keep = takeRanges k.keepMax (clipRanges (k.firstOwn * k.pagePos) r.ranges) ∧
        (k'.copy = .copying ∨ k'.copy = .waitSpace ∨ k'.copy = .done)) ∧
    (∀ slot k n at_, (start s).keepWaiting e r = some (slot, k) → ((start s).seq slot).park = some k →
      k.copy = .keepList e n (some at_) → (start s).lapsed at_ g.desc.completionTimeout = true →
      g.bad + 1 ≤ g.desc.discardLimit →
      ∃ t k', exec (.keepList e addr r) s = .next t ∧ t.pending = s.pending ∧ t.hostIs s.m.hs ∧
        Counted s t cKeepTimeout 1 ∧ ((start t).seq slot).park = some k' ∧
        k'.keep = [(k.firstOwn * k.pagePos, k.written - k.firstOwn * k.pagePos)]) ∧
    ((start s).keepWaiting e r = none →
      ∃ t, exec (.keepList e addr r) s = .next t ∧ Apart s t (portOf s e) [] ∧ t.hostIs s.m.hs ∧
        RecordTaken s t e g ringKeep (1 + ceilDiv (8 * r.ranges.length) 64) ∧
        t.fabricIs { s.m.fs with engines := t.m.fs.engines })

/-- R298, R584 to R586, R593, R606, R617, R635: park copies. A copy that finds extents charges them to its context and
begins; the one whose pages have all been read and written is finished with its bytes, condensed where the record is,
and the traffic is charged to its context. Here the instance is unpaired, and the pool keeps its engines. -/
def Obligations.ParkCopiesAreWritten : Prop :=
  (∀ (s : State) (slot : Nat) (pages : List Byte) (r : ParkRec) (q : Pool), Decides s → Settled s →
    s.m.fs.twin.state = .unpaired → ((start s).seq slot).park = some r → r.copy = .copying → r.away = none →
    s.m.fs.pools.get? r.pool = some q → KeepsEngines s r.pool →
    let c := ((start s).entry slot).ctx
    let loaded := pages.take (loadedSize q r)
    let bytes := if r.condensed then (condense q r loaded).1 else loaded
    ∃ t, exec (.parkCopyDone slot pages) s = .next t ∧
      Apart s t ([cCdnNonfinite, cAcct c 7, cParksCondensed, cParksFull] ++ rxCounts s) [] ∧ t.hostIs s.m.hs ∧
      LoadsCounted s t (fun l => l.why = .park slot) ∧
      (start t).seq slot = { (start s).seq slot with park := some { r with bytes := bytes, copy := .done } } ∧
      (∀ k, k ≠ slot → (start t).seq k = (start s).seq k) ∧
      Counted s t (if r.condensed then cParksCondensed else cParksFull) 1 ∧
      Counted s t (cAcct c 7) (loaded.length + bytes.length) ∧
      (∀ x ∈ t.m.fs.fab.loads, x.2.why ≠ .park slot) ∧
      t.fabricIs { s.m.fs with
        seqs := t.m.fs.seqs, fab := { s.m.fs.fab with loads := t.m.fs.fab.loads }
        memPorts := ((start s).memServed (.copy slot)).fs.memPorts }) ∧
  (∀ (s : State) (slot : Nat) (pages : List Byte), Decides s → Settled s →
    (∀ r, ((start s).seq slot).park = some r → r.copy ≠ .copying ∧ KeepsEngines s r.pool) →
    ∃ t, exec (.parkCopyDone slot pages) s = .next t ∧ Apart s t [] [] ∧ t.hostIs s.m.hs ∧ t.fabricIs s.m.fs) ∧
  (∀ (s : State) (slot : Nat) (r : ParkRec) (q : Pool), Decides s → ((start s).seq slot).park = some r →
    r.copy = .waitSpace → s.m.fs.pools.get? r.pool = some q → r.entries ≠ [] →
    let c := ((start s).entry slot).ctx
    let n := ceilDiv (recordSize q r) 65536
    (start s).mayCharge c n = true →
    ∃ t l, exec (.parkCopyRetry slot) s = .next t ∧ t.pending = s.pending ∧ t.hostIs s.m.hs ∧
      ((start s).charge c n).map (·.1) = some l ∧
      ((start t).seq slot).park = some { r with copy := .copying, extents := l } ∧
      ((start t).fctx c).parkUsed = ((start s).fctx c).parkUsed + n ∧ (∀ e ∈ l, t.m.fs.park.used.has e = true) ∧
      t.fabricIs { s.m.fs with
        seqs := t.m.fs.seqs, ctxs := t.m.fs.ctxs, park := t.m.fs.park, fab := t.m.fs.fab
        memPorts := ((start s).queueExtents l (recordSize q r) .park c (.copy slot)).fs.memPorts }) ∧
  (∀ (s : State) (slot : Nat) (r : ParkRec) (q : Pool), Decides s → ((start s).seq slot).park = some r →
    r.copy = .waitSpace → s.m.fs.pools.get? r.pool = some q → r.entries ≠ [] → r.condensed = true → r.waited = true →
    (start s).mayCharge ((start s).entry slot).ctx (ceilDiv (recordSize q r) 65536) = false →
    bit ((start s).reg rGroupCfg) 0 = false →
    ∃ t, exec (.parkCopyRetry slot) s = .next t ∧ Apart s t [] [] ∧ t.hostIs s.m.hs ∧
      (start t).seq slot = (start s).seq slot) ∧
  ∀ (s : State) (slot : Nat), Decides s → (∀ r, ((start s).seq slot).park = some r → r.copy ≠ .waitSpace) →
    ∃ t, exec (.parkCopyRetry slot) s = .next t ∧ Apart s t [] [] ∧ t.hostIs s.m.hs ∧ t.fabricIs s.m.fs

/-- R259, R312, R313, R598, R599, R610, R612: the ends of copies and stores. A restore whose last store is acknowledged
is done, and its traffic is charged; a placement becomes a residency, and the sequences that wait for it go on; a prefix
handle's copy is finished with its bytes; a paused sequence whose time to live has passed fails with code 02. (What of
it is the model's own choice or reading: log entries 76 and 117.) -/
def Obligations.CopiesAndRestoresFinish : Prop :=
  (∀ (s : State) (slot p : Nat) (r : ParkRec), Decides s → ((start s).seq slot).park = some r → r.restore = .storing p →
    let lead := match (start s).leadCopy slot r with | some (k, _) => k.extents | none => []
    (∀ e ∈ r.extents ++ lead, s.m.fs.park.lost.get? e = none) →
    let c := ((start s).entry slot).ctx
    ∃ t, exec (.restoreDone slot) s = .next t ∧ Apart s t [cRestores, cAcct c 7] [] ∧ t.hostIs s.m.hs ∧
      Counted s t cRestores 1 ∧ Counted s t (cAcct c 7) ((start s).restoreBytes slot p r) ∧
      t.fabricIs { s.m.fs with
        engines := storesEnded s.m.fs.engines (.restore slot)
        seqs := s.m.fs.seqs.set slot { (start s).seq slot with park := some { r with restore := .done p } }
        memPorts := ((start s).memServed (.restore slot)).fs.memPorts }) ∧
  (∀ (s : State) (p h g : Nat) (y : Seg), Decides s →
    let mine (z : Seg) : Bool := z.pool = p && z.placing && match z.copy with
      | some c => (match s.m.fs.copies.get? c with | some k => k.handle = h || k.names.contains h | none => false)
      | none => false
    (s.m.fs.segs.find fun _ z => mine z) = some (g, y) → s.m.fs.segs.get? g = some y →
    ∃ t, exec (.placementDone p h) s = .next t ∧ Apart s t [cPgmPlacements] [] ∧ Counted s t cPgmPlacements 1 ∧
      t.hostIs s.m.hs ∧ t.m.fs.segs.get? g = some { y with placing := false } ∧
      (∀ z, z ≠ g → t.m.fs.segs.get? z = s.m.fs.segs.get? z) ∧
      (∀ slot x, s.m.fs.seqs.get? slot = some x → t.m.fs.seqs.get? slot =
        some { x with placing := if x.placing = some g then none else x.placing }) ∧
      t.fabricIs { s.m.fs with
        engines := storesEnded s.m.fs.engines (.place g), segs := t.m.fs.segs, seqs := t.m.fs.seqs
        memPorts := ((start s).memServed (.placement g)).fs.memPorts }) ∧
  (∀ (s : State) (h c : Nat) (k : HandleCopy) (pages : List Byte), Decides s → Settled s → s.m.fs.twin.state = .unpaired →
    (s.m.fs.copies.find fun _ z => z.handle = h && !z.done && z.mirrorAt.isNone) = some (c, k) →
    (start s).copyNamed c = true →
    ∃ t, exec (.handleCopyDone h pages) s = .next t ∧ Apart s t (cAcct k.owner 7 :: rxCounts s) [] ∧
      Counted s t (cAcct k.owner 7) (2 * pages.length) ∧ LoadsCounted s t (fun l => l.why = .handleCopy c) ∧ t.hostIs s.m.hs ∧
      t.m.fs.copies.get? c = some { k with bytes := pages, done := true } ∧
      (∀ z, z ≠ c → t.m.fs.copies.get? z = s.m.fs.copies.get? z) ∧
      (∀ x ∈ t.m.fs.fab.loads, x.2.why ≠ .handleCopy c) ∧
      t.fabricIs { s.m.fs with
        copies := t.m.fs.copies, fab := { s.m.fs.fab with loads := t.m.fs.fab.loads }
        memPorts := ((start s).memServed (.handle c)).fs.memPorts }) ∧
  ∀ (s : State) (slot : Nat) (r : ParkRec), Decides s → s.m.hs.up = true → ((start s).seq slot).park = some r →
    let e := (start s).entry slot
    e.st = .parked → e.fl.displaced = false → r.resumed = false → ((start s).seq slot).home = none →
    ((start s).fired r.at_ e.parkTtl = true →
      ∃ t, exec (.parkTtlExpiry slot) s = .next t ∧ Ended s t slot 3 ∧ t.pending = s.pending ∧
        messages t e.ctx = messages s e.ctx ++ [.ring (finalOf s slot 3 2)]) ∧
    ((start s).fired r.at_ e.parkTtl = false →
      ∃ t, exec (.parkTtlExpiry slot) s = .next t ∧ Apart s t [] [] ∧ t.hostIs s.m.hs ∧ t.fabricIs s.m.fs)

/-- R141, R663, R668, R671: a request from a source that is no engine's is counted and dropped, and so are a request
that arrives in part and a write of a frozen engine; a write outside its windows freezes the engine, with violation
class 0x41. Here nothing waits for a command to end. (What of it is the model's own choice or reading: log entries 66
and 115.) -/
def Obligations.EngineWritesAreChecked : Prop :=
  (∀ s : State, Serves s →
    ∃ t, exec .fabricPartialTimeout s = .next t ∧ Apart s t [cFabPartial] [] ∧ Counted s t cFabPartial 1 ∧
      t.hostIs s.m.hs ∧ t.fabricIs s.m.fs) ∧
  (∀ (s : State) (src : Nat), Serves s → s.m.fs.engines.get? src = none →
    ∃ t, exec (.apertureLoad src) s = .next t ∧ Apart s t (portOf s src ++ [cUnknownSrc]) [] ∧ Counted s t cUnknownSrc 1 ∧
      t.hostIs s.m.hs ∧ t.fabricIs s.m.fs) ∧
  ∀ (s : State) (src addr n : Nat) (cmd : Instr), Serves s → Settled s →
    ((∃ v, cmd = .reduction src addr n v) ∨ (n = 8 ∧ ∃ q op, cmd = .atomicRequest src q addr op) ∨
      (∃ b : List Byte, b.length = n ∧ cmd = .ringBodyStore src addr b) ∨ (n = 64 ∧ ∃ r, cmd = .completionDone src addr r) ∨
      (n = 64 ∧ ∃ r, cmd = .completionYielded src addr r) ∨ (n = 64 ∧ ∃ r, cmd = .completionAbort src addr r) ∨
      (n = 64 ∧ ∃ r, cmd = .routerPart src addr r) ∨ (n = 64 ∧ ∃ r, cmd = .sketchPart src addr r []) ∨
      (n = 64 ∧ ∃ r, cmd = .draftList src addr r) ∨ (n = 64 ∧ ∃ r, cmd = .energyReport src addr r) ∨
      (n = 64 ∧ ∃ r, cmd = .keepList src addr r)) →
    (s.m.fs.engines.get? src = none →
      ∃ t, exec cmd s = .next t ∧ Apart s t (portOf s src ++ [cUnknownSrc]) [] ∧ Counted s t cUnknownSrc 1 ∧
        t.hostIs s.m.hs ∧ t.fabricIs s.m.fs) ∧
    (∀ g, s.m.fs.engines.get? src = some g → g.frozen = true →
      ∃ t, exec cmd s = .next t ∧ Apart s t (portOf s src ++ [cIgnoredWrites src]) [] ∧
        Counted s t (cIgnoredWrites src) 1 ∧ t.hostIs s.m.hs ∧ t.fabricIs s.m.fs) ∧
    ∀ g q, Attached s src g q → q.exec ≠ none → s.m.hs.up = true → (start s).ownWindow src g.pool addr n = false →
      ∃ t, exec cmd s = .next t ∧ EngineFrozen s t src g q 0x03 0x41 4 ∧
        t.fabricIs { s.m.fs with engines := t.m.fs.engines, pools := t.m.fs.pools, fault := t.m.fs.fault }

/-- R683, R684, R687 to R689: a reduction adds to its word, up to 2^64 - 1; an atomic whose ASEQ follows acts on its
word and is answered with the old value, a repeated one is answered with the result that it had, and one beyond the
window is EXPIRED; neither of those acts again. (What of it is the model's own choice or reading: log entry 31.) -/
def Obligations.ReductionsAndAtomicsAct : Prop :=
  (∀ (s : State) (src addr v : Nat) (g : Engine) (q : Pool), Serves s → Attached s src g q → addr % 8 = 0 →
    (start s).redAddr g.pool ≤ addr → addr + 8 ≤ (start s).redAddr g.pool + 0x10000 →
    let k := (addr - (start s).redAddr g.pool) / 8
    let sum := (q.redWin.getD k 0).toNat + v % 2 ^ 64
    ∃ t q', exec (.reduction src addr 8 v) s = .next t ∧ Apart s t (portOf s src) [] ∧ t.hostIs s.m.hs ∧
      PoolIs s t g.pool q' ∧ q' = { q with redWin := q.redWin.set k (BitVec.ofNat 64 (Nat.min sum (2 ^ 64 - 1)))
                                           redSat := q'.redSat } ∧
      (q'.redSat.contains k = (q.redSat.contains k || decide (2 ^ 64 ≤ sum))) ∧
      t.fabricIs { s.m.fs with pools := t.m.fs.pools }) ∧
  (∀ (s : State) (src addr aseq : Nat) (op : AtomicOp) (g : Engine) (q : Pool), Serves s → Attached s src g q →
    addr % 8 = 0 → (start s).atomAddr g.pool ≤ addr → addr + 8 ≤ (start s).atomAddr g.pool + 0x1000 → aseq < 2 ^ 32 →
    let k := (addr - (start s).atomAddr g.pool) / 8
    let win := s.m.fs.fab.windows.getD src {}
    let old := q.atomWin.getD k 0
    (aseq = (win.h + 1) % 2 ^ 32 →
      ∃ t x, exec (.atomicRequest src aseq addr op) s = .next t ∧
        Apart s t (portOf s src ++ [cAtomApplied]) [] [] [] [.atomicReply src aseq .applied old] ∧
        Counted s t cAtomApplied 1 ∧ t.hostIs s.m.hs ∧
        PoolIs s t g.pool { q with atomWin := q.atomWin.set k (Work.atomicNew op old) } ∧
        t.m.fs.fab.windows.get? src = some x ∧ x.h = aseq ∧ x.results.get? aseq = some old ∧
        t.fabricIs { s.m.fs with pools := t.m.fs.pools, fab := { s.m.fs.fab with windows := t.m.fs.fab.windows } }) ∧
    (1 ≤ aseq → aseq ≤ win.h → win.h - aseq < 1024 → win.h < 2 ^ 32 - 1 →
      ∃ t, exec (.atomicRequest src aseq addr op) s = .next t ∧
        Apart s t (portOf s src ++ [cAtomReplayed]) [] [] [] [.atomicReply src aseq .replayed (win.results.getD aseq 0)] ∧
        Counted s t cAtomReplayed 1 ∧ t.hostIs s.m.hs ∧ t.fabricIs s.m.fs) ∧
    (1 ≤ aseq → aseq + 1024 ≤ win.h → win.h - aseq ≤ 2 ^ 31 → win.h < 2 ^ 32 →
      ∃ t, exec (.atomicRequest src aseq addr op) s = .next t ∧
        Apart s t (portOf s src ++ [cAtomExpired]) [] [] [] [.atomicReply src aseq .expired 0] ∧
        Counted s t cAtomExpired 1 ∧ t.hostIs s.m.hs ∧ t.fabricIs s.m.fs)) ∧
  ∀ (s : State) (src : Nat) (g : Engine), Serves s → s.m.fs.engines.get? src = some g →
    ∃ t, exec (.apertureLoad src) s = .next t ∧ Apart s t (portOf s src ++ [cApertureLoad]) [] [] [] [.zeros src] ∧
      Counted s t cApertureLoad 1 ∧ t.hostIs s.m.hs ∧ t.fabricIs s.m.fs

/-- R660, R661, R855: what goes unanswered. A load is issued again up to LOAD_TRIES times; a store that is not
acknowledged within ACK_TIMEOUT freezes its engine, with cause 0x04, and before that time nothing happens. (What of it
is the model's own choice or reading: log entries 16, 111 and 136.) -/
def Obligations.UnansweredRequestsTimeOut : Prop :=
  (∀ (s : State) (k : Nat) (l : LoadOut), Issues s → Settled s → s.m.fs.fab.loads.get? k = some l →
    (start s).fired l.at_ (fld ((start s).reg rFabTiming) 15 0) = true → l.issues < fld ((start s).reg rFabTiming) 19 16 →
    ∃ t, exec (.loadRetry k) s = .next t ∧
      Apart s t (portOf s l.engine ++ [cFabLoadRetry]) [] [] [] [.load l.engine l.addr l.len] ∧
      Counted s t cFabLoadRetry 1 ∧ t.hostIs s.m.hs ∧ t.fabricIs { s.m.fs with fab := { s.m.fs.fab with
        loads := s.m.fs.fab.loads.set k { l with issues := l.issues + 1, at_ := s.clk.fs.toNat } } }) ∧
  (∀ (s : State) (k : Nat) (l : LoadOut), Decides s → Settled s → s.m.fs.fab.loads.get? k = some l →
    (start s).fired l.at_ (fld ((start s).reg rFabTiming) 15 0) = false →
    ∃ t, exec (.loadRetry k) s = .next t ∧ Apart s t [] [] ∧ t.hostIs s.m.hs ∧ t.fabricIs s.m.fs) ∧
  ∀ (s : State) (e : Nat) (g : Engine) (q : Pool), Decides s → Settled s → s.m.hs.up = true → Attached s e g q →
    (q.exec ≠ none ∨ q.held ≠ none) →
    let due (x : StoreOut) : Bool := (start s).fired x.at_ (fld ((start s).reg rFabTiming) 15 0)
    (g.stores.any due = false →
      ∃ t, exec (.storeAckTimeout e) s = .next t ∧ Apart s t [] [] ∧ t.hostIs s.m.hs ∧ t.fabricIs s.m.fs) ∧
    (g.stores.any due = true →
    ∃ t, exec (.storeAckTimeout e) s = .next t ∧ EngineFrozen s t e g q 0x04 0 5 ∧ t.pending = s.pending ∧
      t.out.host = s.out.host ∧
      t.fabricIs { s.m.fs with engines := t.m.fs.engines, pools := t.m.fs.pools, fault := t.m.fs.fault })

/-- R694, R700 to R706: the memory ports. A block whose CRC verifies ends its retries, and is an F0 fault where it had
any; one whose CRC fails is read again up to RETRY_MAX times, and then counts as lost, with the extent that it lies in.
A retraining and a refresh read the refresh-rate status; a PHY request is granted. R614, R694: a round of a memory port.
It grants what the PHY has asked for, serves 64 accesses, or all where fewer wait, and of each class at least as many as
the class owns slots; the slots that the classes own are 64. (What of it is the model's own choice or reading: log
entries 33, 107 and 108.) -/
def Obligations.MemoryPortsAreServed : Prop :=
  (∀ (s : State) (port : Nat), port < s.idn.memPorts → s.m.fs.boot.up = true → s.m.fs.boot.shutDone = false →
      s.m.fs.twin.state ≠ .detached →
      let p := s.m.fs.memPorts.getD port {}
      let ports (x : MemPort) : FabricSide := { s.m.fs with memPorts := s.m.fs.memPorts.set port x }
      let drop (addr : Nat) : List MemRetry := p.retries.filter (·.addr ≠ addr)
      p.trained = true → p.failed = false →
      (∀ rate, ∃ t, exec (.memRefresh port rate) s = .next t ∧ Apart s t [] [] ∧ t.hostIs s.m.hs ∧
        t.fabricIs (ports { p with refresh := rate % 8 })) ∧
      (∀ ok rate, (start s).fired p.lastTrain ((start s).reg rMemRetrain) = true → (ok = true ∨ p.badRow + 1 ≠ 3) →
        ∃ t, exec (.memRetrain port ok rate) s = .next t ∧ Apart s t [cMemRetrains port] [] ∧
          Counted s t (cMemRetrains port) 1 ∧ t.hostIs s.m.hs ∧ t.fabricIs (ports { p with
            lastTrain := s.clk.fs.toNat, badRow := if ok then 0 else p.badRow + 1, refresh := rate % 8 })) ∧
      (∀ ok rate, (start s).fired p.lastTrain ((start s).reg rMemRetrain) = false →
        ∃ t, exec (.memRetrain port ok rate) s = .next t ∧ Apart s t [] [] ∧ t.hostIs s.m.hs ∧ t.fabricIs s.m.fs) ∧
      ((start s).halted = false → s.stalled = [] →
        ∃ t, exec (.dfiPhyRequest port) s = .next t ∧ Apart s t [] [] ∧ t.hostIs s.m.hs ∧
          t.fabricIs (ports { p with phyWaits := p.phyWaits + 1 })) ∧
      (∀ (addr : Nat) (data : List Byte) (crc : Word), (start s).halted = false → s.stalled = [] → addr % 256 = 0 →
        addr < (start s).dataRegion → data.length = 256 →
        (blockCrc port addr data = crc → p.retries.find? (·.addr = addr) = none →
          ∃ t, exec (.memReadReturn port addr data crc) s = .next t ∧ Apart s t [] [] ∧ t.hostIs s.m.hs ∧
            t.fabricIs (ports { p with retries := drop addr })) ∧
        (∀ r, blockCrc port addr data = crc → p.retries.find? (·.addr = addr) = some r → 0 < r.tries →
          ∃ t, exec (.memReadReturn port addr data crc) s = .next t ∧ Apart s t [cMemRetry port, cFault 0] [10] ∧
            Counted s t (cMemRetry port) 1 ∧ Counted s t (cFault 0) 1 ∧ t.hostIs s.m.hs ∧
            t.fabricIs { ports { p with retries := drop addr } with
              fault := { cls := 0, unit := 10, cause := 0x11, obj := 0, time := s.clk.fs.toNat } }) ∧
        let tries := match p.retries.find? (·.addr = addr) with | some r => r.tries | none => 0
        let limit := fld ((start s).reg rMemCfg) 10 8
        (blockCrc port addr data ≠ crc → tries < limit →
          ∃ t, exec (.memReadReturn port addr data crc) s = .next t ∧ Apart s t [] [] ∧ t.hostIs s.m.hs ∧
            t.fabricIs (ports { p with retries := drop addr ++ [{ addr := addr, tries := tries + 1 }] })) ∧
        (∀ e, blockCrc port addr data ≠ crc → limit ≤ tries → (start s).heldAt port addr = .extent e →
          s.m.fs.park.lost.get? e = none → (∀ x ∈ s.m.fs.copies, e ∉ x.2.extents) →
          (∀ x ∈ s.m.fs.seqs, (∀ r, x.2.park = some r → e ∉ r.extents) ∧ ∀ l, x.2.replay = some l → e ∉ l) →
          ∃ t, exec (.memReadReturn port addr data crc) s = .next t ∧ Apart s t [cMemLost port] [10] ∧
            Counted s t (cMemLost port) 1 ∧ t.hostIs s.m.hs ∧
            t.fabricIs { ports { p with retries := drop addr, lost := p.lost + 1 } with
              park := { s.m.fs.park with lost := s.m.fs.park.lost.set e () } }))) ∧
  (∀ (w : Work) (p : MemPort), (∀ j ∈ p.jobs, 0 < j.left) →
      let q := w.servedRound p
      let load (x : MemPort) (c : MemClass) : Nat := sumOf ((x.jobs.filter fun j => j.cls = c).map (·.left))
      Work.portLoad q = Work.portLoad p - 64 ∧ (∀ j ∈ q.jobs, 0 < j.left) ∧
      (∀ c, load q c ≤ load p c - w.ownedSlots c) ∧ sumOf (memClasses.map w.ownedSlots) = 64 ∧
      q = { p with jobs := q.jobs, turns := q.turns, phyWaits := 0, phyGrants := p.phyGrants + p.phyWaits })

/-- R805 to R811: export and records. COUNTER_EXPORT sends one reduction for a counter that has increased, as far as the
interval's budget goes, and counts it; OBS_BUDGET_INTERVAL stores a waiting digest record into the sink, or drops it
where nothing is left of the budget, and begins the next interval. (What of it is the model's own choice or reading: log
entries 15 and 73.) -/
def Obligations.ObservationsAreExported : Prop :=
  (∀ s : State, Issues s → (start s).reg64 rExportAddr ≠ 0 →
    (start s).fired s.m.fs.obu.lastExport ((start s).reg rExportCfg) = true →
    let base := (start s).reg64 rExportAddr
    let sent (k : Nat) : Nat := (s.m.fs.obu.exported.getD k 0).toNat
    let value (off : Nat) : Nat := (s.obs.ctr.getD off 0).toNat
    ((∀ k off, k < 16384 → Work.exportCounter k = some off → value off ≤ sent k) →
      ∃ t, exec .counterExport s = .next t ∧ Apart s t [] [] ∧ t.hostIs s.m.hs ∧
        t.fabricIs { s.m.fs with obu := { s.m.fs.obu with lastExport := s.clk.fs.toNat } }) ∧
    ∀ k off, k < 16384 → Work.exportCounter k = some off → sent k < value off → 256 ≤ s.m.fs.obu.left →
      (∀ j o, j < 16384 → j ≠ k → Work.exportCounter j = some o → value o ≤ sent j) →
      ∃ t, exec .counterExport s = .next t ∧
        Apart s t [cFabTx ((start s).obsPort (base + 8 * k)), cObuExports] [] [] []
          [.reduce (base + 8 * k) (value off - sent k)] ∧
        Counted s t cObuExports 1 ∧ t.hostIs s.m.hs ∧ t.fabricIs { s.m.fs with obu := { s.m.fs.obu with
          lastExport := s.clk.fs.toNat, left := s.m.fs.obu.left - 256
          exported := s.m.fs.obu.exported.set k (BitVec.ofNat 64 (value off)) } }) ∧
  (∀ s : State, Issues s → ((start s).reg64 rExportAddr = 0 ∨
    (start s).fired s.m.fs.obu.lastExport ((start s).reg rExportCfg) = false) →
    ∃ t, exec .counterExport s = .next t ∧ Apart s t [] [] ∧ t.hostIs s.m.hs ∧ t.fabricIs s.m.fs) ∧
  ∀ s : State, Issues s → s.m.fs.obu.restart = false →
    let next : Obu := { s.m.fs.obu with
      waiting := [], intervalAt := s.clk.fs.toNat, budgetNow := s.m.fs.obu.budget
      left := (start s).budgetBytes s.m.fs.obu.budget }
    ((start s).fired s.m.fs.obu.intervalAt 100 = false →
      ∃ t, exec .obsBudgetInterval s = .next t ∧ Apart s t [] [] ∧ t.hostIs s.m.hs ∧ t.fabricIs s.m.fs) ∧
    ((start s).fired s.m.fs.obu.intervalAt 100 = true →
      (s.m.fs.obu.waiting = [] →
        ∃ t, exec .obsBudgetInterval s = .next t ∧ Apart s t [] [] ∧ t.hostIs s.m.hs ∧
          t.fabricIs { s.m.fs with obu := next }) ∧
      (∀ n bits, s.m.fs.obu.waiting = [(n, bits)] → 256 ≤ s.m.fs.obu.left →
        let a := (start s).reg64 rSinkAddr + (start s).sinkOffset n
        ∃ t, exec .obsBudgetInterval s = .next t ∧
          Apart s t [cFabTx ((start s).obsPort a), cObuRecords] [] [] [] [.sink a (leBytes 64 bits)] ∧
          Counted s t cObuRecords 1 ∧ t.hostIs s.m.hs ∧ t.fabricIs { s.m.fs with obu := next }) ∧
      (∀ n bits, s.m.fs.obu.waiting = [(n, bits)] → s.m.fs.obu.left < 256 →
        ∃ t, exec .obsBudgetInterval s = .next t ∧ Apart s t [cObuDropped] [] ∧ Counted s t cObuDropped 1 ∧
          t.hostIs s.m.hs ∧ t.fabricIs { s.m.fs with obu := next }))

/-- R722, R744 to R746, R749: the pair forms and parts. TWIN_ATTACH of an unpaired instance whose twin shows the state
that R744 asks for makes it ATTACHING_A, whose first frame carries the mirror mode, and its reply waits for the end of
the attach; TWIN_ATTACH_DONE makes it PAIRED_A; TWIN_DETACH makes the ACTIVE UNPAIRED and the SHADOW DETACHED; an ACTIVE
that has not heard its twin for HB_LOSS is ISOLATED. Elsewhere each is BAD_STATE or does nothing. (What of it is the
model's own choice or reading: log entries 19, 21, 22, 126 and 135.) -/
def Obligations.PairsFormAndPart : Prop :=
  (∀ (s : State) (port : Nat) (p : Packet), Accepted s port opTwinAttach p →
    let mode := p.opf 192 192
    let ok (h : Heartbeat) : Prop := s.m.fs.twin.state = .unpaired ∧ (start s).ready = true ∧ (start s).beatMatches h = true ∧
      h.ready = true ∧ h.empty = true ∧ (mode = 0 ∨ h.parkGib = s.m.fs.park.gib)
    (∀ h at_, s.m.fs.twin.heartbeat = some (h, at_) → ok h →
      ∃ t l, exec (.twinAttach port p) s = .next t ∧ Waiting s t port opTwinAttach p (.attach s.clk.fs.toNat) ∧
        t.m.fs.twin.state = .attachingA ∧ t.m.fs.twin.mirror = mode ∧ t.fabricIs s.m.fs ∧
        t.out.frames = s.out.frames ++ (0, { fseq := 1, ackseq := 0, kind := some 4, body := .bulk (.mirror mode) }) :: l ∧
        ∀ f ∈ l, f.1 = 0) ∧
    ((∀ h at_, s.m.fs.twin.heartbeat = some (h, at_) → ¬ ok h) →
      ∃ t, exec (.twinAttach port p) s = .next t ∧ Apart s t [cRxBeats port, cStaleKey 0] [] [0] ∧ t.fabricIs s.m.fs ∧
        Answered s t port opTwinAttach p (Ans.bad .twinState) ∧ t.m.fs.twin.state = s.m.fs.twin.state)) ∧
  (∀ s : State, Awake s → s.m.fs.twin.state = .attachingA → (∀ x ∈ s.m.hs.ctxs, x.2.f2 = false) →
    NoneLeaves s → s.m.hs.up = true → ((start s).hctx 0).queue = [] →
    (((start s).hctx 0).acting = none ∨ ∃ i at_, ((start s).hctx 0).acting = some (i, .attach at_)) →
    ∃ t, exec .twinAttachDone s = .next t ∧ t.fabricIs s.m.fs ∧
      (s.m.fs.twin.link.acked < s.m.fs.twin.bulkEnd → t.m.fs.twin.state = .attachingA ∧ t.hostIs s.m.hs) ∧
      (s.m.fs.twin.bulkEnd ≤ s.m.fs.twin.link.acked → t.m.fs.twin.state = .pairedA ∧ ((start t).hctx 0).acting = none ∧
        ∀ i at_, ((start s).hctx 0).acting = some (i, .attach at_) → ∃ r, (messages t i.pkt.ctx.toNat) =
          messages s i.pkt.ctx.toNat ++ [.reply r] ∧ r.status = stOk ∧
          r.result = (start s).hnsDown (s.clk.fs.toNat - at_) % 2 ^ 32)) ∧
  (∀ (s : State) (port : Nat) (p : Packet), Accepted s port opTwinDetach p → s.m.fs.twin.heldStores = [] →
    s.m.fs.twin.heldRelays = [] → NoMirrorCopy s →
    let old := s.m.fs.twin.state
    let shadow := old = .attachingS ∨ old = .pairedS
    ∃ t a, exec (.twinDetach port p) s = .next t ∧ t.fabricIs s.m.fs ∧
      (shadow → Answered s.dropped t port opTwinDetach p a) ∧ (¬ shadow → Answered s t port opTwinDetach p a) ∧
      ((old = .attachingA ∨ old = .pairedA ∨ old = .isolated) → a = {} ∧ t.m.fs.twin.state = .unpaired ∧
        t.m.fs.twin.link.unacked = []) ∧
      (shadow → a = {} ∧ t.m.fs.twin.state = .detached) ∧
      ((old = .unpaired ∨ old = .taking) → a = Ans.bad .twinState ∧ t.m.fs.twin.state = old)) ∧
  ∀ s : State, Takes s → Settled s → s.m.fs.twin.state = .pairedA →
    ∃ t, exec .twinLossActive s = .next t ∧ Apart s t [] [14] ∧ OnlyLed s t s.m.fs ∧ t.hostIs s.m.hs ∧
      t.m.fs.twin.state = (if (start s).twinHeard then .pairedA else .isolated)

/-- R88, R691, R751 to R756: the takeover. TAKEOVER at a PAIRED SHADOW, or a twin lost for 2 × HB_LOSS with AUTO set,
fences every engine that is not frozen by a compare-and-swap of its EPOCH word, which is issued again while it goes
unanswered, or where its answer comes too late, and ends with its answer; when no fence is outstanding the instance is
UNPAIRED with each pool at its next epoch, and TAKEOVER_GRACE runs. (The instance of TAKEOVER_DONE here has one pool,
without a plan, and nothing parked or unreturned.) (What of it is the model's own choice or reading: log entries 27, 28,
116 and 140.) -/
def Obligations.ShadowsTakeOver : Prop :=
  (∀ (s : State) (port : Nat) (p : Packet), Accepted s port opTakeover p →
    (s.m.fs.twin.state = .pairedS → ∃ t, exec (.takeover port p) s = .next t ∧ Waiting s t port opTakeover p .takeover ∧
      TakingOver s t) ∧
    (s.m.fs.twin.state ≠ .pairedS → ∃ t, exec (.takeover port p) s = .next t ∧ t.fabricIs s.m.fs ∧
      Answered s t port opTakeover p (Ans.bad .twinState) ∧ t.m.fs.twin.state = s.m.fs.twin.state)) ∧
  (∀ s : State, Takes s → Settled s →
    let quiet := ∀ at_, s.m.fs.twin.link.lastValid = some at_ →
      (start s).fired at_ (2 * fld ((start s).reg rTwinCfg) 15 0) = true
    (s.m.fs.twin.state = .pairedS → quiet → bit ((start s).reg rTwinCfg) 16 = true →
      ∃ t, exec .twinLossShadow s = .next t ∧ t.hostIs s.m.hs ∧ TakingOver s t) ∧
    (s.m.fs.twin.state = .pairedS → quiet → bit ((start s).reg rTwinCfg) 16 = false → s.m.fs.twin.lost = false →
      s.m.hs.up = true →
      ∃ t, exec .twinLossShadow s = .next t ∧ t.m.fs.twin.state = .pairedS ∧ t.m.fs.twin.lost = true ∧
        t.m.fs.fault = { cls := 4, unit := 14, cause := 0x31, obj := 0, time := s.clk.fs.toNat } ∧
        t.fabricIs { s.m.fs with fault := t.m.fs.fault, speed := { s.m.fs.speed with f4 := true } }) ∧
    (s.m.fs.twin.state = .attachingS → quiet →
      ∃ t, exec .twinLossShadow s = .next t ∧ t.m.fs.twin.state = .detached ∧ t.fabricIs s.m.fs ∧ t.hostIs s.m.hs.dropped) ∧
    (¬ quiet → ∃ t, exec .twinLossShadow s = .next t ∧ t.m.fs.twin.state = s.m.fs.twin.state ∧ t.fabricIs s.m.fs ∧
      t.hostIs s.m.hs)) ∧
  (∀ (s : State) (e n tries at_ : Nat) (g : Engine) (q : Pool), Awake s → Settled s → s.m.fs.twin.state = .taking →
    s.m.fs.engines.get? e = some g → g.frozen = false → g.atomic = some (n, tries, at_) → s.m.fs.pools.get? g.pool = some q →
    let late := (start s).lapsed at_ (fld ((start s).reg rFabAtomic) 15 0)
    (∀ st, st = .applied ∨ st = .replayed → late = false → ∃ t, exec (.atomicReply e n st q.epoch) s = .next t ∧ t.hostIs s.m.hs ∧
      t.m.fs.twin.fencing = s.m.fs.twin.fencing.filter (· ≠ e) ∧ t.m.fs.engines.get? e = some { g with atomic := none } ∧
      t.fabricIs { s.m.fs with engines := t.m.fs.engines } ∧ t.out.fabric = s.out.fabric) ∧
    (∀ v, late = false → ∃ t, exec (.atomicReply e n .expired v) s = .next t ∧ t.hostIs s.m.hs ∧
      t.fabricIs { s.m.fs with fab := { s.m.fs.fab with nextLoad := s.m.fs.fab.nextLoad + 1, loads := t.m.fs.fab.loads } } ∧
      t.m.fs.fab.loads.get? s.m.fs.fab.nextLoad = some {
        engine := e, addr := g.desc.ctrlAddr, len := 4, issues := 1, at_ := s.clk.fs.toNat, firstAt := s.clk.fs.toNat
        why := .epochWord } ∧
      t.m.fs.twin.fencing = s.m.fs.twin.fencing ∧
      t.out.fabric = s.out.fabric ++ [.load e g.desc.ctrlAddr 4]) ∧
    (∀ st v, late = true → tries < fld ((start s).reg rFabAtomic) 19 16 → ∃ t, exec (.atomicReply e n st v) s = .next t ∧
      t.hostIs s.m.hs ∧ Counted s t cFabAtomicRetry 1 ∧ t.m.fs.twin.fencing = s.m.fs.twin.fencing ∧
      t.m.fs.engines.get? e = some { g with atomic := some (n, tries + 1, s.clk.fs.toNat), nextAseq := n } ∧
      t.out.fabric = s.out.fabric ++ [.cas e ((start s).reg rFabSrc) n g.desc.ctrlAddr q.epoch (q.epoch + 1)]) ∧
    ((start s).fired at_ (fld ((start s).reg rFabAtomic) 15 0) = true → tries < fld ((start s).reg rFabAtomic) 19 16 →
      ∃ t, exec (.atomicRetry e) s = .next t ∧ t.hostIs s.m.hs ∧ Counted s t cFabAtomicRetry 1 ∧
        t.m.fs.engines.get? e = some { g with atomic := some (n, tries + 1, s.clk.fs.toNat), nextAseq := n } ∧
        t.out.fabric = s.out.fabric ++ [.cas e ((start s).reg rFabSrc) n g.desc.ctrlAddr q.epoch (q.epoch + 1)]) ∧
    ((start s).fired at_ (fld ((start s).reg rFabAtomic) 15 0) = false →
      ∃ t, exec (.atomicRetry e) s = .next t ∧ t.hostIs s.m.hs ∧ t.fabricIs s.m.fs)) ∧
  (∀ (s : State) (n : Nat) (q : Pool), Awake s → Settled s → s.m.fs.twin.state = .taking → s.m.fs.twin.fencing = [] →
    s.m.fs.twin.replies = [] → s.m.fs.twin.waiting = [] → s.m.fs.pools = [(n, q)] → q.plans = [] →
    (∀ x ∈ s.m.fs.seqs, x.2.unreturned = [] ∧ x.2.park = none) → s.m.fs.copies = [] →
    (∀ x ∈ s.m.hs.ctxs, x.2.queue = []) →
    ∃ t q', exec .takeoverDone s = .next t ∧ t.hostIs s.m.hs ∧ t.m.fs.twin.state = .unpaired ∧
      t.m.fs.twin.graceAt = some s.clk.fs.toNat ∧ t.m.fs.pools = [(n, q')] ∧ q'.epoch = q.epoch + 1 ∧
      q'.mirror = [] ∧ q'.pages = q.pages ∧ q'.returned = q.returned ∧
      (∀ e g, s.m.fs.engines.get? e = some g → g.pool = n → ∃ g', t.m.fs.engines.get? e = some g' ∧ g'.fresh = true ∧
        g'.ringPos = [] ∧ g'.desc = g.desc ∧ g'.frozen = g.frozen) ∧
      t.fabricIs { s.m.fs with
        pools := t.m.fs.pools, engines := t.m.fs.engines, units := t.m.fs.units, seqs := t.m.fs.seqs }) ∧
  ∀ (s : State) (at_ : Nat), Awake s → s.m.fs.twin.graceAt = some at_ →
    ∃ t, exec .takeoverGraceExpiry s = .next t ∧ t.fabricIs s.m.fs ∧ t.hostIs s.m.hs ∧ Apart s t [] [] ∧
      ((start s).fired at_ ((start s).reg rTwinGrace) = true → t.m.fs.twin.graceAt = none) ∧
      t.m.fs.twin.recent = s.m.fs.twin.recent ∧
      ((start s).fired at_ ((start s).reg rTwinGrace) = false → t.m.fs.twin.graceAt = some at_)

/-- R728, R729, R743, R745, R746, R749, R750: heartbeats and resent frames. A heartbeat goes out every 10 µs; one that
arrives with a good FCRC is kept and acknowledges frames, and what it shows moves the pairing state; a bad one is
counted. A link without progress for 20 µs sends its unacknowledged frames again, in order. (What of it is the model's
own choice or reading: log entries 20, 30, 114 and 139.) -/
def Obligations.HeartbeatsMoveThePair : Prop :=
  (∀ s : State, s.m.fs.boot.up = true → s.m.fs.boot.shutDone = false →
    ∃ t l, exec .heartbeatSend s = .next t ∧ t.fabricIs s.m.fs ∧ t.hostIs s.m.hs ∧ t.m.fs.twin.state = s.m.fs.twin.state ∧
      ((∀ at_, s.m.fs.twin.link.lastSent = some at_ → (start s).fired at_ 100 = true) →
        t.m.fs.twin.link.lastSent = some s.clk.fs.toNat ∧ t.out.frames = s.out.frames ++
          (0, { fseq := 0, ackseq := (start s).ackseq 0, kind := some 1, body := .heartbeat ((start s).beatNow 0) }) :: l)) ∧
  (∀ (s : State) (n : Nat) (crc : Word) (h : Heartbeat), (start s).fsTakes = true → Settled s → crc ≠ beatCrc 0x01 n h →
    ∃ t, exec (.heartbeatRx n crc h) s = .next t ∧ t.fabricIs s.m.fs ∧ t.hostIs s.m.hs ∧
      Apart s t [cTwinFrameBad] [] ∧ Counted s t cTwinFrameBad 1 ∧ t.m.fs.twin.heartbeat = s.m.fs.twin.heartbeat) ∧
  (∀ (s : State) (n : Nat) (crc : Word) (h : Heartbeat), Takes s → Settled s → crc = beatCrc 0x01 n h →
    s.m.fs.twin.heldStores = [] → s.m.fs.twin.heldRelays = [] → NoMirrorCopy s → (start s).lossDue = false →
    let old := s.m.fs.twin.state
    old ≠ .pairedS →
    ∃ t, exec (.heartbeatRx n crc h) s = .next t ∧ OnlyLed s t { s.m.fs with boot := t.m.fs.boot } ∧
      t.hostIs (if t.m.fs.twin.state = .detached ∧ old ≠ .detached then s.m.hs.dropped else s.m.hs) ∧
      t.m.fs.boot.peerSeen = true ∧ t.m.fs.boot.phase = s.m.fs.boot.phase ∧
      t.m.fs.twin.heartbeat = some (h, s.clk.fs.toNat) ∧ t.m.fs.twin.link.lastValid = some s.clk.fs.toNat ∧
      (s.m.fs.boot.peerSeen = false →
        t.m.fs.boot.peerMatch = (decide (old = .unpaired) && (start s).beatMatches h)) ∧
      (old = .unpaired → t.m.fs.twin.state = .unpaired) ∧
      ((old = .attachingA ∨ old = .pairedA) →
        t.m.fs.twin.state = (if h.state = 7 then .unpaired else old) ∧
        (h.state ≠ 7 → s.m.fs.twin.link.acked < n → n < s.m.fs.twin.link.nextSeq → t.m.fs.twin.link.acked = n)) ∧
      (old = .attachingS → t.m.fs.twin.state = (if h.state = 3 then .pairedS else .attachingS) ∧
        (h.state = 3 → t.m.fs.twin.takeovers = h.takeovers)) ∧
      (old = .isolated → t.m.fs.twin.state =
        (if h.state = 4 ∧ h.takeovers = s.m.fs.twin.takeovers then .pairedA
        else if h.state = 6 ∨ h.state = 0 ∨ s.m.fs.twin.takeovers < h.takeovers then .detached
        else if h.state = 7 then .unpaired else .isolated))) ∧
  ∀ (s : State) (k : Nat), Awake s → k ≤ 3 → (k = 0 → s.m.fs.twin.state ≠ .isolated) →
    ((start s).link k).unacked ≠ [] → (start s).fired ((start s).link k).ackAt 200 = true →
    ∃ t l, exec (.frameResend k) s = .next t ∧ t.hostIs s.m.hs ∧ t.fabricIs { s.m.fs with peer := t.m.fs.peer } ∧
      t.out.frames = s.out.frames ++ ((start s).link k).unacked.map (fun f => (k, (start s).frameNow k f)) ++ l ∧
      (k ≠ 0 → ((start t).link k).ackAt = s.clk.fs.toNat)

/-- R88, R728, R731, R732, R734, R735, R742 to R744: what a SHADOW does with the frames of its ACTIVE, which come in
time. In order, a COMMAND waits undecided, and the image that it loads is fetched; a DECISION or a BULK part is applied,
the outcomes of an image load are compared, and PARK_DATA is written into the copy that it names. The first frame to an
empty unpaired instance begins its attach, which leaves nothing of its own in what the pair mirrors. A frame out of its
order is discarded and counted, and so is one that comes after the heartbeat timer of an attach has fired. An ACTIVE
marks the extent that its twin has lost. (What of it is the model's own choice or reading: log entries 19, 26, 114 and
139.) -/
def Obligations.ShadowsFollowFrames : Prop :=
  (∀ (s : State) (f : FrameIn) (port op : Nat) (p : Packet), Takes s →
    (s.m.fs.twin.state = .pairedS ∨ s.m.fs.twin.state = .attachingS) → (start s).lossDue = false →
    InTurn s f →
    let i : QItem := { port := port, opcode := op, pkt := p, noted := s.clk.hs.toNat }
    let a := p.opf 287 224
    ∃ t, exec (.twinCommandFrame f port op p) s = .next t ∧ t.hostIs s.m.hs ∧
      FrameTaken s t { f with link := 0 } ∧ t.m.fs.twin.waiting = s.m.fs.twin.waiting ++ [i] ∧
      (t.m.fs.twin.recent.getD p.ctx.toNat []).head? = some (p.cseq, p.mac) ∧
      (Work.fetchesImage op p = false → t.fabricIs s.m.fs ∧ t.m.fs.twin.images = s.m.fs.twin.images ∧
        t.out.fabric = s.out.fabric) ∧
      (Work.fetchesImage op p = true → t.m.fs.twin.images = s.m.fs.twin.images ++ [(i, f.fseq)] ∧
        (s.m.fs.twin.images ≠ [] → t.fabricIs s.m.fs ∧ t.out.fabric = s.out.fabric) ∧
        (s.m.fs.twin.images = [] → t.fabricIs { s.m.fs with fab := t.m.fs.fab } ∧
          t.out.fabric = s.out.fabric ++ [.load (Config.imageHome a) a (p.opf 319 288)]))) ∧
  (∀ (s : State) (f : FrameIn) (d : Decision), Takes s → Settled s →
    (s.m.fs.twin.state = .pairedS ∨ s.m.fs.twin.state = .attachingS) → (start s).lossDue = false →
    InTurn s f →
    ((∀ c k a b, d ≠ .imageOutcome c k a b) → (∀ n h, d = .hostCtx n h → h.f2 = false) →
      ∃ t, exec (.twinDecisionFrame f d) s = .next t ∧ FrameTaken s t { f with link := 0 } ∧ Applied s t d ∧
        ((∀ n h, d ≠ .hostCtx n h) → (∀ n, d ≠ .keyGrace n) → t.hostIs s.m.hs)) ∧
    (∀ c k a b, d = .imageOutcome c k a b →
      let mine := s.m.fs.twin.outcomes.find? fun o => o.1 = c && o.2.1 = k && o.2.2.2.2
      ∃ t, exec (.twinDecisionFrame f d) s = .next t ∧ FrameTaken s t { f with link := 0 } ∧ t.fabricIs s.m.fs ∧
        t.hostIs (if t.m.fs.twin.state = .detached then s.m.hs.dropped else s.m.hs) ∧
        (mine = none → t.m.fs.twin.state = s.m.fs.twin.state ∧
          t.m.fs.twin.outcomes = s.m.fs.twin.outcomes ++ [(c, k, a, b, false)]) ∧
        ∀ o, mine = some o → t.m.fs.twin.outcomes = s.m.fs.twin.outcomes.filter (· ≠ o) ∧
          t.m.fs.twin.state = (if o.2.2.1 = a ∧ o.2.2.2.1 = b then s.m.fs.twin.state else .detached))) ∧
  (∀ (s : State) (f : FrameIn) (d : Decision), Takes s →
    (s.m.fs.twin.state = .pairedS ∨ s.m.fs.twin.state = .attachingS) → (start s).lossDue = false →
    InTurn s f →
    ∃ t, exec (.twinBulkFrame f d) s = .next t ∧ FrameTaken s t { f with link := 0 } ∧ Applied s t d ∧
      ((∀ n h, d ≠ .hostCtx n h) → (∀ n, d ≠ .keyGrace n) → t.hostIs s.m.hs)) ∧
  (∀ (s : State) (f : FrameIn) (m : Nat), Takes s → s.m.fs.twin.state = .unpaired → (start s).emptyBit = true →
    f.fseq = 1 → f.crcOk = true →
    ∃ t, exec (.twinBulkFrame f (.mirror m)) s = .next t ∧ t.m.fs.twin.state = .attachingS ∧ t.m.fs.twin.mirror = m ∧
      t.m.fs.twin.link.taken = 1 ∧ t.fabricIs (start s).emptied.m.fs ∧
      t.hostIs (start s).emptied.m.hs) ∧
  (∀ (s : State) (f : FrameIn) (n off : Nat) (bs : List Byte), Takes s →
    (s.m.fs.twin.state = .pairedS ∨ s.m.fs.twin.state = .attachingS) → (start s).lossDue = false →
    InTurn s f →
    (∃ t, exec (.twinParkDataFrame f n off bs true) s = .next t ∧ t.hostIs s.m.hs ∧ FrameTaken s t { f with link := 0 } ∧
      (∀ k, s.m.fs.copies.get? n = some k → t.fabricIs { s.m.fs with
        memPorts := t.m.fs.memPorts, copies := s.m.fs.copies.set n { k with bytes := Work.patchBytes k.bytes bs off } }) ∧
      (s.m.fs.copies.get? n = none → t.fabricIs s.m.fs)) ∧
    ∃ t, exec (.twinParkDataFrame f n off bs false) s = .next t ∧ t.hostIs s.m.hs ∧ FrameTaken s t { f with link := 0 } ∧
      (∀ r, ((start s).seq n).park = some r → ((start t).seq n).park = some { r with bytes := Work.patchBytes r.bytes bs off } ∧
        (∀ k, k ≠ n → (start t).seq k = (start s).seq k) ∧
        t.fabricIs { s.m.fs with seqs := t.m.fs.seqs, memPorts := t.m.fs.memPorts }) ∧
      (((start s).seq n).park = none → ∀ k, (start t).seq k = (start s).seq k)) ∧
  (∀ (s : State) (f : FrameIn) (cmd : Instr), Takes s → Settled s →
    ((∃ port op p, cmd = .twinCommandFrame f port op p) ∨ (∃ d, cmd = .twinDecisionFrame f d) ∨
      (∃ d, cmd = .twinBulkFrame f d) ∨ ∃ n off bs x, cmd = .twinParkDataFrame f n off bs x) →
    ((s.m.fs.twin.state = .pairedS ∨ s.m.fs.twin.state = .attachingS) → (start s).lossDue = false →
      ¬ InTurn s f →
      ∃ t, exec cmd s = .next t ∧ t.hostIs s.m.hs ∧ t.fabricIs s.m.fs ∧ Apart s t [cTwinFrameBad] [] ∧
        Counted s t cTwinFrameBad 1 ∧ ((start t).link 0).taken = ((start s).link 0).taken) ∧
    (s.m.fs.twin.state = .attachingS → (start s).lossDue = true →
      ∃ t, exec cmd s = .next t ∧ t.hostIs s.m.hs.dropped ∧ OnlyLed s t s.m.fs ∧ Counted s t cTwinFrameBad 1 ∧
        t.m.fs.twin.state = .detached)) ∧
  ∀ (s : State) (f : FrameIn) (e : Nat), Takes s → Settled s → s.m.fs.twin.state = .pairedA → (start s).lossDue = false →
    InTurn s f → s.m.fs.twin.heldStores = [] → s.m.fs.twin.heldRelays = [] → NoMirrorCopy s →
    (∀ x ∈ s.m.fs.copies, e ∉ x.2.extents) →
    (∀ x ∈ s.m.fs.seqs, (∀ r, x.2.park = some r → e ∉ r.extents) ∧ ∀ l, x.2.replay = some l → e ∉ l) →
    ∃ t, exec (.twinDecisionFrame f (.lost e)) s = .next t ∧ FrameTaken s t { f with link := 0 } ∧ t.hostIs s.m.hs ∧
      t.fabricIs { s.m.fs with park := { s.m.fs.park with lost := t.m.fs.park.lost } } ∧
      Written s.m.fs.park.lost t.m.fs.park.lost e (some ())

/-- R88, R727 to R729, R761 to R764: the peer links. A HELLO goes out on each link every 10 µs; one that arrives with a
good FCRC shows whether the link is up or miswired; a link unheard for PEER_LOSS is down, and a HELLO that comes after
that time has lost (R88). A message for another member is passed on over the peer port of the lowest differing bit.
(What of it is the model's own choice or reading: log entries 20, 81 and 114.) -/
def Obligations.PeerLinksComeUpAndGoDown : Prop :=
  (∀ s : State, s.m.fs.boot.up = true → s.m.fs.boot.shutDone = false →
    ∃ t, exec .helloSend s = .next t ∧ t.hostIs s.m.hs ∧ t.fabricIs { s.m.fs with peer := t.m.fs.peer } ∧
      ∀ i, i < 3 → (∀ at_, ((start s).link (i + 1)).lastSent = some at_ → (start s).fired at_ 100 = true) →
        Sent s t (i + 1) (.hello ((start s).beatNow s.idn.grpPos)) ∧
        ((start t).link (i + 1)).lastSent = some s.clk.fs.toNat) ∧
  (∀ (s : State) (k n : Nat) (crc : Word) (h : Heartbeat), (start s).fsTakes = true → 1 ≤ k → k ≤ 3 →
    let right := h.pos = s.idn.grpPos ^^^ 2 ^ (k - 1) ∧ h.version = 0x00030100 ∧ h.config = b01 s.idn.isM
    (crc = beatCrc 0x10 n h → (start s).linkLate k = false → ∃ t, exec (.helloRx k n crc h) s = .next t ∧
      t.hostIs s.m.hs ∧ Apart s t [] [15] ∧
      t.fabricIs { s.m.fs with peer := t.m.fs.peer, ctxs := t.m.fs.ctxs } ∧
      ((start t).link k).lastHello = some h ∧ ((start t).link k).lastValid = some s.clk.fs.toNat ∧
      (right → ((start t).link k).up = true ∧ ((start t).link k).miswired = false) ∧
      (¬ right → ((start t).link k).up = false ∧ ((start t).link k).miswired = true)) ∧
    (crc = beatCrc 0x10 n h → (start s).linkLate k = true → ∃ t, exec (.helloRx k n crc h) s = .next t ∧
      t.hostIs s.m.hs ∧ Apart s t [] [15] ∧ ((start t).link k).up = false ∧
      ((start t).link k).lastHello = ((start s).link k).lastHello ∧
      t.fabricIs { s.m.fs with peer := t.m.fs.peer, ctxs := t.m.fs.ctxs }) ∧
    (crc ≠ beatCrc 0x10 n h → ∃ t, exec (.helloRx k n crc h) s = .next t ∧ t.hostIs s.m.hs ∧ Apart s t [] [] ∧
      t.fabricIs s.m.fs)) ∧
  (∀ (s : State) (k at_ : Nat), (start s).fsTakes = true → 1 ≤ k → k ≤ 3 → ((start s).link k).up = true →
    ((start s).link k).lastValid = some at_ →
    ∃ t, exec (.peerLinkLoss k) s = .next t ∧ t.hostIs s.m.hs ∧ Apart s t [] [15] ∧
      ((start s).fired at_ (start s).peerLoss = false → t.fabricIs s.m.fs) ∧
      ((start s).fired at_ (start s).peerLoss = true → ((start t).link k).up = false ∧
        ((start t).link k).downAt = s.clk.fs.toNat ∧
        t.fabricIs { s.m.fs with peer := t.m.fs.peer, ctxs := t.m.fs.ctxs })) ∧
  ∀ (s : State) (f : FrameIn) (src dest : Nat) (m : PeerMsg), Takes s → Arriving s f →
    ∃ t, exec (.peerMessageTransit f src dest m) s = .next t ∧ t.hostIs s.m.hs ∧ FrameTaken s t f ∧ Apart s t [] [] ∧
      t.fabricIs { s.m.fs with peer := t.m.fs.peer } ∧
      ∀ i, Reaches s dest i → Sent s t (i + 1) (.peer src dest (Work.sentMsg m))

/-- R771 to R776: forwarded admissions. A SUBMIT whose prefix handle another member homes waits for that member's
answer; the home decides a FORWARD with the next number and keeps its answer for repeats; the answer becomes the reply;
a forward that goes unanswered is sent again, and is NO_PREFIX in the end; ring records come back to the member that
took the SUBMIT. (What of it is the model's own choice or reading: log entries 79, 81, 94 and 116.) -/
def Obligations.ForwardedAdmissions : Prop :=
  (∀ (s : State) (port : Nat) (p : Packet), Accepted s port opSubmit p →
    let dest := prefixHome p.handle.toNat
    let num := s.m.fs.peer.nextForward.getD dest 1
    (submitFields p).form = 1 → (prefixOwner p.handle.toNat = 0 ∨ prefixOwner p.handle.toNat = p.ctx.toNat) →
    (start s).groupEn = true → dest ≠ s.idn.grpPos →
    ∃ t pkt b, exec (.submit port p []) s = .next t ∧ Waiting s t port opSubmit p (.forward dest num) ∧
      Counted s t cPeerFwdOut 1 ∧ t.m.fs.peer.nextForward = s.m.fs.peer.nextForward.set dest (num + 1) ∧
      t.m.fs.peer.forwards = s.m.fs.peer.forwards ++ [{
        dest := dest, num := num, port := port, pkt := pkt, budget := b, at_ := s.clk.fs.toNat, firstAt := s.clk.fs.toNat }] ∧
      pkt.ctx = p.ctx ∧ pkt.cseq = p.cseq ∧ t.fabricIs { s.m.fs with peer := t.m.fs.peer } ∧
      ∀ i, Reaches s dest i → Sent s t (i + 1) (.peer s.idn.grpPos dest (Work.sentMsg (.forward num port pkt b)))) ∧
  (∀ (s : State) (f : FrameIn) (src dest num port budget : Nat) (p : Packet), Takes s → Arriving s f →
    (start s).isMember dest = true → (start s).addressee dest = true →
    let old := s.m.fs.peer.answers.getD src (0, [])
    (num = old.1 + 1 → ∃ t r, exec (.peerForward f src dest num port p budget) s = .next t ∧ t.hostIs s.m.hs ∧
      FrameTaken s t f ∧ (t.m.fs.peer.answers.getD src (0, [])).1 = num ∧
      (t.m.fs.peer.answers.getD src (0, [])).2.get? num = some r ∧ r.opcode = opSubmit ∧ r.cseq = p.cseq.toNat ∧
      (∀ i, Reaches s src i → Sent s t (i + 1) (.peer s.idn.grpPos src (.answer num r))) ∧
      ((start s).readyFor opSubmit = false → r.status = stNotReady ∧ Counted s t cPeerFwdIn 1 ∧
        t.fabricIs { s.m.fs with peer := t.m.fs.peer }) ∧
      let x := ((start s).requestOf port (some (src, num)) p budget).2.1
      ∀ a, (start s).readyFor opSubmit = true → (start s).admissionTests x = .error a →
        r.status = a.status ∧ r.result = a.result ∧ t.fabricIs { s.m.fs with
          peer := t.m.fs.peer
          memPorts := (if x.f.form = 1 then (start s).queueHandle x.handle 2 (prefixOwner x.handle) else start s).fs.memPorts }) ∧
    ∀ r, num ≠ old.1 + 1 → old.2.get? num = some r → ∃ t, exec (.peerForward f src dest num port p budget) s = .next t ∧
      t.hostIs s.m.hs ∧ FrameTaken s t f ∧ t.fabricIs { s.m.fs with peer := t.m.fs.peer } ∧
      t.m.fs.peer.answers = s.m.fs.peer.answers ∧
      ∀ i, Reaches s src i → Sent s t (i + 1) (.peer s.idn.grpPos src (.answer num r))) ∧
  (∀ (s : State) (f : FrameIn) (src dest num : Nat) (r : Reply) (x : Forward) (i : QItem), Takes s → Arriving s f →
    s.m.hs.up = true → (start s).isMember dest = true → (start s).addressee dest = true →
    (s.m.fs.peer.forwards.find? fun y => y.dest = src && y.num = num) = some x → i.pkt.ctx = x.pkt.ctx →
    (start s).forwardLate src num = false →
    ((start s).hctx x.pkt.ctx.toNat).acting = some (i, .forward src num) → ((start s).hctx x.pkt.ctx.toNat).queue = [] →
    ∃ t, exec (.peerAnswer f src dest num r) s = .next t ∧ FrameTaken s t f ∧
      ((start t).hctx x.pkt.ctx.toNat).acting = none ∧
      messages t x.pkt.ctx.toNat = messages s x.pkt.ctx.toNat ++ [.reply r] ∧
      t.m.fs.peer.forwards = s.m.fs.peer.forwards.filter (· ≠ x) ∧
      t.m.fs.peer.relayPort = s.m.fs.peer.relayPort ++
        (if r.status = stOk then [(src, num, x.port, x.pkt.ctx.toNat)] else []) ∧
      t.fabricIs { s.m.fs with peer := t.m.fs.peer }) ∧
  (∀ (s : State) (dest num : Nat) (x : Forward), Decides s →
    (s.m.fs.peer.forwards.find? fun y => y.dest = dest && y.num = num) = some x →
    (∃ t, exec (.forwardRetry dest num) s = .next t ∧ t.hostIs s.m.hs ∧ Apart s t [] [] ∧
      t.fabricIs { s.m.fs with peer := t.m.fs.peer } ∧
      ((start s).fired x.at_ 500 = true → ∀ i, Reaches s dest i → Sent s t (i + 1) (.peer s.idn.grpPos dest
        (Work.sentMsg (.forward num x.port x.pkt (x.budget - (start s).hnsUp (s.clk.fs.toNat - x.firstAt))))))) ∧
    ∀ i, (start s).fired x.firstAt (2 * (start s).peerLoss) = true → i.pkt.ctx = x.pkt.ctx → s.m.hs.up = true →
      ((start s).hctx x.pkt.ctx.toNat).acting = some (i, .forward dest num) → ((start s).hctx x.pkt.ctx.toNat).queue = [] →
      ∃ t, exec (.forwardLost dest num) s = .next t ∧ Counted s t cPeerFwdLost 1 ∧
        t.m.fs.peer.forwards = s.m.fs.peer.forwards.filter (· ≠ x) ∧ ((start t).hctx x.pkt.ctx.toNat).acting = none ∧
        messages t x.pkt.ctx.toNat = messages s x.pkt.ctx.toNat ++
          [.reply (replyTo i.opcode i.pkt (Ans.refuse stNoPrefix))]) ∧
  (∀ (s : State) (pos : Nat), Decides s →
    ∃ t, exec (.forwardPathLost pos) s = .next t ∧
      ((start s).undeliverable pos = false → t.fabricIs s.m.fs ∧ t.hostIs s.m.hs) ∧
      ((start s).undeliverable pos = true → t.m.fs.peer.relays = s.m.fs.peer.relays.filter (fun r => r.1 ≠ pos) ∧
        ∀ slot e, s.m.fs.rqt.get? slot = some e →
          let gone := e.st.live = true ∧ ∃ n, ((start s).seq slot).home = some (pos, n)
          (gone → ((start t).entry slot).st.live = false ∧ ((start t).entry slot).outcome = 3) ∧
          (¬ gone → (start t).entry slot = e))) ∧
  ∀ (s : State) (f : FrameIn) (src dest num : Nat), Takes s → Arriving s f → s.m.hs.up = true →
    (start s).isMember dest = true → (start s).addressee dest = true →
    (∀ a b r port c, (s.m.fs.peer.relayPort.find? fun x => x.1 = src && x.2.1 = num) = some (a, b, port, c) →
      ∃ t, exec (.peerRelay f src dest num (some r)) s = .next t ∧ FrameTaken s t f ∧
        messages t c = messages s c ++ [.ring r] ∧ t.fabricIs { s.m.fs with peer := t.m.fs.peer }) ∧
    ∀ a b r, s.m.fs.peer.relays = a ++ (src, num, r) :: b → (∀ x ∈ a, x.1 = src → x.2.1 ≠ num) →
      ∃ t, exec (.peerRelay f src dest num none) s = .next t ∧ FrameTaken s t f ∧ t.hostIs s.m.hs ∧
        t.m.fs.peer.relays = a ++ b ∧ t.fabricIs { s.m.fs with peer := t.m.fs.peer }

/-- R765 to R769: quotas. At the end of an interval a member reports its usage and its slice of each quota to the
coordinator; above its target it releases what it does not use; a grant adds to its slice. (What of it is the model's
own choice or reading: log entries 80 and 146.) -/
def Obligations.QuotasAreRebalanced : Prop :=
  (∀ (s : State), Decides s → (start s).groupEn = true → (start s).isMember s.idn.grpPos = true →
    (start s).coordinates = false →
    ∃ t, exec .quotaRebalance s = .next t ∧ t.hostIs s.m.hs ∧ Apart s t [] [] ∧
      t.fabricIs { s.m.fs with peer := t.m.fs.peer } ∧
      ((start s).fired s.m.fs.peer.lastRebal (start s).rebalInterval = false → t.m.fs.peer = s.m.fs.peer) ∧
      ((start s).fired s.m.fs.peer.lastRebal (start s).rebalInterval = true → t.m.fs.peer.lastRebal = s.clk.fs.toNat ∧
        ∀ c park i, 1 ≤ c → c ≤ 255 → (start s).quota c park ≠ 0 → Reaches s (start s).coordinator i →
          Sent s t (i + 1) (.peer s.idn.grpPos (start s).coordinator
            (.quota (.report c park ((start s).usageOf c park) ((start s).sliceOf c park)))))) ∧
  ∀ (s : State) (f : FrameIn) (src dest c : Nat) (park : Bool), Takes s → Arriving s f →
    (start s).isMember dest = true → (start s).addressee dest = true →
    (∀ n, ∃ t, exec (.quotaMessage f src dest (.grant c park n)) s = .next t ∧ t.hostIs s.m.hs ∧ FrameTaken s t f ∧
      (start t).sliceOf c park = (start s).sliceOf c park + n ∧
      t.fabricIs { s.m.fs with peer := t.m.fs.peer, ctxs := t.m.fs.ctxs }) ∧
    (∀ goal, ∃ t, exec (.quotaMessage f src dest (.target c park goal)) s = .next t ∧ t.hostIs s.m.hs ∧
      FrameTaken s t f ∧
      let n := Nat.min ((start s).sliceOf c park - goal) ((start s).sliceOf c park - (start s).usageOf c park)
      (start t).sliceOf c park = (start s).sliceOf c park - n ∧ Counted s t cPeerQuotaMoves n ∧
      t.fabricIs { s.m.fs with peer := t.m.fs.peer, ctxs := t.m.fs.ctxs } ∧
      ∀ i, Reaches s src i → Sent s t (i + 1) (.peer s.idn.grpPos src (.quota (.released c park n)))) ∧
    ∀ n, s.m.fs.peer.wants = [] → ∃ t, exec (.quotaMessage f src dest (.released c park n)) s = .next t ∧
      t.hostIs s.m.hs ∧ FrameTaken s t f ∧ (start t).sliceOf c park = (start s).sliceOf c park + n ∧
      t.fabricIs { s.m.fs with peer := t.m.fs.peer, ctxs := t.m.fs.ctxs }

/-- R777 to R780: migration. A write to PEER_MIGRATE sends a finished park copy's bytes to the member that it names; the
destination charges them or has no room, serves a restore's read, and frees them when they are returned; copies at a
member without a path are lost with their sequences. (What of it is the model's own choice or reading: log entries 77
and 81.) -/
def Obligations.ParkCopiesMigrate : Prop :=
  (∀ (s : State) (h dest i : Nat) (r : ParkRec), Decides s → (start s).groupEn = true →
    let slot := handleSlot h
    let e := (start s).entry slot
    ((start s).seq slot).park = some r → e.fl.issued = true → handleGen h = e.gen → e.st = .parked → r.copy = .done →
    r.restore = .none → r.away = none → (start s).migrating slot = false → Reaches s dest i →
    ∃ t, exec (.peerMigrateWrite h dest) s = .next t ∧ t.hostIs s.m.hs ∧
      t.m.fs.peer.migrations = s.m.fs.peer.migrations ++ [{ slot := slot, dest := dest }] ∧
      ∃ n, Sent s t (i + 1) (.peer s.idn.grpPos dest (.migData e.ctx (seqHandle slot e) n r.bytes))) ∧
  (∀ (s : State) (f : FrameIn) (src dest c h n : Nat) (bs : List Byte), Takes s → Arriving s f →
    (start s).isMember dest = true → (start s).addressee dest = true →
    ∃ t, exec (.migDataFrame f src dest (.migData c h n bs)) s = .next t ∧ t.hostIs s.m.hs ∧ FrameTaken s t f ∧
      (∀ i, Reaches s src i → Sent s t (i + 1) (.peer s.idn.grpPos src (.migTaken h ((start s).mayCharge c n)))) ∧
      ((start s).mayCharge c n = false → t.fabricIs { s.m.fs with peer := t.m.fs.peer }) ∧
      ((start s).mayCharge c n = true → ((start t).fctx c).parkUsed = ((start s).fctx c).parkUsed + n ∧
        ∃ l, t.m.fs.park.guests = s.m.fs.park.guests ++
          [{ member := src, seq := h, ctx := c, extents := l, bytes := bs }])) ∧
  (∀ (s : State) (f : FrameIn) (src dest h : Nat) (g : Guest), Takes s → Arriving s f → (start s).isMember dest = true →
    (start s).addressee dest = true → (s.m.fs.park.guests.find? fun g => g.member = src && g.seq = h) = some g →
    (∃ t, exec (.migratedExtentRead f src dest h) s = .next t ∧ t.hostIs s.m.hs ∧ FrameTaken s t f ∧
      t.fabricIs { s.m.fs with
        peer := t.m.fs.peer
        memPorts := ((start s).queueExtents g.extents g.bytes.length .migrate g.ctx (.guest h)).fs.memPorts } ∧
      ∀ i, Reaches s src i → Sent s t (i + 1) (.peer s.idn.grpPos src
        (.migBytes h (if (g.extents.any fun e => s.m.fs.park.lost.has e) then [] else g.bytes)))) ∧
    ∃ t, exec (.migratedExtentsReturn f src dest h) s = .next t ∧ t.hostIs s.m.hs ∧ FrameTaken s t f ∧
      t.m.fs.park.guests = s.m.fs.park.guests.filter (· ≠ g) ∧
      ((start t).fctx g.ctx).parkUsed = ((start s).fctx g.ctx).parkUsed - g.extents.length ∧
      t.fabricIs { s.m.fs with peer := t.m.fs.peer, ctxs := t.m.fs.ctxs, park := t.m.fs.park }) ∧
  ∀ (s : State) (pos : Nat), Decides s →
    ∃ t, exec (.migrationDestLost pos) s = .next t ∧
      ((start s).undeliverable pos = false → t.fabricIs s.m.fs ∧ t.hostIs s.m.hs) ∧
      ((start s).undeliverable pos = true → ∀ slot e r, s.m.fs.rqt.get? slot = some e → e.st.live = true →
        s.m.fs.seqs.get? slot = some r →
        (∃ k, r.park = some k ∧ k.away = some pos ∧ k.copy = .done) →
        ((start t).entry slot).st.live = false ∧ ((start t).entry slot).outcome = 3)
end

