-- ==== Sys2Proof/Laws/State.lean ====
section
/-! SUPPORT. What each named update of a command in progress does to each part of it: one lemma per update and part. -/

namespace Sys2Proof.Machine

@[simp] theorem Work.fs_eq (w : Work) : w.fs = w.m.fs := rfl
@[simp] theorem Work.hs_eq (w : Work) : w.hs = w.m.hs := rfl
@[simp] theorem start_idn (s : State) : (start s).idn = s.idn := rfl
@[simp] theorem start_clk (s : State) : (start s).clk = s.clk := rfl
@[simp] theorem start_obs (s : State) : (start s).obs = s.obs := rfl
@[simp] theorem start_m (s : State) : (start s).m = s.m := rfl
@[simp] theorem start_fx (s : State) : (start s).fx = [] := rfl

/-! `modFs`. -/

@[simp] theorem Work.modFs_idn (w : Work) (f : FabricSide → FabricSide) : (w.modFs f).idn = w.idn := rfl
@[simp] theorem Work.modFs_clk (w : Work) (f : FabricSide → FabricSide) : (w.modFs f).clk = w.clk := rfl
@[simp] theorem Work.modFs_obs (w : Work) (f : FabricSide → FabricSide) : (w.modFs f).obs = w.obs := rfl
@[simp] theorem Work.modFs_fs (w : Work) (f : FabricSide → FabricSide) : (w.modFs f).m.fs = f w.m.fs := rfl
@[simp] theorem Work.modFs_hs (w : Work) (f : FabricSide → FabricSide) : (w.modFs f).m.hs = w.m.hs := rfl
@[simp] theorem Work.modFs_fx (w : Work) (f : FabricSide → FabricSide) : (w.modFs f).fx = w.fx := rfl

/-! `modHs`. -/

@[simp] theorem Work.modHs_idn (w : Work) (f : HostSide → HostSide) : (w.modHs f).idn = w.idn := rfl
@[simp] theorem Work.modHs_clk (w : Work) (f : HostSide → HostSide) : (w.modHs f).clk = w.clk := rfl
@[simp] theorem Work.modHs_obs (w : Work) (f : HostSide → HostSide) : (w.modHs f).obs = w.obs := rfl
@[simp] theorem Work.modHs_fs (w : Work) (f : HostSide → HostSide) : (w.modHs f).m.fs = w.m.fs := rfl
@[simp] theorem Work.modHs_hs (w : Work) (f : HostSide → HostSide) : (w.modHs f).m.hs = f w.m.hs := rfl
@[simp] theorem Work.modHs_fx (w : Work) (f : HostSide → HostSide) : (w.modHs f).fx = w.fx := rfl

/-! `eff`. -/

@[simp] theorem Work.eff_idn (w : Work) (e : Fx) : (w.eff e).idn = w.idn := rfl
@[simp] theorem Work.eff_clk (w : Work) (e : Fx) : (w.eff e).clk = w.clk := rfl
@[simp] theorem Work.eff_obs (w : Work) (e : Fx) : (w.eff e).obs = w.obs := rfl
@[simp] theorem Work.eff_m (w : Work) (e : Fx) : (w.eff e).m = w.m := rfl
@[simp] theorem Work.eff_fx (w : Work) (e : Fx) : (w.eff e).fx = e :: w.fx := rfl

/-! `event`. -/

@[simp] theorem Work.event_idn (w : Work) (ring code : Nat) (always : Bool) (a0 a1 : Nat) : (w.event ring code always a0 a1).idn = w.idn := rfl
@[simp] theorem Work.event_clk (w : Work) (ring code : Nat) (always : Bool) (a0 a1 : Nat) : (w.event ring code always a0 a1).clk = w.clk := rfl
@[simp] theorem Work.event_obs (w : Work) (ring code : Nat) (always : Bool) (a0 a1 : Nat) : (w.event ring code always a0 a1).obs = w.obs := rfl
@[simp] theorem Work.event_m (w : Work) (ring code : Nat) (always : Bool) (a0 a1 : Nat) : (w.event ring code always a0 a1).m = w.m := rfl
@[simp] theorem Work.event_fx (w : Work) (ring code : Nat) (always : Bool) (a0 a1 : Nat) : (w.event ring code always a0 a1).fx = .event ring code always a0 a1 :: w.fx := rfl

/-! `count`. -/

@[simp] theorem Work.count_idn (w : Work) (off n : Nat) : (w.count off n).idn = w.idn := by unfold Work.count; split <;> rfl
@[simp] theorem Work.count_clk (w : Work) (off n : Nat) : (w.count off n).clk = w.clk := by unfold Work.count; split <;> rfl
@[simp] theorem Work.count_obs (w : Work) (off n : Nat) : (w.count off n).obs = w.obs := by unfold Work.count; split <;> rfl
@[simp] theorem Work.count_m (w : Work) (off n : Nat) : (w.count off n).m = w.m := by unfold Work.count; split <;> rfl
@[simp] theorem Work.count_fx (w : Work) (off n : Nat) : (w.count off n).fx = (if n = 0 then w.fx else .count off n :: w.fx) := by unfold Work.count; split <;> rfl

/-! `setEntry`. -/

@[simp] theorem Work.setEntry_idn (w : Work) (s : Nat) (e : RqtEntry) : (w.setEntry s e).idn = w.idn := rfl
@[simp] theorem Work.setEntry_clk (w : Work) (s : Nat) (e : RqtEntry) : (w.setEntry s e).clk = w.clk := rfl
@[simp] theorem Work.setEntry_obs (w : Work) (s : Nat) (e : RqtEntry) : (w.setEntry s e).obs = w.obs := rfl
@[simp] theorem Work.setEntry_fs (w : Work) (s : Nat) (e : RqtEntry) : (w.setEntry s e).m.fs = { w.m.fs with rqt := w.m.fs.rqt.set s e } := rfl
@[simp] theorem Work.setEntry_hs (w : Work) (s : Nat) (e : RqtEntry) : (w.setEntry s e).m.hs = w.m.hs := rfl
@[simp] theorem Work.setEntry_fx (w : Work) (s : Nat) (e : RqtEntry) : (w.setEntry s e).fx = w.fx := rfl

/-! `setSeq`. -/

@[simp] theorem Work.setSeq_idn (w : Work) (s : Nat) (x : Seq) : (w.setSeq s x).idn = w.idn := rfl
@[simp] theorem Work.setSeq_clk (w : Work) (s : Nat) (x : Seq) : (w.setSeq s x).clk = w.clk := rfl
@[simp] theorem Work.setSeq_obs (w : Work) (s : Nat) (x : Seq) : (w.setSeq s x).obs = w.obs := rfl
@[simp] theorem Work.setSeq_fs (w : Work) (s : Nat) (x : Seq) : (w.setSeq s x).m.fs = { w.m.fs with seqs := w.m.fs.seqs.set s x } := rfl
@[simp] theorem Work.setSeq_hs (w : Work) (s : Nat) (x : Seq) : (w.setSeq s x).m.hs = w.m.hs := rfl
@[simp] theorem Work.setSeq_fx (w : Work) (s : Nat) (x : Seq) : (w.setSeq s x).fx = w.fx := rfl

/-! `modEntry`. -/

@[simp] theorem Work.modEntry_idn (w : Work) (s : Nat) (g : RqtEntry → RqtEntry) : (w.modEntry s g).idn = w.idn := rfl
@[simp] theorem Work.modEntry_clk (w : Work) (s : Nat) (g : RqtEntry → RqtEntry) : (w.modEntry s g).clk = w.clk := rfl
@[simp] theorem Work.modEntry_obs (w : Work) (s : Nat) (g : RqtEntry → RqtEntry) : (w.modEntry s g).obs = w.obs := rfl
@[simp] theorem Work.modEntry_fs (w : Work) (s : Nat) (g : RqtEntry → RqtEntry) : (w.modEntry s g).m.fs = { w.m.fs with rqt := w.m.fs.rqt.set s (g (w.entry s)) } := rfl
@[simp] theorem Work.modEntry_hs (w : Work) (s : Nat) (g : RqtEntry → RqtEntry) : (w.modEntry s g).m.hs = w.m.hs := rfl
@[simp] theorem Work.modEntry_fx (w : Work) (s : Nat) (g : RqtEntry → RqtEntry) : (w.modEntry s g).fx = w.fx := rfl

/-! `modSeq`. -/

@[simp] theorem Work.modSeq_idn (w : Work) (s : Nat) (g : Seq → Seq) : (w.modSeq s g).idn = w.idn := rfl
@[simp] theorem Work.modSeq_clk (w : Work) (s : Nat) (g : Seq → Seq) : (w.modSeq s g).clk = w.clk := rfl
@[simp] theorem Work.modSeq_obs (w : Work) (s : Nat) (g : Seq → Seq) : (w.modSeq s g).obs = w.obs := rfl
@[simp] theorem Work.modSeq_fs (w : Work) (s : Nat) (g : Seq → Seq) : (w.modSeq s g).m.fs = { w.m.fs with seqs := w.m.fs.seqs.set s (g (w.seq s)) } := rfl
@[simp] theorem Work.modSeq_hs (w : Work) (s : Nat) (g : Seq → Seq) : (w.modSeq s g).m.hs = w.m.hs := rfl
@[simp] theorem Work.modSeq_fx (w : Work) (s : Nat) (g : Seq → Seq) : (w.modSeq s g).fx = w.fx := rfl

/-! `modPool`. -/

@[simp] theorem Work.modPool_idn (w : Work) (p : Nat) (g : Pool → Pool) : (w.modPool p g).idn = w.idn := rfl
@[simp] theorem Work.modPool_clk (w : Work) (p : Nat) (g : Pool → Pool) : (w.modPool p g).clk = w.clk := rfl
@[simp] theorem Work.modPool_obs (w : Work) (p : Nat) (g : Pool → Pool) : (w.modPool p g).obs = w.obs := rfl
@[simp] theorem Work.modPool_fs (w : Work) (p : Nat) (g : Pool → Pool) : (w.modPool p g).m.fs = { w.m.fs with pools := w.m.fs.pools.mod p g } := rfl
@[simp] theorem Work.modPool_hs (w : Work) (p : Nat) (g : Pool → Pool) : (w.modPool p g).m.hs = w.m.hs := rfl
@[simp] theorem Work.modPool_fx (w : Work) (p : Nat) (g : Pool → Pool) : (w.modPool p g).fx = w.fx := rfl

/-! `modEngine`. -/

@[simp] theorem Work.modEngine_idn (w : Work) (e : Nat) (g : Engine → Engine) : (w.modEngine e g).idn = w.idn := rfl
@[simp] theorem Work.modEngine_clk (w : Work) (e : Nat) (g : Engine → Engine) : (w.modEngine e g).clk = w.clk := rfl
@[simp] theorem Work.modEngine_obs (w : Work) (e : Nat) (g : Engine → Engine) : (w.modEngine e g).obs = w.obs := rfl
@[simp] theorem Work.modEngine_fs (w : Work) (e : Nat) (g : Engine → Engine) : (w.modEngine e g).m.fs = { w.m.fs with engines := w.m.fs.engines.mod e g } := rfl
@[simp] theorem Work.modEngine_hs (w : Work) (e : Nat) (g : Engine → Engine) : (w.modEngine e g).m.hs = w.m.hs := rfl
@[simp] theorem Work.modEngine_fx (w : Work) (e : Nat) (g : Engine → Engine) : (w.modEngine e g).fx = w.fx := rfl

/-! `modFctx`. -/

@[simp] theorem Work.modFctx_idn (w : Work) (c : Nat) (g : FsCtx → FsCtx) : (w.modFctx c g).idn = w.idn := rfl
@[simp] theorem Work.modFctx_clk (w : Work) (c : Nat) (g : FsCtx → FsCtx) : (w.modFctx c g).clk = w.clk := rfl
@[simp] theorem Work.modFctx_obs (w : Work) (c : Nat) (g : FsCtx → FsCtx) : (w.modFctx c g).obs = w.obs := rfl
@[simp] theorem Work.modFctx_fs (w : Work) (c : Nat) (g : FsCtx → FsCtx) : (w.modFctx c g).m.fs = { w.m.fs with ctxs := w.m.fs.ctxs.modD c {} g } := rfl
@[simp] theorem Work.modFctx_hs (w : Work) (c : Nat) (g : FsCtx → FsCtx) : (w.modFctx c g).m.hs = w.m.hs := rfl
@[simp] theorem Work.modFctx_fx (w : Work) (c : Nat) (g : FsCtx → FsCtx) : (w.modFctx c g).fx = w.fx := rfl

/-! `modHctx`. -/

@[simp] theorem Work.modHctx_idn (w : Work) (c : Nat) (g : HsCtx → HsCtx) : (w.modHctx c g).idn = w.idn := rfl
@[simp] theorem Work.modHctx_clk (w : Work) (c : Nat) (g : HsCtx → HsCtx) : (w.modHctx c g).clk = w.clk := rfl
@[simp] theorem Work.modHctx_obs (w : Work) (c : Nat) (g : HsCtx → HsCtx) : (w.modHctx c g).obs = w.obs := rfl
@[simp] theorem Work.modHctx_fs (w : Work) (c : Nat) (g : HsCtx → HsCtx) : (w.modHctx c g).m.fs = w.m.fs := rfl
@[simp] theorem Work.modHctx_hs (w : Work) (c : Nat) (g : HsCtx → HsCtx) : (w.modHctx c g).m.hs = { w.m.hs with ctxs := w.m.hs.ctxs.modD c (HsCtx.initial c) g } := rfl
@[simp] theorem Work.modHctx_fx (w : Work) (c : Nat) (g : HsCtx → HsCtx) : (w.modHctx c g).fx = w.fx := rfl

/-! `modTwin`. -/

@[simp] theorem Work.modTwin_idn (w : Work) (g : Twin → Twin) : (w.modTwin g).idn = w.idn := rfl
@[simp] theorem Work.modTwin_clk (w : Work) (g : Twin → Twin) : (w.modTwin g).clk = w.clk := rfl
@[simp] theorem Work.modTwin_obs (w : Work) (g : Twin → Twin) : (w.modTwin g).obs = w.obs := rfl
@[simp] theorem Work.modTwin_fs (w : Work) (g : Twin → Twin) : (w.modTwin g).m.fs = { w.m.fs with twin := g w.m.fs.twin } := rfl
@[simp] theorem Work.modTwin_hs (w : Work) (g : Twin → Twin) : (w.modTwin g).m.hs = w.m.hs := rfl
@[simp] theorem Work.modTwin_fx (w : Work) (g : Twin → Twin) : (w.modTwin g).fx = w.fx := rfl

/-! `modPeer`. -/

@[simp] theorem Work.modPeer_idn (w : Work) (g : Peer → Peer) : (w.modPeer g).idn = w.idn := rfl
@[simp] theorem Work.modPeer_clk (w : Work) (g : Peer → Peer) : (w.modPeer g).clk = w.clk := rfl
@[simp] theorem Work.modPeer_obs (w : Work) (g : Peer → Peer) : (w.modPeer g).obs = w.obs := rfl
@[simp] theorem Work.modPeer_fs (w : Work) (g : Peer → Peer) : (w.modPeer g).m.fs = { w.m.fs with peer := g w.m.fs.peer } := rfl
@[simp] theorem Work.modPeer_hs (w : Work) (g : Peer → Peer) : (w.modPeer g).m.hs = w.m.hs := rfl
@[simp] theorem Work.modPeer_fx (w : Work) (g : Peer → Peer) : (w.modPeer g).fx = w.fx := rfl

/-! `modBoot`. -/

@[simp] theorem Work.modBoot_idn (w : Work) (g : Boot → Boot) : (w.modBoot g).idn = w.idn := rfl
@[simp] theorem Work.modBoot_clk (w : Work) (g : Boot → Boot) : (w.modBoot g).clk = w.clk := rfl
@[simp] theorem Work.modBoot_obs (w : Work) (g : Boot → Boot) : (w.modBoot g).obs = w.obs := rfl
@[simp] theorem Work.modBoot_fs (w : Work) (g : Boot → Boot) : (w.modBoot g).m.fs = { w.m.fs with boot := g w.m.fs.boot } := rfl
@[simp] theorem Work.modBoot_hs (w : Work) (g : Boot → Boot) : (w.modBoot g).m.hs = w.m.hs := rfl
@[simp] theorem Work.modBoot_fx (w : Work) (g : Boot → Boot) : (w.modBoot g).fx = w.fx := rfl

/-! `modObu`. -/

@[simp] theorem Work.modObu_idn (w : Work) (g : Obu → Obu) : (w.modObu g).idn = w.idn := rfl
@[simp] theorem Work.modObu_clk (w : Work) (g : Obu → Obu) : (w.modObu g).clk = w.clk := rfl
@[simp] theorem Work.modObu_obs (w : Work) (g : Obu → Obu) : (w.modObu g).obs = w.obs := rfl
@[simp] theorem Work.modObu_fs (w : Work) (g : Obu → Obu) : (w.modObu g).m.fs = { w.m.fs with obu := g w.m.fs.obu } := rfl
@[simp] theorem Work.modObu_hs (w : Work) (g : Obu → Obu) : (w.modObu g).m.hs = w.m.hs := rfl
@[simp] theorem Work.modObu_fx (w : Work) (g : Obu → Obu) : (w.modObu g).fx = w.fx := rfl

/-! `setReg`. -/

@[simp] theorem Work.setReg_idn (w : Work) (off v : Nat) : (w.setReg off v).idn = w.idn := rfl
@[simp] theorem Work.setReg_clk (w : Work) (off v : Nat) : (w.setReg off v).clk = w.clk := rfl
@[simp] theorem Work.setReg_obs (w : Work) (off v : Nat) : (w.setReg off v).obs = w.obs := rfl
@[simp] theorem Work.setReg_fs (w : Work) (off v : Nat) : (w.setReg off v).m.fs = { w.m.fs with cfg := (w.setReg off v).m.fs.cfg } := rfl
@[simp] theorem Work.setReg_hs (w : Work) (off v : Nat) : (w.setReg off v).m.hs = w.m.hs := rfl
@[simp] theorem Work.setReg_fx (w : Work) (off v : Nat) : (w.setReg off v).fx = w.fx := rfl

/-! `modMem`. -/

@[simp] theorem Work.modMem_idn (w : Work) (port : Nat) (g : MemPort → MemPort) : (w.modMem port g).idn = w.idn := rfl
@[simp] theorem Work.modMem_clk (w : Work) (port : Nat) (g : MemPort → MemPort) : (w.modMem port g).clk = w.clk := rfl
@[simp] theorem Work.modMem_obs (w : Work) (port : Nat) (g : MemPort → MemPort) : (w.modMem port g).obs = w.obs := rfl
@[simp] theorem Work.modMem_fs (w : Work) (port : Nat) (g : MemPort → MemPort) : (w.modMem port g).m.fs = { w.m.fs with memPorts := w.m.fs.memPorts.modD port {} g } := rfl
@[simp] theorem Work.modMem_hs (w : Work) (port : Nat) (g : MemPort → MemPort) : (w.modMem port g).m.hs = w.m.hs := rfl
@[simp] theorem Work.modMem_fx (w : Work) (port : Nat) (g : MemPort → MemPort) : (w.modMem port g).fx = w.fx := rfl

/-! `modMasks`. -/

@[simp] theorem Work.modMasks_idn (w : Work) (g : Tbl MaskImage → Tbl MaskImage) : (w.modMasks g).idn = w.idn := rfl
@[simp] theorem Work.modMasks_clk (w : Work) (g : Tbl MaskImage → Tbl MaskImage) : (w.modMasks g).clk = w.clk := rfl
@[simp] theorem Work.modMasks_obs (w : Work) (g : Tbl MaskImage → Tbl MaskImage) : (w.modMasks g).obs = w.obs := rfl
@[simp] theorem Work.modMasks_fs (w : Work) (g : Tbl MaskImage → Tbl MaskImage) : (w.modMasks g).m.fs = { w.m.fs with masks := { w.m.fs.masks with images := g w.m.fs.masks.images } } := rfl
@[simp] theorem Work.modMasks_hs (w : Work) (g : Tbl MaskImage → Tbl MaskImage) : (w.modMasks g).m.hs = w.m.hs := rfl
@[simp] theorem Work.modMasks_fx (w : Work) (g : Tbl MaskImage → Tbl MaskImage) : (w.modMasks g).fx = w.fx := rfl

/-! `enqueue`. -/

@[simp] theorem Work.enqueue_idn (w : Work) (i : QItem) : (w.enqueue i).idn = w.idn := rfl
@[simp] theorem Work.enqueue_clk (w : Work) (i : QItem) : (w.enqueue i).clk = w.clk := rfl
@[simp] theorem Work.enqueue_obs (w : Work) (i : QItem) : (w.enqueue i).obs = w.obs := rfl
@[simp] theorem Work.enqueue_fs (w : Work) (i : QItem) : (w.enqueue i).m.fs = w.m.fs := rfl
@[simp] theorem Work.enqueue_hs (w : Work) (i : QItem) : (w.enqueue i).m.hs = { w.m.hs with ctxs := w.m.hs.ctxs.modD i.pkt.ctx.toNat (HsCtx.initial i.pkt.ctx.toNat) fun h => { h with queue := h.queue ++ [i] } } := rfl
@[simp] theorem Work.enqueue_fx (w : Work) (i : QItem) : (w.enqueue i).fx = w.fx := rfl

/-! `sendUnnumbered`. -/

@[simp] theorem Work.sendUnnumbered_idn (w : Work) (k : Nat) (b : FrameBody) : (w.sendUnnumbered k b).idn = w.idn := rfl
@[simp] theorem Work.sendUnnumbered_clk (w : Work) (k : Nat) (b : FrameBody) : (w.sendUnnumbered k b).clk = w.clk := rfl
@[simp] theorem Work.sendUnnumbered_obs (w : Work) (k : Nat) (b : FrameBody) : (w.sendUnnumbered k b).obs = w.obs := rfl
@[simp] theorem Work.sendUnnumbered_m (w : Work) (k : Nat) (b : FrameBody) : (w.sendUnnumbered k b).m = w.m := rfl
@[simp] theorem Work.sendUnnumbered_fx (w : Work) (k : Nat) (b : FrameBody) : (w.sendUnnumbered k b).fx = .frame k { fseq := 0, ackseq := w.ackseq k, body := b, kind := b.fkind } :: w.fx := rfl

end Sys2Proof.Machine
end

