-- ==== Sys2Proof/Laws/Tbl.lean ====
section
/-! SUPPORT. The laws of sparse tables: a read after a write to the same index gives what was written, a write leaves
every other index alone, and every operation keeps the indices strictly ascending. -/

namespace Sys2Proof.Tbl

variable {α β : Type}

@[simp] theorem get?_nil (k : Nat) : get? ([] : Tbl α) k = none := rfl

theorem get?_cons (i : Nat) (a : α) (r : Tbl α) (k : Nat) :
    get? ((i, a) :: r) k = if i = k then some a else get? r k := rfl

@[simp] theorem get?_set_self (t : Tbl α) (k : Nat) (a : α) : get? (set t k a) k = some a := by
  induction t with
  | nil => simp [set, get?]
  | cons x r ih =>
    obtain ⟨i, b⟩ := x
    simp only [set]
    split
    · simp [get?]
    · split
      · simp [get?]
      · next h => simp [get?, h, ih]

theorem get?_set_ne (t : Tbl α) {k j : Nat} (a : α) (h : j ≠ k) : get? (set t k a) j = get? t j := by
  induction t with
  | nil => simp [set, get?, Ne.symm h]
  | cons x r ih =>
    obtain ⟨i, b⟩ := x
    simp only [set]
    split
    · simp [get?_cons, Ne.symm h]
    · split
      · next e => subst e; simp [get?_cons, Ne.symm h]
      · simp [get?_cons, ih]

theorem get?_set (t : Tbl α) (k j : Nat) (a : α) : get? (set t k a) j = if j = k then some a else get? t j := by
  by_cases h : j = k
  · subst h; simp
  · simp [h, get?_set_ne t a h]

@[simp] theorem getD_set_self (t : Tbl α) (k : Nat) (a d : α) : getD (set t k a) k d = a := by simp [getD]

theorem getD_set_ne (t : Tbl α) {k j : Nat} (a d : α) (h : j ≠ k) : getD (set t k a) j d = getD t j d := by
  simp [getD, get?_set_ne t a h]

@[simp] theorem has_set_self (t : Tbl α) (k : Nat) (a : α) : has (set t k a) k = true := by simp [has]

@[simp] theorem getD_modD_self (t : Tbl α) (k : Nat) (d : α) (f : α → α) : getD (modD t k d f) k d = f (getD t k d) := by
  simp [modD]

theorem getD_modD_ne (t : Tbl α) {k j : Nat} (d d' : α) (f : α → α) (h : j ≠ k) :
    getD (modD t k d f) j d' = getD t j d' := by simp [modD, getD_set_ne _ _ _ h]

@[simp] theorem get?_modD_self (t : Tbl α) (k : Nat) (d : α) (f : α → α) : get? (modD t k d f) k = some (f (getD t k d)) := by
  simp [modD]

theorem get?_modD_ne (t : Tbl α) {k j : Nat} (d : α) (f : α → α) (h : j ≠ k) : get? (modD t k d f) j = get? t j := by
  simp [modD, get?_set_ne _ _ h]

@[simp] theorem get?_mod_self (t : Tbl α) (k : Nat) (f : α → α) : get? (mod t k f) k = (get? t k).map f := by
  unfold mod
  split
  · next a h => simp [h]
  · next h => simp [h]

theorem get?_mod_ne (t : Tbl α) {k j : Nat} (f : α → α) (h : j ≠ k) : get? (mod t k f) j = get? t j := by
  unfold mod
  split
  · exact get?_set_ne _ _ h
  · rfl

theorem get?_erase_ne (t : Tbl α) {k j : Nat} (h : j ≠ k) : get? (erase t k) j = get? t j := by
  induction t with
  | nil => rfl
  | cons x r ih =>
    obtain ⟨i, b⟩ := x
    simp only [erase]
    split
    · next e => subst e; simp [get?_cons, Ne.symm h, ih]
    · simp [get?_cons, ih]

theorem get?_mapV (t : Tbl α) (f : Nat → α → β) (k : Nat) : get? (mapV t f) k = (get? t k).map (f k) := by
  induction t with
  | nil => rfl
  | cons x r ih =>
    obtain ⟨i, b⟩ := x
    simp only [mapV, List.map_cons, get?_cons] at *
    split
    · next e => subst e; rfl
    · exact ih

/-! Strictly ascending indices. -/

theorem wf_cons (i : Nat) (a : α) (r : Tbl α) :
    wf ((i, a) :: r) = true ↔ (∀ x ∈ r, i < x.1) ∧ wf r = true := by
  induction r generalizing i a with
  | nil => simp [wf]
  | cons y r ih =>
    obtain ⟨j, b⟩ := y
    simp only [wf, Bool.and_eq_true, decide_eq_true_eq, List.mem_cons, forall_eq_or_imp]
    constructor
    · rintro ⟨h, hw⟩
      exact ⟨⟨h, fun x hx => Nat.lt_trans h (((ih j b).1 hw).1 x hx)⟩, hw⟩
    · rintro ⟨⟨h, _⟩, hw⟩
      exact ⟨h, hw⟩

theorem mem_set (t : Tbl α) (k : Nat) (a : α) (x : Nat × α) (h : x ∈ set t k a) : x = (k, a) ∨ x ∈ t := by
  induction t with
  | nil => simpa [set] using h
  | cons y r ih =>
    obtain ⟨i, b⟩ := y
    simp only [set] at h
    split at h
    · simpa using h
    · split at h
      · rcases List.mem_cons.1 h with h | h
        · exact .inl h
        · exact .inr (List.mem_cons_of_mem _ h)
      · rcases List.mem_cons.1 h with h | h
        · exact .inr (h ▸ List.mem_cons_self)
        · exact (ih h).imp id (List.mem_cons_of_mem _)

theorem wf_set (t : Tbl α) (k : Nat) (a : α) (h : wf t = true) : wf (set t k a) = true := by
  induction t with
  | nil => rfl
  | cons y r ih =>
    obtain ⟨i, b⟩ := y
    have hr := (wf_cons i b r).1 h
    simp only [set]
    split
    · next lt =>
      refine (wf_cons _ _ _).2 ⟨fun x hx => ?_, h⟩
      rcases List.mem_cons.1 hx with rfl | hx
      · exact lt
      · exact Nat.lt_trans lt (hr.1 x hx)
    · split
      · next e => subst e; exact (wf_cons _ _ _).2 hr
      · next n e =>
        refine (wf_cons _ _ _).2 ⟨fun x hx => ?_, ih hr.2⟩
        rcases mem_set r k a x hx with rfl | hx
        · exact Nat.lt_of_le_of_ne (Nat.le_of_not_lt n) e
        · exact hr.1 x hx

theorem mem_erase (t : Tbl α) (k : Nat) (x : Nat × α) (h : x ∈ erase t k) : x ∈ t := by
  induction t with
  | nil => exact h
  | cons y r ih =>
    obtain ⟨i, b⟩ := y
    simp only [erase] at h
    split at h
    · exact List.mem_cons_of_mem _ (ih h)
    · rcases List.mem_cons.1 h with h | h
      · exact h ▸ List.mem_cons_self
      · exact List.mem_cons_of_mem _ (ih h)

theorem wf_erase (t : Tbl α) (k : Nat) (h : wf t = true) : wf (erase t k) = true := by
  induction t with
  | nil => rfl
  | cons y r ih =>
    obtain ⟨i, b⟩ := y
    have hr := (wf_cons i b r).1 h
    simp only [erase]
    split
    · exact ih hr.2
    · exact (wf_cons _ _ _).2 ⟨fun x hx => hr.1 x (mem_erase r k x hx), ih hr.2⟩

theorem wf_filterV (t : Tbl α) (p : Nat → α → Bool) (h : wf t = true) : wf (filterV t p) = true := by
  induction t with
  | nil => rfl
  | cons y r ih =>
    obtain ⟨i, b⟩ := y
    have hr := (wf_cons i b r).1 h
    simp only [filterV, List.filter_cons] at *
    split
    · exact (wf_cons _ _ _).2 ⟨fun x hx => hr.1 x (List.mem_filter.1 hx).1, ih hr.2⟩
    · exact ih hr.2

theorem get?_of_mem (t : Tbl α) (h : wf t = true) (k : Nat) (a : α) (hm : (k, a) ∈ t) : get? t k = some a := by
  induction t with
  | nil => cases hm
  | cons y r ih =>
    obtain ⟨i, b⟩ := y
    have hr := (wf_cons i b r).1 h
    rcases List.mem_cons.1 hm with e | hm
    · cases e; simp [get?_cons]
    · have : i ≠ k := Nat.ne_of_lt (hr.1 _ hm)
      simp [get?_cons, this, ih hr.2 hm]

theorem mem_of_get? (t : Tbl α) (k : Nat) (a : α) (h : get? t k = some a) : (k, a) ∈ t := by
  induction t with
  | nil => cases h
  | cons y r ih =>
    obtain ⟨i, b⟩ := y
    rw [get?_cons] at h
    split at h
    · next e => subst e; cases h; exact List.mem_cons_self
    · exact List.mem_cons_of_mem _ (ih h)

@[simp] theorem get?_erase_self (t : Tbl α) (k : Nat) : get? (erase t k) k = none := by
  induction t with
  | nil => rfl
  | cons y r ih =>
    obtain ⟨i, b⟩ := y
    simp only [erase]
    split
    · exact ih
    · next e => rw [get?_cons, if_neg e]; exact ih

end Sys2Proof.Tbl
end

