-- ==== Sys2Proof/Laws/Run.lean ====
section
/-! SUPPORT. How a command begins and ends: what reaches the state is what the command did, and the frames to the twin
change only the pairing unit and what messages wait for. -/

namespace Sys2Proof.Machine

/-- An effect of sending a frame to the twin. -/
def Fx.toTwin (e : Fx) : Bool :=
  match e with
  | .frame _ _ => true
  | .count o _ => o = cTwinFramesTx
  | _ => false

/-- `v` differs from `w` in the pairing unit, in what messages wait for, and in effects. -/
structure TwinOnly (w v : Work) : Prop where
  idn : v.idn = w.idn
  clk : v.clk = w.clk
  obs : v.obs = w.obs
  fs : ∃ t, v.m.fs = { w.m.fs with twin := t }
  hs : v.m.hs.unheld = w.m.hs.unheld
  fx : ∃ l, v.fx = l ++ w.fx ∧ ∀ e ∈ l, e.toTwin = true

theorem TwinOnly.rfl {w : Work} : TwinOnly w w := ⟨Eq.refl _, Eq.refl _, Eq.refl _, ⟨w.m.fs.twin, Eq.refl _⟩, Eq.refl _, [], Eq.refl _, by simp⟩

theorem TwinOnly.trans {a b c : Work} (h : TwinOnly a b) (k : TwinOnly b c) : TwinOnly a c := by
  obtain ⟨t, ht⟩ := h.fs
  obtain ⟨u, hu⟩ := k.fs
  obtain ⟨l, hl, hx⟩ := h.fx
  obtain ⟨m, hm, hy⟩ := k.fx
  refine ⟨k.idn.trans h.idn, k.clk.trans h.clk, k.obs.trans h.obs, ⟨u, by rw [hu, ht]⟩, k.hs.trans h.hs, m ++ l, ?_, ?_⟩
  · rw [hm, hl, List.append_assoc]
  · intro e he
    rcases List.mem_append.1 he with he | he
    · exact hy e he
    · exact hx e he

theorem TwinOnly.each {α : Type} {l : List α} {f : Work → α → Work} (hf : ∀ w a, TwinOnly w (f w a)) (w : Work) :
    TwinOnly w (w.each l f) := by
  unfold Work.each
  induction l generalizing w with
  | nil => exact .rfl
  | cons a l ih => exact (hf w a).trans (ih (f w a))

theorem TwinOnly.modTwin (w : Work) (g : Twin → Twin) : TwinOnly w (w.modTwin g) :=
  ⟨Eq.refl _, Eq.refl _, Eq.refl _, ⟨_, Eq.refl _⟩, Eq.refl _, [], Eq.refl _, by simp⟩

theorem TwinOnly.eff (w : Work) (e : Fx) (h : e.toTwin = true) : TwinOnly w (w.eff e) :=
  ⟨Eq.refl _, Eq.refl _, Eq.refl _, ⟨w.m.fs.twin, Eq.refl _⟩, Eq.refl _, [e], Eq.refl _, by simpa using h⟩

theorem TwinOnly.count (w : Work) (n : Nat) : TwinOnly w (w.count cTwinFramesTx n) := by
  unfold Work.count
  split
  · exact .rfl
  · exact .eff _ _ (by simp [Fx.toTwin])

theorem TwinOnly.sendFrame (w : Work) (b : FrameBody) : TwinOnly w (w.sendFrame 0 b) := by
  have h (f : Frame) : TwinOnly w (w.modLink 0 fun l => { l with
      nextSeq := l.nextSeq + 1, unacked := l.unacked ++ [f], ackAt := if l.unacked.isEmpty then w.now else l.ackAt }) :=
    ⟨Eq.refl _, Eq.refl _, Eq.refl _, ⟨_, Eq.refl _⟩, Eq.refl _, [], Eq.refl _, by simp⟩
  unfold Work.sendFrame
  simp only
  split
  · exact h _
  · exact (h _).trans ((TwinOnly.eff _ _ (Eq.refl _)).trans (by simp only [Work.whenDo, decide_true, if_true]; exact .count _ _))

theorem TwinOnly.sendParkData (w : Work) (n : Nat) (bs : List Byte) (x : Bool) : TwinOnly w (w.sendParkData n bs x) :=
  .each (fun w _ => .sendFrame w _) w

theorem TwinOnly.sendAllPark (w : Work) : TwinOnly w w.sendAllPark := by
  refine TwinOnly.trans (TwinOnly.each (fun w a => ?_) w) (TwinOnly.each (fun w a => .sendParkData w _ _ _) _)
  obtain ⟨s, x⟩ := a
  simp only
  split
  · exact .sendParkData _ _ _ _
  · exact .rfl

theorem TwinOnly.needs (w : Work) (g : StreamItem → Nat) : TwinOnly w (w.setNeeds g) := by
  refine ⟨Eq.refl _, Eq.refl _, Eq.refl _, ⟨w.m.fs.twin, Eq.refl _⟩, ?_, [], Eq.refl _, by simp⟩
  simp [Work.setNeeds, HostSide.unheld, Tbl.mapV, Function.comp_def]

theorem TwinOnly.frames {α : Type} (w : Work) (l : List α) (g : α → FrameBody) :
    TwinOnly w (w.each l fun w a => w.sendFrame 0 (g a)) := .each (fun w _ => .sendFrame w _) w

theorem TwinOnly.whenDo (w : Work) (c : Bool) (f : Work → Work) (h : TwinOnly w (f w)) : TwinOnly w (w.whenDo c f) := by
  unfold Work.whenDo
  split
  · exact h
  · exact .rfl

theorem TwinOnly.sendBulk (w : Work) : TwinOnly w w.sendBulk := by
  unfold Work.sendBulk
  extract_lets a b c
  have hc : TwinOnly b c := .whenDo b _ _ (.sendAllPark b)
  have hb : TwinOnly a b := .frames a _ FrameBody.bulk
  exact ((TwinOnly.needs w _).trans hb).trans (hc.trans (.modTwin _ _))

theorem TwinOnly.raiseNeeds (w : Work) (n : Nat) : TwinOnly w (w.raiseNeeds n) := by
  unfold Work.raiseNeeds
  exact TwinOnly.trans (.needs w _) (.modTwin _ _)

/-- The frames that a command's changes call for change nothing else. -/
theorem mirror_twinOnly (w : Work) (old : Machine) (c : Obs) : TwinOnly w (w.mirror old c) := by
  unfold Work.mirror
  simp only
  split
  · split
    · generalize decisions old w.m c w.obs = l
      refine TwinOnly.trans (.frames w l FrameBody.decision) (.raiseNeeds _ _)
    · exact .sendBulk w
  · split
    · unfold Work.sendLost
      exact .each (fun w x => .sendFrame w _) w
    · exact .rfl

/-! The end of a command. -/

@[simp] theorem settle_pending (s : State) (w : Work) : (s.settle w).pending = s.pending := rfl
@[simp] theorem settle_idn (s : State) (w : Work) : (s.settle w).idn = s.idn := rfl
@[simp] theorem settle_clk (s : State) (w : Work) : (s.settle w).clk = s.clk := rfl

/-- The fabric side as the command left it, but for the pairing unit. -/
theorem settle_fs (s : State) (w : Work) : ∃ t, (s.settle w).m.fs = { w.m.fs with twin := t } :=
  (mirror_twinOnly _ _ _).fs

/-- The host side as the command left it, but for what messages wait for. -/
theorem settle_hs (s : State) (w : Work) : (s.settle w).m.hs.unheld = w.m.hs.unheld :=
  (mirror_twinOnly _ _ _).hs

/-- A command that raises no F4 reset. -/
def Work.calm (w : Work) : Prop := ∀ b, Fx.resetSide b ∉ w.fx

theorem finish_of_calm (s : State) (w : Work) (h : w.calm) (k : s.m.fs.horn.held = true → w.m.fs.horn.held = true) :
    finish s w = s.settle w := by
  have h1 : (w.fx.any fun e => decide (e = .resetSide true)) = false := by
    simp only [List.any_eq_false, decide_eq_true_eq]; rintro x hx rfl; exact h _ hx
  have h2 : (w.fx.any fun e => decide (e = .resetSide false)) = false := by
    simp only [List.any_eq_false, decide_eq_true_eq]; rintro x hx rfl; exact h _ hx
  have h3 : (s.m.fs.horn.held && !w.fs.horn.held) = false := by
    cases e : s.m.fs.horn.held
    · rfl
    · simp [k e]
  simp only [finish, h3, Work.whenDo, h1, h2, Bool.false_eq_true, if_false]

theorem run_eq (s : State) (f : Work → Work) : run s f = .next (finish s (f (start s))) := rfl

theorem run_of_calm (s : State) (f : Work → Work) (h : (f (start s)).calm)
    (k : s.m.fs.horn.held = true → (f (start s)).m.fs.horn.held = true) : run s f = .next (s.settle (f (start s))) := by
  rw [run_eq, finish_of_calm s _ h k]

/-- What reaches a unit that deals with it, with nothing left at its input, is acted on. -/
theorem atUnit_eq (s : State) (c : Instr) (may : Work → Bool) (f : Work → Work) (h : may (start s) = true)
    (k : (start s).halted = false) (e : s.stalled = []) : atUnit s c may f = run s f := by
  simp [atUnit, h, k, e]

/-- What reaches a unit that is stopped, or whose input is not empty, waits there (R718, R823). -/
theorem atUnit_waits (s : State) (c : Instr) (may : Work → Bool) (f : Work → Work) (h : may (start s) = true)
    (k : (start s).halted = true ∨ s.stalled ≠ []) : 
    atUnit s c may f = .next { s with stalled := s.stalled ++ [{ cmd := c, at_ := s.clk.fs.toNat }] } := by
  simp [atUnit, h]
  rcases k with k | k <;> simp [k]

theorem calm_start (s : State) : (start s).calm := by intro b h; cases h

end Sys2Proof.Machine
end

