-- ==== Sys2Proof/Laws/Obs.lean ====
section
/-! SUPPORT. The observation unit's stores under each effect: event records stay in their slots, and every store keeps
its canonical form. -/

namespace Sys2Proof.Machine

theorem slotted_of_recs {a b : Obs} (h : a.slotted) (e : b.recs = a.recs) : b.slotted := by
  intro k r hm; exact h k r (e ▸ hm)

theorem logEvent_slotted (w : Work) (o : Obs) (u c x y : Nat) (h : o.slotted) : (w.logEvent o u c x y).slotted := by
  intro k r hm
  unfold Work.logEvent at hm
  simp only at hm
  rcases Tbl.mem_set _ _ _ _ hm with e | hm
  · obtain ⟨rfl, rfl⟩ := Prod.mk.inj e
    simp only
    split <;> omega
  · exact h k r hm

theorem satCtr_slotted (w : Work) (o : Obs) (off : Nat) (h : o.slotted) : (w.satCtr o off).slotted := by
  unfold Work.satCtr
  split
  · exact h
  · exact logEvent_slotted w _ _ _ _ _ (slotted_of_recs h rfl)

theorem addCtr_slotted (w : Work) (o : Obs) (off n : Nat) (h : o.slotted) : (w.addCtr o off n).slotted := by
  unfold Work.addCtr
  split
  · exact h
  · simp only
    split
    · exact slotted_of_recs h rfl
    · exact satCtr_slotted w _ _ (slotted_of_recs h rfl)

theorem liftFreeze_slotted (w : Work) (o : Obs) (h : o.slotted) : (w.liftFreeze o).slotted := by
  unfold Work.liftFreeze
  split
  · exact h
  · exact addCtr_slotted w _ _ _ (slotted_of_recs h rfl)

theorem latchBases_recs (o : Obs) (c : Nat) : (latchBases o c).recs = o.recs := rfl

theorem latchBases_foldl_recs (l : List Nat) (o : Obs) : (l.foldl latchBases o).recs = o.recs := by
  induction l generalizing o with
  | nil => rfl
  | cons a l ih => rw [List.foldl_cons, ih]; rfl

theorem latchAll_recs (o : Obs) (f : Nat → Nat) : (latchAll o f).recs = o.recs := by
  unfold latchAll
  generalize List.range 256 = l
  exact latchBases_foldl_recs l o

/-- No effect moves an event record out of its slot. -/
theorem applyObs_slotted (w : Work) (e : Fx) (o : Obs) (h : o.slotted) : (w.applyObs e o).slotted := by
  cases e with
  | count off n => exact addCtr_slotted w _ _ _ h
  | event ring code always a0 a1 =>
    simp only [Work.applyObs]
    split
    · exact logEvent_slotted w _ _ _ _ _ h
    · exact h
  | markSat off =>
    simp only [Work.applyObs]
    split
    · exact h
    · exact satCtr_slotted w _ _ h
  | spoilEvent ring slot => exact fun k r hm => h k r (Tbl.mem_erase _ _ _ hm)
  | latch c =>
    simp only [Work.applyObs]
    split
    · exact slotted_of_recs h rfl
    · exact h
  | mode ae2 =>
    have h' := liftFreeze_slotted w o h
    simp only [Work.applyObs]
    split
    · exact slotted_of_recs h' (latchAll_recs _ _)
    · exact slotted_of_recs h' rfl
  | _ => exact slotted_of_recs h rfl

theorem applyAll_slotted (w : Work) (l : List Fx) (o : Obs) (h : o.slotted) : (w.applyAll l o).slotted := by
  unfold Work.applyAll
  induction l with
  | nil => exact h
  | cons e l ih => exact applyObs_slotted w e _ ih

/-- The end of a command leaves every event record in its slot. -/
theorem settle_slotted (s : State) (w : Work) (h : s.obs.slotted) : (s.settle w).obs.slotted :=
  applyAll_slotted _ _ _ (applyAll_slotted w _ _ h)

theorem dropHost_slotted (o : Obs) (h : o.slotted) : o.dropHost.slotted := by
  intro k r hm; exact h k r (List.mem_filter.1 hm).1

theorem dropFabric_slotted (o : Obs) (h : o.slotted) : o.dropFabric.slotted := by
  intro k r hm; exact h k r (List.mem_filter.1 hm).1

theorem hostReset_obs (s : State) : s.hostReset.obs = (s.settle (start s).dropHost).obs.dropHost := by
  unfold State.hostReset; rfl

theorem fabricReset_obs (s : State) : s.fabricReset.obs = (s.settle (start s).dropFabric).obs.dropFabric := by
  unfold State.fabricReset; rfl

/-! Canonical form. -/

theorem logEvent_canonical (w : Work) (o : Obs) (u c x y : Nat) (h : o.canonical) : (w.logEvent o u c x y).canonical :=
  ⟨h.1, h.2.1, Tbl.wf_set _ _ _ h.2.2.1, Tbl.wf_set _ _ _ h.2.2.2.1, h.2.2.2.2⟩

theorem satCtr_canonical (w : Work) (o : Obs) (off : Nat) (h : o.canonical) : (w.satCtr o off).canonical := by
  unfold Work.satCtr
  split
  · exact h
  · exact logEvent_canonical w _ _ _ _ _ ⟨h.1, Tbl.wf_set _ _ _ h.2.1, h.2.2⟩

theorem addCtr_canonical (w : Work) (o : Obs) (off n : Nat) (h : o.canonical) : (w.addCtr o off n).canonical := by
  unfold Work.addCtr
  split
  · exact h
  · simp only
    split
    · exact ⟨Tbl.wf_set _ _ _ h.1, h.2⟩
    · exact satCtr_canonical w _ _ ⟨Tbl.wf_set _ _ _ h.1, h.2⟩

theorem liftFreeze_canonical (w : Work) (o : Obs) (h : o.canonical) : (w.liftFreeze o).canonical := by
  unfold Work.liftFreeze
  split
  · exact h
  · exact addCtr_canonical w _ _ _ h

theorem latchBases_canonical (o : Obs) (c : Nat) (h : o.canonical) : (latchBases o c).canonical := by
  refine ⟨h.1, h.2.1, h.2.2.1, h.2.2.2.1, h.2.2.2.2.1, ?_⟩
  unfold latchBases
  generalize statsIndices = l
  have : ∀ t : Tbl DWord, t.wf → (l.foldl (fun t idx =>
      match statsOff c idx with
      | some off => (match o.ctr.get? off with
        | some v => t.set (c * 0x200 + idx) v
        | none => t.erase (c * 0x200 + idx))
      | none => t) t).wf := by
    induction l with
    | nil => exact fun t ht => ht
    | cons a l ih =>
      intro t ht
      rw [List.foldl_cons]
      apply ih
      split
      · split
        · exact Tbl.wf_set _ _ _ ht
        · exact Tbl.wf_erase _ _ ht
      · exact ht
  exact this _ h.2.2.2.2.2

theorem latchAll_canonical (o : Obs) (f : Nat → Nat) (h : o.canonical) : (latchAll o f).canonical := by
  have hw : ∀ (n k : Nat) (g : Nat → Nat), Tbl.wf ((List.range' k n).map fun c => (c, g c)) = true := by
    intro n
    induction n with
    | zero => intro k g; rfl
    | succ n ih =>
      intro k g
      rw [List.range'_succ, List.map_cons]
      refine (Tbl.wf_cons _ _ _).2 ⟨fun x hx => ?_, ih _ _⟩
      obtain ⟨c, hc, rfl⟩ := List.mem_map.1 hx
      have := (List.mem_range'_1.1 hc).1
      simp only
      omega
  have hb : ∀ (l : List Nat) (o : Obs), o.canonical → (l.foldl latchBases o).canonical := by
    intro l
    induction l with
    | nil => exact fun o h => h
    | cons a l ih => exact fun o h => ih _ (latchBases_canonical o a h)
  unfold latchAll
  rw [List.range_eq_range']
  have hl := hb (List.range' 0 256) o h
  have hm := hw 256 0
  generalize List.range' 0 256 = l at hl hm ⊢
  exact ⟨hl.1, hl.2.1, hl.2.2.1, hl.2.2.2.1, hm fun c => f ((l.foldl latchBases o).epochs.getD c 0), hl.2.2.2.2.2⟩

/-- No effect breaks the canonical form. -/
theorem applyObs_canonical (w : Work) (e : Fx) (o : Obs) (h : o.canonical) : (w.applyObs e o).canonical := by
  cases e with
  | count off n => exact addCtr_canonical w _ _ _ h
  | event ring code always a0 a1 =>
    simp only [Work.applyObs]
    split
    · exact logEvent_canonical w _ _ _ _ _ h
    · exact h
  | clear off => exact ⟨Tbl.wf_erase _ _ h.1, Tbl.wf_erase _ _ h.2.1, h.2.2⟩
  | setCtr off v => exact ⟨Tbl.wf_set _ _ _ h.1, h.2⟩
  | spoilCtr off => exact ⟨Tbl.wf_set _ _ _ h.1, Tbl.wf_set _ _ _ h.2.1, h.2.2⟩
  | markSat off =>
    simp only [Work.applyObs]
    split
    · exact h
    · exact satCtr_canonical w _ _ h
  | spoilEvent ring slot => exact ⟨h.1, h.2.1, h.2.2.1, Tbl.wf_erase _ _ h.2.2.2.1, h.2.2.2.2⟩
  | latch c =>
    simp only [Work.applyObs]
    split
    · have l := latchBases_canonical o c h
      exact ⟨l.1, l.2.1, l.2.2.1, l.2.2.2.1, Tbl.wf_set _ _ _ l.2.2.2.2.1, l.2.2.2.2.2⟩
    · exact h
  | mode ae2 =>
    have h' := liftFreeze_canonical w o h
    simp only [Work.applyObs]
    split
    · exact latchAll_canonical _ _ h'
    · exact ⟨h'.1, h'.2.1, h'.2.2.1, h'.2.2.2.1, rfl, rfl⟩
  | _ => exact h

theorem applyAll_canonical (w : Work) (l : List Fx) (o : Obs) (h : o.canonical) : (w.applyAll l o).canonical := by
  unfold Work.applyAll
  induction l with
  | nil => exact h
  | cons e l ih => exact applyObs_canonical w e _ ih

/-- The end of a command keeps the canonical form. -/
theorem settle_canonical (s : State) (w : Work) (h : s.obs.canonical) : (s.settle w).obs.canonical :=
  applyAll_canonical _ _ _ (applyAll_canonical w _ _ h)

theorem dropHost_canonical (o : Obs) (h : o.canonical) : o.dropHost.canonical := by
  obtain ⟨h1, h2, h3, h4, h5, h6⟩ := h
  refine ⟨?_, ?_, Tbl.wf_erase _ _ h3, ?_, h5, ?_⟩ <;> dsimp only [Obs.dropHost, Obs.dropFabric] <;> apply Tbl.wf_filterV <;> assumption

theorem dropFabric_canonical (o : Obs) (h : o.canonical) : o.dropFabric.canonical := by
  obtain ⟨h1, h2, h3, h4, h5, h6⟩ := h
  refine ⟨?_, ?_, ?_, ?_, rfl, rfl⟩ <;> dsimp only [Obs.dropHost, Obs.dropFabric] <;> apply Tbl.wf_filterV <;> assumption

/-! Outputs. -/

theorem Out.extends_refl (o : Out) : o.extends o := ⟨List.prefix_rfl, List.prefix_rfl, List.prefix_rfl⟩

theorem Out.extends_trans {a b c : Out} (h : a.extends b) (k : b.extends c) : a.extends c :=
  ⟨h.1.trans k.1, h.2.1.trans k.2.1, h.2.2.trans k.2.2⟩

theorem applyOut_extends (l : List Fx) (o : Out) : o.extends (l.foldr applyOut o) := by
  induction l with
  | nil => exact Out.extends_refl o
  | cons e l ih =>
    obtain ⟨a, b, c⟩ := ih
    cases e <;> simp only [List.foldr_cons, applyOut] <;>
      first
      | exact ⟨a, b, c⟩
      | exact ⟨a.trans (List.prefix_append _ _), b, c⟩
      | exact ⟨a, b.trans (List.prefix_append _ _), c⟩
      | exact ⟨a, b, c.trans (List.prefix_append _ _)⟩

/-- The end of a command takes nothing back that has left. -/
theorem settle_extends (s : State) (w : Work) : s.out.extends (s.settle w).out :=
  Out.extends_trans (applyOut_extends _ _) (applyOut_extends _ _)

end Sys2Proof.Machine
end

