-- ==== Sys2Proof/Laws/Apart.lean ====
section
/-! SUPPORT. Frames: what the effects of a command can reach in the observation unit's stores and at the ports. -/

namespace Sys2Proof.Machine

/-- An effect that reaches no counter outside `ctrs`, no ring outside `rings`, no mode, no cut, no host or fabric port, and
latches no bases but those of the contexts `ctxs`. -/
def Fx.within (ctrs rings : List Nat) (ctxs : List Nat) (e : Fx) : Bool :=
  match e with
  | .count o _ => o = cTwinFramesTx || ctrs.contains o
  | .clear o | .spoilCtr o => ctrs.contains o
  | .setCtr o _ => ctrs.contains o
  | .event r _ _ _ _ => r = 16 || rings.contains r
  | .markSat _ | .frame _ _ => true
  | .latch c => ctxs.contains c
  | _ => false

theorem Fx.within_of_toTwin {ctrs rings ctxs : List Nat} {e : Fx} (h : e.toTwin = true) : e.within ctrs rings ctxs = true := by
  cases e <;> simp_all [Fx.toTwin, Fx.within]

/-- The part of the observation unit's stores that such effects leave alone. -/
structure Obs.Apart (a b : Obs) (ctrs rings ctxs : List Nat) : Prop where
  ctr : ∀ off, off ∉ ctrs → off ≠ cTwinFramesTx → b.ctr.get? off = a.ctr.get? off
  recs : ∀ k, k / 256 ∉ rings → k / 256 ≠ 16 → b.recs.get? k = a.recs.get? k
  modes : b.eventEn = a.eventEn ∧ b.ae2 = a.ae2 ∧ b.frozenAt = a.frozenAt ∧ b.cut = a.cut
  epochs : ∀ c, c ∉ ctxs → b.epochs.get? c = a.epochs.get? c
  bases : ∀ k, k / 0x200 ∉ ctxs → b.bases.get? k = a.bases.get? k

theorem Obs.Apart.refl (a : Obs) (c r x : List Nat) : Obs.Apart a a c r x :=
  ⟨fun _ _ _ => rfl, fun _ _ _ => rfl, ⟨rfl, rfl, rfl, rfl⟩, fun _ _ => rfl, fun _ _ => rfl⟩

theorem Obs.Apart.trans {a b d : Obs} {c r x : List Nat} (h : Obs.Apart a b c r x) (k : Obs.Apart b d c r x) : Obs.Apart a d c r x := by
  obtain ⟨h1, h2, ⟨h3, h4, h5, h6⟩, h7, h8⟩ := h
  obtain ⟨k1, k2, ⟨k3, k4, k5, k6⟩, k7, k8⟩ := k
  exact ⟨fun o x y => (k1 o x y).trans (h1 o x y), fun o x y => (k2 o x y).trans (h2 o x y),
    ⟨k3.trans h3, k4.trans h4, k5.trans h5, k6.trans h6⟩, fun c y => (k7 c y).trans (h7 c y),
    fun c y => (k8 c y).trans (h8 c y)⟩

variable {ctrs rings ctxs : List Nat}

/-- A counter and its SAT flag change, nothing else. -/
theorem apart_ctr (a : Obs) (off : Nat) (t : Tbl DWord) (x : Tbl Unit) (h : off ∈ ctrs ∨ off = cTwinFramesTx)
    (ht : ∀ o, o ≠ off → t.get? o = a.ctr.get? o) : Obs.Apart a { a with ctr := t, sat := x } ctrs rings ctxs := by
  refine ⟨fun o ho hn => ht o ?_, fun _ _ _ => rfl, ⟨rfl, rfl, rfl, rfl⟩, fun _ _ => rfl, fun _ _ => rfl⟩
  rintro rfl
  rcases h with h | h
  · exact ho h
  · exact hn h

theorem logEvent_apart (w : Work) (a : Obs) (u c x y : Nat) (h : u = 16 ∨ u ∈ rings) :
    Obs.Apart a (w.logEvent a u c x y) ctrs rings ctxs := by
  unfold Work.logEvent
  refine ⟨fun _ _ _ => rfl, fun k hk hn => ?_, ⟨rfl, rfl, rfl, rfl⟩, fun _ _ => rfl, fun _ _ => rfl⟩
  simp only
  apply Tbl.get?_set_ne
  rintro rfl
  have e : ∀ n : Nat, (u * 256 + n % 256) / 256 = u := by intro n; omega
  rw [e] at hk hn
  rcases h with h | h
  · exact hn h
  · exact hk h

theorem satCtr_apart (w : Work) (a : Obs) (off : Nat) : Obs.Apart a (w.satCtr a off) ctrs rings ctxs := by
  unfold Work.satCtr
  split
  · exact .refl _ _ _ _
  · exact Obs.Apart.trans (b := { a with sat := a.sat.set off () })
      ⟨fun _ _ _ => rfl, fun _ _ _ => rfl, ⟨rfl, rfl, rfl, rfl⟩, fun _ _ => rfl, fun _ _ => rfl⟩ (logEvent_apart w _ _ _ _ _ (.inl rfl))

theorem addCtr_apart (w : Work) (a : Obs) (off n : Nat) (h : off ∈ ctrs ∨ off = cTwinFramesTx) :
    Obs.Apart a (w.addCtr a off n) ctrs rings ctxs := by
  unfold Work.addCtr
  split
  · exact .refl _ _ _ _
  · simp only
    split
    · exact apart_ctr a off _ a.sat h fun o ho => Tbl.get?_set_ne _ _ ho
    · exact Obs.Apart.trans (apart_ctr a off _ a.sat h fun o ho => Tbl.get?_set_ne _ _ ho) (satCtr_apart w _ _)

/-- Latching bases reaches only the bases of the context. -/
theorem latchBases_bases (o : Obs) (c k : Nat) (h : k / 0x200 ≠ c) : (latchBases o c).bases.get? k = o.bases.get? k := by
  unfold latchBases
  simp only
  have all : ∀ l : List Nat, (∀ i ∈ l, i < 0x200) → ∀ t : Tbl DWord, Tbl.get? (l.foldl (fun t idx =>
      match statsOff c idx with
      | some off => (match o.ctr.get? off with
        | some v => t.set (c * 0x200 + idx) v
        | none => t.erase (c * 0x200 + idx))
      | none => t) t) k = t.get? k := by
    intro l
    induction l with
    | nil => intro _ t; rfl
    | cons i l ih =>
      intro hl t
      have hi := hl i List.mem_cons_self
      have hk : k ≠ c * 0x200 + i := by rintro rfl; omega
      rw [List.foldl_cons, ih (fun x hx => hl x (List.mem_cons_of_mem _ hx))]
      split
      · split
        · exact Tbl.get?_set_ne _ _ hk
        · exact Tbl.get?_erase_ne _ hk
      · rfl
  exact all _ (by decide) _

theorem latch_apart (w : Work) (a : Obs) (c : Nat) (h : c ∈ ctxs) :
    Obs.Apart a (w.applyObs (.latch c) a) ctrs rings ctxs := by
  simp only [Work.applyObs]
  split
  · refine ⟨fun _ _ _ => rfl, fun _ _ _ => rfl, ⟨rfl, rfl, rfl, rfl⟩, fun x hx => ?_, fun k hk => ?_⟩
    · exact Tbl.get?_set_ne _ _ (by rintro rfl; exact hx h)
    · exact latchBases_bases a c k (by rintro rfl; exact hk h)
  · exact .refl _ _ _ _

theorem applyObs_apart (w : Work) (e : Fx) (a : Obs) (h : e.within ctrs rings ctxs = true) :
    Obs.Apart a (w.applyObs e a) ctrs rings ctxs := by
  cases e with
  | count o n =>
    refine addCtr_apart w a o n ?_
    simpa [Fx.within, or_comm] using h
  | event u c al x y =>
    simp only [Work.applyObs]
    split
    · exact logEvent_apart w _ _ _ _ _ (by simpa [Fx.within] using h)
    · exact .refl _ _ _ _
  | clear o => exact apart_ctr a o _ _ (.inl (by simpa [Fx.within] using h)) fun k hk => Tbl.get?_erase_ne _ hk
  | setCtr o v => exact apart_ctr a o _ _ (.inl (by simpa [Fx.within] using h)) fun k hk => Tbl.get?_set_ne _ _ hk
  | spoilCtr o => exact apart_ctr a o _ _ (.inl (by simpa [Fx.within] using h)) fun k hk => Tbl.get?_set_ne _ _ hk
  | markSat o =>
    simp only [Work.applyObs]
    split
    · exact .refl _ _ _ _
    · exact satCtr_apart w _ _
  | frame k f => exact .refl _ _ _ _
  | latch c =>
    have hc : c ∈ ctxs := by simpa [Fx.within] using h
    exact latch_apart w a c hc
  | _ => simp [Fx.within] at h

theorem applyAll_apart (w : Work) (l : List Fx) (a : Obs) (h : ∀ e ∈ l, e.within ctrs rings ctxs = true) :
    Obs.Apart a (w.applyAll l a) ctrs rings ctxs := by
  unfold Work.applyAll
  induction l with
  | nil => exact .refl _ _ _ _
  | cons e l ih =>
    exact Obs.Apart.trans (ih fun x hx => h x (List.mem_cons_of_mem _ hx)) (applyObs_apart w e _ (h e List.mem_cons_self))

/-- What an effect brings to the host ports and to the fabric ports. -/
def Fx.hostOut (e : Fx) : Option HostOut := match e with
  | .host port slot c m => some { port := port, slot := slot, ctx := c, msg := m }
  | _ => none
def Fx.fabOut (e : Fx) : Option FabOp := match e with | .fabric op => some op | _ => none

/-- Such an effect, or one that leaves on a port. -/
def Fx.withinOut (ctrs rings ctxs : List Nat) (e : Fx) : Bool :=
  e.within ctrs rings ctxs || e.hostOut.isSome || e.fabOut.isSome

theorem out_list (l : List Fx) (o : Out) :
    (l.foldr applyOut o).host = o.host ++ l.reverse.filterMap Fx.hostOut ∧
    (l.foldr applyOut o).fabric = o.fabric ++ l.reverse.filterMap Fx.fabOut := by
  induction l with
  | nil => simp
  | cons e l ih =>
    simp only [List.foldr_cons, List.reverse_cons, List.filterMap_append]
    cases e <;> simp [applyOut, ih, Fx.hostOut, Fx.fabOut]

theorem out_apart (l : List Fx) (o : Out) (h : ∀ e ∈ l, e.within ctrs rings ctxs = true) :
    (l.foldr applyOut o).host = o.host ∧ (l.foldr applyOut o).fabric = o.fabric := by
  induction l with
  | nil => exact ⟨rfl, rfl⟩
  | cons e l ih =>
    obtain ⟨i1, i2⟩ := ih fun x hx => h x (List.mem_cons_of_mem _ hx)
    have := h e List.mem_cons_self
    cases e <;> simp_all [applyOut, Fx.within]

theorem applyAll_apart_out (w : Work) (l : List Fx) (a : Obs) (h : ∀ e ∈ l, e.withinOut ctrs rings ctxs = true) :
    Obs.Apart a (w.applyAll l a) ctrs rings ctxs := by
  unfold Work.applyAll
  induction l with
  | nil => exact .refl _ _ _ _
  | cons e l ih =>
    refine Obs.Apart.trans (ih fun x hx => h x (List.mem_cons_of_mem _ hx)) ?_
    have he := h e List.mem_cons_self
    cases e <;> first
      | exact .refl _ _ _ _
      | exact applyObs_apart w _ _ (by simpa [Fx.withinOut, Fx.hostOut, Fx.fabOut] using he)

/-- A command whose effects stay within some counters and rings leaves the rest of the outside alone. -/
theorem settle_apart_out (s : State) (w : Work) (h : ∀ e ∈ w.fx, e.withinOut ctrs rings ctxs = true) :
    Apart s (s.settle w) ctrs rings ctxs (w.fx.reverse.filterMap Fx.hostOut) (w.fx.reverse.filterMap Fx.fabOut) := by
  obtain ⟨l, hl, hx⟩ := (mirror_twinOnly { w with obs := w.applyAll w.fx s.obs, fx := [] } s.m s.obs).fx
  have hw : ∀ e ∈ l ++ ([] : List Fx), e.within ctrs rings ctxs = true := by
    intro e he; rw [List.append_nil] at he; exact Fx.within_of_toTwin (hx e he)
  have ho : Obs.Apart s.obs (s.settle w).obs ctrs rings ctxs := by
    refine Obs.Apart.trans (applyAll_apart_out w w.fx s.obs h) ?_
    unfold State.settle
    simp only [hl]
    exact applyAll_apart _ _ _ hw
  have hout : (s.settle w).out = (l ++ []).foldr applyOut (w.fx.foldr applyOut s.out) := by
    unfold State.settle
    simp only [hl]
  obtain ⟨o1, o2⟩ := out_apart (l ++ []) (w.fx.foldr applyOut s.out) hw
  obtain ⟨p1, p2⟩ := out_list w.fx s.out
  exact ⟨rfl, rfl, rfl, ho.ctr, ho.recs, ho.modes, ho.epochs, ho.bases, by rw [hout, o1, p1], by rw [hout, o2, p2]⟩

theorem within_out {e : Fx} (h : e.within ctrs rings ctxs = true) :
    e.withinOut ctrs rings ctxs = true ∧ e.hostOut = none ∧ e.fabOut = none := by
  cases e <;> simp_all [Fx.withinOut, Fx.within, Fx.hostOut, Fx.fabOut]

theorem settle_apart (s : State) (w : Work) (h : ∀ e ∈ w.fx, e.within ctrs rings ctxs = true) :
    Apart s (s.settle w) ctrs rings ctxs := by
  have := settle_apart_out s w fun e he => (within_out (h e he)).1
  rwa [List.filterMap_eq_nil_iff.2 (by intro e he; exact (within_out (h e (List.mem_reverse.1 he))).2.1),
    List.filterMap_eq_nil_iff.2 (by intro e he; exact (within_out (h e (List.mem_reverse.1 he))).2.2)] at this

theorem calm_of_out (w : Work) (h : ∀ e ∈ w.fx, e.withinOut ctrs rings ctxs = true) : w.calm := by
  intro b hb
  have := h _ hb
  simp [Fx.withinOut, Fx.within, Fx.hostOut, Fx.fabOut] at this

theorem calm_of_within (w : Work) (h : ∀ e ∈ w.fx, e.within ctrs rings ctxs = true) : w.calm :=
  calm_of_out w fun e he => (within_out (h e he)).1

/-- A command that raises no reset completes: the two sides are as it left them. -/
theorem run_sides (s : State) (f : Work → Work) (h : (f (start s)).calm)
    (k : s.m.fs.horn.held = true → (f (start s)).m.fs.horn.held = true) :
    ∃ t, t = s.settle (f (start s)) ∧ run s f = .next t ∧ t.fabricIs (f (start s)).m.fs ∧ t.hostIs (f (start s)).m.hs := by
  refine ⟨_, rfl, run_of_calm s f h k, ?_, settle_hs s _⟩
  obtain ⟨t, ht⟩ := settle_fs s (f (start s))
  unfold State.fabricIs
  rw [ht]

/-- A command of such effects completes. -/
theorem run_apart_out (s : State) (f : Work → Work) (ctrs rings ctxs : List Nat)
    (h : ∀ e ∈ (f (start s)).fx, e.withinOut ctrs rings ctxs = true)
    (k : s.m.fs.horn.held = true → (f (start s)).m.fs.horn.held = true) :
    ∃ t, run s f = .next t ∧ Apart s t ctrs rings ctxs ((f (start s)).fx.reverse.filterMap Fx.hostOut)
      ((f (start s)).fx.reverse.filterMap Fx.fabOut) ∧
      t.fabricIs (f (start s)).m.fs ∧ t.hostIs (f (start s)).m.hs := by
  obtain ⟨t, h1, h2, h3, h4⟩ := run_sides s f (calm_of_out _ h) k
  exact ⟨t, h2, h1 ▸ settle_apart_out s _ h, h3, h4⟩

theorem run_apart (s : State) (f : Work → Work) (ctrs rings ctxs : List Nat)
    (h : ∀ e ∈ (f (start s)).fx, e.within ctrs rings ctxs = true)
    (k : s.m.fs.horn.held = true → (f (start s)).m.fs.horn.held = true) :
    ∃ t, run s f = .next t ∧ Apart s t ctrs rings ctxs ∧ t.fabricIs (f (start s)).m.fs ∧ t.hostIs (f (start s)).m.hs := by
  obtain ⟨t, h1, h2, h3, h4⟩ := run_sides s f (calm_of_within _ h) k
  exact ⟨t, h2, h1 ▸ settle_apart s _ h, h3, h4⟩

end Sys2Proof.Machine
end

