-- ==== Sys2Proof/Laws/Crypto.lean ====
section
/-! SUPPORT. A CMAC has 16 bytes, and a packet that carries the first eight of its own verifies (R96, R97). -/

namespace Sys2Proof

theorem xorBytes_length (a b : List Nat) : (xorBytes a b).length = Nat.min a.length b.length := by
  simp [xorBytes]

theorem aesNextKey_length (k : List Nat) (r : Nat) (h : k.length = 16) : (aesNextKey k r).length = 16 := by
  simp only [aesNextKey, List.length_append, xorBytes_length, List.length_take, List.length_drop, List.length_cons,
    List.length_nil, h]
  decide

theorem aesRounds_length (l : List Nat) (hl : l ≠ []) (k s : List Nat) (h : k.length = 16) :
    (aesRounds l k s).length = 16 := by
  induction l generalizing k s with
  | nil => exact absurd rfl hl
  | cons r l ih =>
    cases l with
    | nil =>
      simp only [aesRounds, xorBytes_length, aesNextKey_length k r h, aesSubShift, List.length_map, List.length_range]
      decide
    | cons r' l => exact ih (by simp) _ _ (aesNextKey_length k r h)

theorem aes128_length (key block : List Byte) (h : key.length = 16) : (aes128 key block).length = 16 := by
  simp only [aes128, List.length_map]
  exact aesRounds_length _ (by simp) _ _ (by simpa using h)

theorem cmacChain_length (key : List Byte) (h : key.length = 16) (k1 k2 n x : Nat) (msg : List Byte)
    (hm : msg.length ≤ 16 * n + 15) : (cmacChain key k1 k2 (n + 1) x msg).length = 16 := by
  induction n generalizing x msg with
  | zero =>
    have : ¬ msg.length > 16 := by omega
    simp only [cmacChain, if_neg this]
    exact aes128_length _ _ h
  | succ n ih =>
    rw [cmacChain]
    split
    · exact ih _ _ (by simp; omega)
    · exact aes128_length _ _ h

theorem leBytes_length (n x : Nat) : (leBytes n x).length = n := by simp [leBytes]

theorem cmac_length (key : BitVec 128) (msg : List Byte) : (cmac key msg).length = 16 := by
  simp only [cmac]
  exact cmacChain_length _ (leBytes_length 16 _) _ _ _ _ _ (by omega)

theorem leBytes_succ (n x : Nat) : leBytes (n + 1) x = BitVec.ofNat 8 x :: leBytes n (x / 256) := by
  simp only [leBytes, List.range_succ_eq_map, List.map_cons, List.map_map]
  simp only [Nat.mul_zero, Nat.pow_zero, Nat.div_one, List.cons.injEq, true_and]
  apply List.map_congr_left
  intro i _
  show BitVec.ofNat 8 (x / 2 ^ (8 * (i + 1))) = BitVec.ofNat 8 (x / 256 / 2 ^ (8 * i))
  have h : 2 ^ (8 * (i + 1)) = 256 * 2 ^ (8 * i) := by
    rw [Nat.mul_succ, Nat.pow_add, Nat.mul_comm]
  rw [h, Nat.div_div_eq_div_mul]

/-- The bytes of the number that a byte string spells are the byte string. -/
theorem leBytes_ofLe (l : List Byte) : leBytes l.length (ofLe l) = l := by
  induction l with
  | nil => rfl
  | cons b l ih =>
    have hb := b.isLt
    rw [List.length_cons, leBytes_succ]
    have h1 : ofLe (b :: l) = b.toNat + 256 * ofLe l := rfl
    have h2 : BitVec.ofNat 8 (b.toNat + 256 * ofLe l) = b := by
      apply BitVec.eq_of_toNat_eq
      simp only [BitVec.toNat_ofNat]
      omega
    have h3 : (b.toNat + 256 * ofLe l) / 256 = ofLe l := by omega
    rw [h1, h2, h3, ih]

theorem ofLe_lt (l : List Byte) : ofLe l < 256 ^ l.length := by
  induction l with
  | nil => decide
  | cons b l ih =>
    have hb := b.isLt
    have h1 : ofLe (b :: l) = b.toNat + 256 * ofLe l := rfl
    rw [h1, List.length_cons, Nat.pow_succ]
    omega

namespace Machine

/-- The MAC of a packet under a key (R96, R97). -/
def macOf (key : BitVec 128) (op : Nat) (p : Packet) : DWord :=
  BitVec.ofNat 64 (ofLe ((cmac key (headerBytes op p ++ p.body)).take 8))

/-- A packet that carries its MAC verifies. -/
theorem macOk_macOf (key : BitVec 128) (op : Nat) (p : Packet) : macOk key op { p with mac := macOf key op p } = true := by
  have hl : ((cmac key (headerBytes op p ++ p.body)).take 8).length = 8 := by simp [cmac_length]
  have hlt := ofLe_lt ((cmac key (headerBytes op p ++ p.body)).take 8)
  have he := leBytes_ofLe ((cmac key (headerBytes op p ++ p.body)).take 8)
  rw [hl] at hlt he
  have h64 : (256 : Nat) ^ 8 = 2 ^ 64 := by decide
  rw [h64] at hlt
  have hb : headerBytes op { p with mac := macOf key op p } = headerBytes op p := rfl
  unfold macOk
  rw [hb]
  simp only [macOf, BitVec.toNat_ofNat, Nat.mod_eq_of_lt hlt, he, decide_true]

end Machine

end Sys2Proof
end

