-- ==== Sys2Proof/Laws/MemQueue.lean ====
section
/-! SUPPORT. The accesses that a command queues at the memory ports, or that rounds serve there, change nothing but the
memory ports; a setting that waits for its reply changes nothing but the settings that wait. -/

namespace Sys2Proof.Machine

/-- `v` differs from `w` in the memory ports alone. -/
structure MemOnly (w v : Work) : Prop where
  idn : v.idn = w.idn
  clk : v.clk = w.clk
  obs : v.obs = w.obs
  hs : v.m.hs = w.m.hs
  fx : v.fx = w.fx
  fs : ∃ p, v.m.fs = { w.m.fs with memPorts := p }

theorem MemOnly.rfl {w : Work} : MemOnly w w := ⟨Eq.refl _, Eq.refl _, Eq.refl _, Eq.refl _, Eq.refl _, w.m.fs.memPorts, Eq.refl _⟩

theorem MemOnly.trans {a b c : Work} (h : MemOnly a b) (k : MemOnly b c) : MemOnly a c := by
  obtain ⟨p, hp⟩ := h.fs
  obtain ⟨q, hq⟩ := k.fs
  exact ⟨k.idn.trans h.idn, k.clk.trans h.clk, k.obs.trans h.obs, k.hs.trans h.hs, k.fx.trans h.fx, q, by rw [hq, hp]⟩

theorem MemOnly.each {α : Type} {l : List α} {f : Work → α → Work} (hf : ∀ w a, MemOnly w (f w a)) (w : Work) :
    MemOnly w (w.each l f) := by
  unfold Work.each
  induction l generalizing w with
  | nil => exact .rfl
  | cons a l ih => exact (hf w a).trans (ih (f w a))

theorem MemOnly.queueAt (w : Work) (port n : Nat) (c : MemClass) (x : Nat) (y : MemWhy) : MemOnly w (w.queueAt port n c x y) := by
  unfold Work.queueAt
  split
  · exact .rfl
  · exact ⟨Eq.refl _, Eq.refl _, Eq.refl _, Eq.refl _, Eq.refl _, _, Eq.refl _⟩

theorem MemOnly.queueExtents (w : Work) (l : List Nat) (n : Nat) (c : MemClass) (x : Nat) (y : MemWhy) :
    MemOnly w (w.queueExtents l n c x y) := .each (fun w _ => .queueAt w _ _ _ _ _) w

theorem MemOnly.queueHandle (w : Work) (h n c : Nat) : MemOnly w (w.queueHandle h n c) := .queueAt w _ _ _ _ _

theorem MemOnly.queueCounts (w : Work) (s c : Nat) : MemOnly w (w.queueCounts s c) := .queueAt w _ _ _ _ _

theorem MemOnly.queueParkHeader (w : Work) (s c : Nat) : MemOnly w (w.queueParkHeader s c) := .queueAt w _ _ _ _ _

theorem MemOnly.memServed (w : Work) (y : MemWhy) : MemOnly w (w.memServed y) :=
  ⟨Eq.refl _, Eq.refl _, Eq.refl _, Eq.refl _, Eq.refl _, _, Eq.refl _⟩

theorem MemOnly.memRound (w : Work) : MemOnly w w.memRound :=
  ⟨Eq.refl _, Eq.refl _, Eq.refl _, Eq.refl _, Eq.refl _, _, Eq.refl _⟩

@[simp] theorem Work.latch_fs (w : Work) (c : Word) (s : Setting) :
    (w.latch c s).m.fs = { w.m.fs with latches := w.m.fs.latches ++ [{ cseq := c, held := s }] } := rfl
@[simp] theorem Work.latch_hs (w : Work) (c : Word) (s : Setting) : (w.latch c s).m.hs = w.m.hs := rfl
@[simp] theorem Work.latch_fx (w : Work) (c : Word) (s : Setting) : (w.latch c s).fx = w.fx := rfl
@[simp] theorem Work.unlatch_fs (w : Work) (c : Word) :
    (w.unlatch c).m.fs = { w.m.fs with latches := w.m.fs.latches.filter (·.cseq ≠ c) } := rfl
@[simp] theorem Work.unlatch_hs (w : Work) (c : Word) : (w.unlatch c).m.hs = w.m.hs := rfl
@[simp] theorem Work.unlatch_fx (w : Work) (c : Word) : (w.unlatch c).fx = w.fx := rfl

end Sys2Proof.Machine
end

