-- ==== Sys2Proof/Laws/Step.lean ====
section
/-! SUPPORT. Everything a command can do, said once: how each one ends. -/

namespace Sys2Proof.Machine

/-- The commands that tell of the passing of time: a TREF edge, and the two ends of delay-line time. -/
def tellsTime (i : Instr) : Bool :=
  match i with
  | .trefEdge _ | .delayLineEnter _ _ _ | .delayLineLeave _ => true
  | _ => false

/-- The ways in which a command ends: a change of the two sides from the present clocks or from new ones, new clocks
alone, a finding of TREF off frequency, a wait at the input of a stopped unit, nothing where no unit deals with it, or a reset
or release of a side. -/
inductive Ends (i : Instr) (s : State) : State → Prop where
  | command (f : Work → Work) : Ends i s (finish s (f (start s)))
  | clocked (c : Clock) (f : Work → Work) (h : tellsTime i = true) :
      Ends i s (finish { s with clk := c } (f (start { s with clk := c })))
  | clocks (c : Clock) (h : tellsTime i = true) : Ends i s { s with clk := c }
  | waits : Ends i s { s with stalled := s.stalled ++ [{ cmd := i, at_ := s.clk.fs.toNat }] }
  | unseen : Ends i s s
  | offFrequency (h : tellsTime i = true) :
      Ends i s { s with m := { s.m with fs := { s.m.fs with speed := { s.m.fs.speed with freqBad := true } } } }
  | hostReset (h : i = .resetHs) : Ends i s s.hostReset
  | fabricReset (h : i = .resetFs) : Ends i s s.fabricReset
  | hostRelease (h : i = .resetHsRelease) : Ends i s s.hostRelease
  | fabricRelease (g p : Nat) (h : i = .resetFsRelease g p) : Ends i s (s.fabricRelease g p)

theorem Ends.run {i : Instr} {s t : State} {f : Work → Work} (h : Machine.run s f = .next t) : Ends i s t := by
  cases h; exact .command f

theorem Ends.onHostPort {i : Instr} {s t : State} {port : Nat} {f : Work → Work} (h : Machine.onHostPort s port f = .next t) :
    Ends i s t := by
  unfold Machine.onHostPort at h
  split at h
  · exact .run h
  · cases h

theorem Ends.onMemPort {i : Instr} {s t : State} {port : Nat} {f : Work → Work} (h : Machine.onMemPort s port f = .next t) :
    Ends i s t := by
  unfold Machine.onMemPort at h
  split at h
  · exact .run h
  · cases h

theorem Ends.atUnit {i : Instr} {s t : State} {may : Work → Bool} {f : Work → Work} (h : Machine.atUnit s i may f = .next t) :
    Ends i s t := by
  unfold Machine.atUnit at h
  split at h
  · cases h; exact .unseen
  · split at h
    · cases h; exact .waits
    · exact .run h

theorem Ends.atMemPort {i : Instr} {s t : State} {port : Nat} {f : Work → Work} (h : Machine.atMemPort s port i f = .next t) :
    Ends i s t := by
  unfold Machine.atMemPort at h
  split at h
  · exact .atUnit h
  · cases h

theorem Ends.packet {i : Instr} {s t : State} {port op : Nat} {p : Packet} {l : List EccEvent}
    (h : Machine.packet s port op p l = .next t) : Ends i s t := .onHostPort h

theorem Ends.refl {i : Instr} (s : State) (h : tellsTime i = true) : Ends i s s := .clocks s.clk h

theorem Ends.trefEdge (s : State) (b : Bool) :
    Ends (.trefEdge b) s (s.trefEdge b) := by
  unfold State.trefEdge
  split
  · split
    · exact .clocks _ rfl
    · exact .refl s rfl
  · split
    · exact .clocks _ rfl
    · exact .refl s rfl

theorem Ends.delayLineEnter (s : State) (b q : Bool) (n : Nat) :
    Ends (.delayLineEnter b q n) s (s.delayLineEnter b q n) := by
  unfold State.delayLineEnter
  simp only
  split
  · split
    · exact .refl s rfl
    · split
      · split
        · exact .offFrequency rfl
        · exact .refl s rfl
      · exact .clocked { s.clk with fs := s.clk.fs + BitVec.ofNat 64 n, fsDegraded := true, fsFrom := s.clk.fs.toNat }
          (fun w => w.enterDelayLine true q) rfl
  · split
    · exact .refl s rfl
    · exact .clocked { s.clk with hs := s.clk.hs + BitVec.ofNat 64 n, hsDegraded := true, hsFrom := s.clk.hs.toNat }
        (fun w => w.enterDelayLine false q) rfl

theorem Ends.delayLineLeave (s : State) (b : Bool) :
    Ends (.delayLineLeave b) s (s.delayLineLeave b) := by
  unfold State.delayLineLeave
  simp only
  split
  · split
    · exact .refl s rfl
    · exact .clocked { s.clk with fsDegraded := false, fsFrom := 0, fsEst := s.clk.fsTimes } (fun w => w.leaveDelayLine true) rfl
  · split
    · exact .refl s rfl
    · exact .clocked { s.clk with hsDegraded := false, hsFrom := 0, hsEst := s.clk.hsTimes } (fun w => w.leaveDelayLine false) rfl

/-- Every command that answers a next state ends in one of these ways. -/
theorem exec_ends (i : Instr) (s t : State) (h : exec i s = .next t) : Ends i s t := by
  cases i
  case delayLineEnter b q n => cases h; exact .delayLineEnter s b q n
  case delayLineLeave b => cases h; exact .delayLineLeave s b
  case trefEdge b => cases h; exact .trefEdge s b
  case resetHs => cases h; exact .hostReset rfl
  case resetFs => cases h; exact .fabricReset rfl
  case resetHsRelease => cases h; exact .hostRelease rfl
  case resetFsRelease g p => cases h; exact .fabricRelease g p rfl
  case submit | append | cancel | pause | resume | credit | prefixPut | prefixDrop | query | statsRead | ping |
      cfgRead | cfgWrite | modelLoad | variantSet | variantWithdraw | poolAttach | poolDetach | engineFreeze |
      engineThaw | tenantSet | tenantThaw | tenantReset | stencilLoad | stencilDrop | sharedHandleCreate |
      sharedHandleSetGrants | sharedHandleDrop | envelopeSet | horn | hornRelease | counterMode | traceSet |
      twinAttach | twinDetach | takeover | reservedOpcode => exact .packet h
  case framingDrop | partialPacketTimeout => exact .onHostPort h
  case memRetrain | memRefresh => exact .onMemPort h
  case memReadReturn | dfiPhyRequest => exact .atMemPort h
  case keyGraceExpiry | svcKeyLoad | stewardThaw | svcDataCapture | svcDataUpdate | replyRelease | ringRecordSend |
      heartbeatSend | heartbeatRx | twinLossActive | twinLossShadow | helloSend | helloRx | peerLinkLoss | hornTrig |
      hornCutDone | hsSelfTestDone =>
    simp only [exec, execKeyGraceExpiry, execSvcKeyLoad, execStewardThaw, execSvcDataCapture, execSvcDataUpdate,
      execReplyRelease, execRingRecordSend, execHeartbeatSend, execHeartbeatRx, execTwinLossActive,
      execTwinLossShadow, execHelloSend, execHelloRx, execPeerLinkLoss, execHornTrig, execHornCutDone,
      execHsSelfTestDone] at h
    exact .run h
  case gateCrossing | imageFetchDone | loadRetry =>
    simp only [exec, execGateCrossing, execImageFetchDone, execLoadRetry] at h
    exact .atUnit h
  all_goals exact .atUnit h

/-- A command ends as its changes settle, with what a hold that it has ended kept waiting, or with the reset of a side whose
state failed (R825, R871). -/
theorem finish_cases (s : State) (w : Work) :
    ∃ v, finish s w = s.settle v ∨ finish s w = (s.settle v).failedSide true ∨ finish s w = (s.settle v).failedSide false := by
  unfold finish
  generalize (w.whenDo (s.m.fs.horn.held && !w.fs.horn.held) fun w => w.serveAll.settleWaits) = v
  refine ⟨v, ?_⟩
  simp only
  split
  · exact .inr (.inl rfl)
  · split
    · exact .inr (.inr rfl)
    · exact .inl rfl

/-- What every piece of a command's end keeps, the command keeps. -/
theorem Ends.keep {P : State → Prop} (settle : ∀ s w, P s → P (s.settle w)) (clocks : ∀ s (c : Clock), P s → P { s with clk := c })
    (waits : ∀ (s : State) l, P s → P { s with stalled := l }) (speed : ∀ (s : State) x, P s → P { s with m := { s.m with fs := { s.m.fs with speed := x } } })
    (hostReset : ∀ s, P s → P s.hostReset) (fabricReset : ∀ s, P s → P s.fabricReset)
    (hostRelease : ∀ s, P s → P s.hostRelease) (fabricRelease : ∀ s g p, P s → P (s.fabricRelease g p))
    {i : Instr} {s t : State} (h : Ends i s t) (p : P s) : P t := by
  have fin : ∀ s w, P s → P (finish s w) := by
    intro s w p
    obtain ⟨v, e⟩ := finish_cases s w
    have q := settle s v p
    rcases e with e | e | e <;> rw [e]
    · exact q
    · exact fabricRelease _ _ _ (fabricReset _ q)
    · exact hostRelease _ (hostReset _ (settle _ _ q))
  cases h with
  | command f => exact fin _ _ p
  | clocked c f _ => exact fin _ _ (clocks _ c p)
  | clocks c _ => exact clocks _ c p
  | waits => exact waits _ _ p
  | unseen => exact p
  | offFrequency _ => exact speed _ _ p
  | hostReset _ => exact hostReset _ p
  | fabricReset _ => exact fabricReset _ p
  | hostRelease _ => exact hostRelease _ p
  | fabricRelease g q _ => exact fabricRelease _ g q p

end Sys2Proof.Machine
end

