-- ==== Sys2Proof/Laws/Packet.lean ====
section
/-! SUPPORT. A packet that the message gate accepts: what has happened when its unit begins to act on it. -/

namespace Sys2Proof.Machine

/-! Host contexts. -/

@[simp] theorem hctx_modHctx_self (w : Work) (c : Nat) (g : HsCtx → HsCtx) : (w.modHctx c g).hctx c = g (w.hctx c) := by
  simp [Work.modHctx, Work.hctx, Work.modHs]

theorem hctx_modHctx_ne (w : Work) {c d : Nat} (g : HsCtx → HsCtx) (h : d ≠ c) : (w.modHctx c g).hctx d = w.hctx d := by
  simp [Work.modHctx, Work.hctx, Work.modHs, Tbl.getD_modD_ne, h]

theorem hctx_modHctx (w : Work) (c d : Nat) (g : HsCtx → HsCtx) :
    (w.modHctx c g).hctx d = if d = c then g (w.hctx d) else w.hctx d := by
  split
  · rename_i h; subst h; simp
  · rename_i h; exact hctx_modHctx_ne w g h

@[simp] theorem hctx_count (w : Work) (o n d : Nat) : (w.count o n).hctx d = w.hctx d := by simp [Work.hctx]
@[simp] theorem hctx_eff (w : Work) (e : Fx) (d : Nat) : (w.eff e).hctx d = w.hctx d := rfl
@[simp] theorem hctx_event (w : Work) (r k : Nat) (a : Bool) (x y d : Nat) : (w.event r k a x y).hctx d = w.hctx d := rfl
@[simp] theorem hctx_modFs (w : Work) (g : FabricSide → FabricSide) (d : Nat) : (w.modFs g).hctx d = w.hctx d := rfl

theorem set_set {α : Type} (t : Tbl α) (k : Nat) (a b : α) : (t.set k a).set k b = t.set k b := by
  induction t with
  | nil => simp [Tbl.set]
  | cons x r ih =>
    obtain ⟨i, y⟩ := x
    by_cases h : k < i
    · simp [Tbl.set, h]
    · by_cases e : i = k
      · simp [Tbl.set, e]
      · simp [Tbl.set, h, e, ih]

theorem modHctx_modHctx (w : Work) (c : Nat) (f g : HsCtx → HsCtx) :
    (w.modHctx c f).modHctx c g = w.modHctx c (fun h => g (f h)) := by
  simp [Work.modHctx, Work.modHs, Tbl.modD, set_set]

/-- The host context without the frames that its messages wait for. -/
def HsCtx.unneeded (h : HsCtx) : HsCtx := { h with stream := h.stream.map fun i => { i with need := 0 } }

theorem unheld_hctx (h : HostSide) (c : Nat) :
    h.unheld.ctxs.getD c (HsCtx.initial c) = (h.ctxs.getD c (HsCtx.initial c)).unneeded := by
  simp only [HostSide.unheld, Tbl.getD, Tbl.get?_mapV]
  cases h.ctxs.get? c <;> rfl

theorem hctx_of_hostIs {t : State} {w : Work} (h : t.m.hs.unheld = w.m.hs.unheld) (c : Nat) :
    ((start t).hctx c).unneeded = (w.hctx c).unneeded := by
  have := congrArg (fun x => x.ctxs.getD c (HsCtx.initial c)) h
  simp only [unheld_hctx] at this
  exact this

theorem unneeded_messages {a b : HsCtx} (h : a.unneeded = b.unneeded) : a.stream.map (·.msg) = b.stream.map (·.msg) := by
  have := congrArg (fun x => x.stream.map (·.msg)) h
  simp only [HsCtx.unneeded, List.map_map] at this
  exact this

/-! Keys. -/

/-- What checks 4 to 9 read of a context. -/
structure CtxSame (a b : HsCtx) : Prop where
  resetting : b.resetting = a.resetting
  frozen : b.frozen = a.frozen
  queue : b.queue = a.queue
  acting : b.acting = a.acting
  hiSeq : b.hiSeq = a.hiSeq
  hiMac : b.hiMac = a.hiMac
  depth : b.sqDepth = a.sqDepth ∧ b.nextDepth = a.nextDepth
  f2 : b.f2 = a.f2
  key : b.key = a.key ∧ b.prevKey = a.prevKey
  last : b.lastPort = a.lastPort
  credits : b.stream.filter (·.credit) = a.stream.filter (·.credit)

theorem CtxSame.rfl {a : HsCtx} : CtxSame a a := by constructor <;> simp

theorem CtxSame.trans {a b c : HsCtx} (h : CtxSame a b) (k : CtxSame b c) : CtxSame a c := by
  obtain ⟨h1, h2, h3, h4, h5, h6, ⟨h7, h8⟩, h9, ⟨h10, h11⟩, h12, h13⟩ := h
  obtain ⟨k1, k2, k3, k4, k5, k6, ⟨k7, k8⟩, k9, ⟨k10, k11⟩, k12, k13⟩ := k
  exact ⟨k1.trans h1, k2.trans h2, k3.trans h3, k4.trans h4, k5.trans h5, k6.trans h6, ⟨k7.trans h7, k8.trans h8⟩,
    k9.trans h9, ⟨k10.trans h10, k11.trans h11⟩, k12.trans h12, k13.trans h13⟩

theorem CtxSame.credits_eq {a b : HsCtx} (h : CtxSame a b) : b.credits = a.credits := by
  simp [HsCtx.credits, h.queue, h.acting, h.credits, h.depth.1]

/-- A notice joins one stream; nothing else changes while the host side is up. -/
theorem notice_up (w : Work) (c : Nat) (r : Reply) (h : w.m.hs.up = true) :
    w.notice c r = w.modHctx c fun x => { x with stream := x.stream ++ [{
      port := (w.hctx c).lastPort.getD 0, msg := .reply { r with ctx := c, kind := 1 }
      need := if w.mirrors then w.m.fs.twin.link.nextSeq else 0 }] } := by
  simp [Work.notice, Work.stream, h]

/-- What a command has done when the acceptance of a packet under a key is over. -/
structure Aged (w v : Work) : Prop where
  idn : v.idn = w.idn
  clk : v.clk = w.clk
  obs : v.obs = w.obs
  fs : v.m.fs = w.m.fs
  side : v.m.hs = { w.m.hs with ctxs := v.m.hs.ctxs }
  ctx : ∀ d, CtxSame (w.hctx d) (v.hctx d)

theorem Aged.rfl {w : Work} : Aged w w := ⟨Eq.refl _, Eq.refl _, Eq.refl _, Eq.refl _, Eq.refl _, fun _ => .rfl⟩

theorem Aged.trans {a b c : Work} (h : Aged a b) (k : Aged b c) : Aged a c :=
  ⟨k.idn.trans h.idn, k.clk.trans h.clk, k.obs.trans h.obs, k.fs.trans h.fs, by rw [k.side, h.side],
    fun d => (h.ctx d).trans (k.ctx d)⟩

theorem Aged.modHctx (w : Work) (c : Nat) (g : HsCtx → HsCtx) (h : CtxSame (w.hctx c) (g (w.hctx c))) :
    Aged w (w.modHctx c g) := by
  refine ⟨Eq.refl _, Eq.refl _, Eq.refl _, Eq.refl _, Eq.refl _, fun d => ?_⟩
  rw [hctx_modHctx]
  split
  · rename_i e; subst e; exact h
  · exact .rfl

theorem Aged.notice (w : Work) (c : Nat) (r : Reply) (h : w.m.hs.up = true) : Aged w (w.notice c r) := by
  rw [notice_up w c r h]
  exact .modHctx w c _ ⟨by rfl, by rfl, by rfl, by rfl, by rfl, by rfl, ⟨by rfl, by rfl⟩, by rfl, ⟨by rfl, by rfl⟩, by rfl, by simp⟩

theorem acceptUnder_aged (w : Work) (a : Auth) (c : Nat) (h : w.m.hs.up = true) : Aged w (w.acceptUnder a c) := by
  have cnt : ∀ (v : Work) (o n : Nat), Aged v (v.count o n) := fun v o n =>
    ⟨by simp, by simp, by simp, by simp, by simp, fun d => by simpa using CtxSame.rfl⟩
  have acc : ∀ (v : Work) (g : HsCtx → HsCtx), (∀ x, CtxSame x (g x)) → Aged v (v.modHctx c g) := fun v g hg => .modHctx v c g (hg _)
  unfold Work.acceptUnder
  cases a with
  | fails => exact .rfl
  | previous =>
    simp only
    have a1 : Aged w ((w.modHctx c fun x => { x with acceptedPrev := (w.hctx c).acceptedPrev + 1 }).count (cStaleKey c)) :=
      (acc w _ fun x => ⟨by rfl, by rfl, by rfl, by rfl, by rfl, by rfl, ⟨by rfl, by rfl⟩, by rfl, ⟨by rfl, by rfl⟩, by rfl, by rfl⟩).trans (cnt _ _ _)
    have up : ((w.modHctx c fun x => { x with acceptedPrev := (w.hctx c).acceptedPrev + 1 }).count (cStaleKey c)).m.hs.up = true := by
      rw [a1.side]; exact h
    split
    · exact a1.trans (.notice _ _ _ up)
    · split
      · exact a1.trans (.notice _ _ _ up)
      · exact a1
  | current =>
    simp only
    have a1 : Aged w (w.modHctx c fun x => { x with accepted := (w.hctx c).accepted + 1 }) :=
      acc w _ fun x => ⟨by rfl, by rfl, by rfl, by rfl, by rfl, by rfl, ⟨by rfl, by rfl⟩, by rfl, ⟨by rfl, by rfl⟩, by rfl, by rfl⟩
    split
    · refine a1.trans ((acc _ (fun x => { x with keyAged := true }) fun x => ⟨by rfl, by rfl, by rfl, by rfl, by rfl, by rfl, ⟨by rfl, by rfl⟩, by rfl, ⟨by rfl, by rfl⟩, by rfl, by rfl⟩).trans (.notice _ _ _ ?_))
      exact h
    · split
      · refine a1.trans ((acc _ (fun x => { x with keyExpired := true }) fun x => ⟨by rfl, by rfl, by rfl, by rfl, by rfl, by rfl, ⟨by rfl, by rfl⟩, by rfl, ⟨by rfl, by rfl⟩, by rfl, by rfl⟩).trans (.notice _ _ _ ?_))
        exact h
      · exact a1

/-! From the port to the unit. -/

/-- What sending a frame to the twin leaves alone. -/
theorem sendFrame_keeps (w : Work) (b : FrameBody) :
    (w.sendFrame 0 b).m.hs = w.m.hs ∧ (w.sendFrame 0 b).m.fs = { w.m.fs with twin := (w.sendFrame 0 b).m.fs.twin } ∧
    (w.sendFrame 0 b).m.fs.twin.state = w.m.fs.twin.state ∧ (w.sendFrame 0 b).idn = w.idn ∧
    (w.sendFrame 0 b).clk = w.clk ∧ (w.sendFrame 0 b).obs = w.obs := by
  unfold Work.sendFrame
  simp only
  split
  · exact ⟨rfl, rfl, rfl, rfl, rfl, rfl⟩
  · simp [Work.whenDo, Work.modLink]

theorem forwardCommand_keeps (w : Work) (i : QItem) :
    (w.forwardCommand i).m.hs = w.m.hs ∧ (w.forwardCommand i).m.fs = { w.m.fs with twin := (w.forwardCommand i).m.fs.twin } ∧
    (w.forwardCommand i).m.fs.twin.state = w.m.fs.twin.state ∧ (w.forwardCommand i).idn = w.idn ∧
    (w.forwardCommand i).clk = w.clk ∧ (w.forwardCommand i).obs = w.obs := by
  unfold Work.forwardCommand
  simp only
  split
  · obtain ⟨h1, h2, h3, h4, h5, h6⟩ := sendFrame_keeps w (.command i.port i.opcode i.pkt)
    refine ⟨h1, ?_, h3, h4, h5, h6⟩
    simp only [Work.modFs_fs]
    rw [h2]
  · exact ⟨rfl, rfl, rfl, rfl, rfl, rfl⟩

/-- What a command has left alone so far: all but the pairing unit, the contexts of the host side, the ports that discard
beats, and its effects. -/
structure Passed (w v : Work) : Prop where
  idn : v.idn = w.idn
  clk : v.clk = w.clk
  obs : v.obs = w.obs
  fs : v.m.fs = { w.m.fs with twin := v.m.fs.twin }
  state : v.m.fs.twin.state = w.m.fs.twin.state
  side : v.m.hs = { w.m.hs with ctxs := v.m.hs.ctxs, skipping := v.m.hs.skipping }

theorem Passed.rfl {w : Work} : Passed w w := ⟨Eq.refl _, Eq.refl _, Eq.refl _, Eq.refl _, Eq.refl _, Eq.refl _⟩

theorem Passed.trans {a b c : Work} (h : Passed a b) (k : Passed b c) : Passed a c :=
  ⟨k.idn.trans h.idn, k.clk.trans h.clk, k.obs.trans h.obs, by rw [k.fs, h.fs], k.state.trans h.state, by rw [k.side, h.side]⟩

theorem Passed.of_aged {w v : Work} (h : Aged w v) : Passed w v :=
  ⟨h.idn, h.clk, h.obs, by rw [h.fs], by rw [h.fs], by rw [h.side]⟩

theorem Passed.modHctx (w : Work) (c : Nat) (g : HsCtx → HsCtx) : Passed w (w.modHctx c g) :=
  ⟨Eq.refl _, Eq.refl _, Eq.refl _, Eq.refl _, Eq.refl _, Eq.refl _⟩

theorem Passed.count (w : Work) (o n : Nat) : Passed w (w.count o n) :=
  ⟨by simp, by simp, by simp, by simp, by simp, by simp⟩

theorem Passed.eff (w : Work) (e : Fx) : Passed w (w.eff e) :=
  ⟨Eq.refl _, Eq.refl _, Eq.refl _, Eq.refl _, Eq.refl _, Eq.refl _⟩

theorem Passed.forwardCommand (w : Work) (i : QItem) : Passed w (w.forwardCommand i) := by
  obtain ⟨h1, h2, h3, h4, h5, h6⟩ := forwardCommand_keeps w i
  exact ⟨h4, h5, h6, h2, h3, by rw [h1]⟩

theorem Passed.up {w v : Work} (h : Passed w v) : v.m.hs.up = w.m.hs.up := by rw [h.side]

/-- The command when the packet has passed the checks of its key. -/
def Work.keyed (w : Work) (port op : Nat) (p : Packet) : Work :=
  ((w.modHs fun h => { h with skipping := h.skipping.filter (· ≠ port) }).count (cRxBeats port)
    ((p.body.length + 64 + 63) / 64)).acceptUnder (w.authOf op p) p.ctx.toNat

/-- The command when the packet has left its queue and its unit begins to act on it. -/
def Work.taken (w : Work) (port op : Nat) (p : Packet) (ecc : List EccEvent) : Work :=
  (((w.keyed port op p).modHctx p.ctx.toNat fun h => { h with hiSeq := p.cseq, hiMac := some p.mac, lastPort := some port }).forwardCommand
    { port := port, opcode := op, pkt := p, noted := w.hsNow, ecc := ecc }).modHctx p.ctx.toNat fun h => { h with queue := [] }

theorem keyed_passed (w : Work) (port op : Nat) (p : Packet) (h : w.m.hs.up = true) : Passed w (w.keyed port op p) := by
  unfold Work.keyed
  have h1 : Passed w (w.modHs fun h => { h with skipping := h.skipping.filter (· ≠ port) }) :=
    ⟨Eq.refl _, Eq.refl _, Eq.refl _, Eq.refl _, Eq.refl _, Eq.refl _⟩
  have h2 := h1.trans (.count _ (cRxBeats port) ((p.body.length + 64 + 63) / 64))
  exact h2.trans (.of_aged (acceptUnder_aged _ _ _ (h2.up.trans h)))

theorem taken_passed (w : Work) (port op : Nat) (p : Packet) (ecc : List EccEvent) (h : w.m.hs.up = true) :
    Passed w (w.taken port op p ecc) :=
  (((keyed_passed w port op p h).trans (.modHctx _ _ _)).trans (.forwardCommand _ _)).trans (.modHctx _ _ _)

theorem keyed_ctx (w : Work) (port op : Nat) (p : Packet) (h : w.m.hs.up = true) (d : Nat) :
    CtxSame (w.hctx d) ((w.keyed port op p).hctx d) := by
  unfold Work.keyed
  refine CtxSame.trans (b := ((w.modHs fun h => { h with skipping := h.skipping.filter (· ≠ port) }).count (cRxBeats port)
    ((p.body.length + 64 + 63) / 64)).hctx d) ?_ ((acceptUnder_aged _ _ _ ?_).ctx d)
  · rw [hctx_count]
    exact CtxSame.rfl
  · simpa using h

theorem keyed_skipping (w : Work) (port op : Nat) (p : Packet) (h : w.m.hs.up = true) :
    (w.keyed port op p).m.hs.skipping = w.m.hs.skipping.filter (· ≠ port) := by
  unfold Work.keyed
  rw [(acceptUnder_aged _ _ _ (by simpa [Work.modHctx] using h)).side]
  simp

theorem taken_skipping (w : Work) (port op : Nat) (p : Packet) (ecc : List EccEvent) (h : w.m.hs.up = true) :
    (w.taken port op p ecc).m.hs.skipping = w.m.hs.skipping.filter (· ≠ port) := by
  unfold Work.taken
  rw [← keyed_skipping w port op p h]
  simp only [Work.modHctx, Work.modHs_hs]
  rw [(forwardCommand_keeps _ _).1]
  rfl

theorem hctx_congr {v w : Work} (h : v.m.hs = w.m.hs) (d : Nat) : v.hctx d = w.hctx d := by simp [Work.hctx, h]

theorem taken_ctx (w : Work) (port op : Nat) (p : Packet) (ecc : List EccEvent) (h : w.m.hs.up = true) (d : Nat) :
    CtxSame (if d = p.ctx.toNat then
        { w.hctx d with lastPort := some port, hiSeq := p.cseq, hiMac := some p.mac, queue := [] } else w.hctx d)
      ((w.taken port op p ecc).hctx d) := by
  have k := keyed_ctx w port op p h d
  unfold Work.taken
  rw [hctx_modHctx, hctx_congr (forwardCommand_keeps _ _).1, hctx_modHctx]
  split <;> rename_i e
  · obtain ⟨k1, k2, k3, k4, k5, k6, k7, k8, k9, k10, k11⟩ := k
    exact ⟨k1, k2, rfl, k4, rfl, rfl, k7, k8, k9, rfl, k11⟩
  · exact k

theorem authOf_congr {v w : Work} (op : Nat) (p : Packet) (h1 : v.hctx p.ctx.toNat = w.hctx p.ctx.toNat)
    (h2 : v.clk = w.clk) (h3 : v.m.fs = w.m.fs) (h4 : v.idn = w.idn) (h5 : v.m.hs.keyGrace = w.m.hs.keyGrace) :
    v.authOf op p = w.authOf op p := by
  unfold Work.authOf Work.inGrace Work.hsFired Work.firedAt Work.khz Work.reg Work.raw Work.hsNow
  simp only [h1, h2, h4, h5, Work.fs_eq, Work.hs_eq, h3]
  rfl

/-- Checks 1 to 9 of an accepted packet put it into its empty queue. -/
theorem admit_accepted {s : State} {port op : Nat} {p : Packet} {ecc : List EccEvent} (h : Accepted s port op p) :
    (start s).admitPacket port op p ecc =
      ((((start s).keyed port op p).modHctx p.ctx.toNat fun h => { h with hiSeq := p.cseq, hiMac := some p.mac, lastPort := some port }).forwardCommand
        (arrived s port op p ecc)).enqueue (arrived s port op p ecc) := by
  obtain ⟨hport, hup, hbody, hauth, htaken, ⟨hres, hfro⟩, ⟨hf1, hf2⟩, ⟨hp1, hp2, hp3⟩, ⟨hq, hact⟩, hcr, hfree, hready, htw⟩ := h
  have hk := keyed_ctx (start s) port op p hup p.ctx.toNat
  unfold Work.admitPacket
  extract_lets c w1 a w2 h2
  have ha : a = (start s).authOf op p :=
    authOf_congr op p (by simp [w1, Work.hctx]) (by simp [w1]) (by simp [w1]) (by simp [w1]) (by simp [w1])
  have hd : w1.discardsTenants = (start s).discardsTenants := by simp [Work.discardsTenants, Work.twinState, w1]
  have hw : w2 = (start s).keyed port op p := by simp only [w2, ha]; rfl
  rw [if_neg (by omega), hd]
  simp only [h2, hw]
  rw [if_neg (by rw [ha]; exact hauth), if_neg (by rcases htaken with e | e <;> simp [c, e])]
  rw [if_neg (by simp [c, hk.resetting, hk.frozen, hres, hfro])]
  have hn : ((start s).keyed port op p).hsNow = s.clk.hs.toNat := by
    simp [Work.hsNow, (keyed_passed (start s) port op p hup).clk]
  unfold Work.checks4to9
  extract_lets p' c' h' d w3
  have hh : h'.hiSeq = ((start s).hctx p.ctx.toNat).hiSeq := hk.hiSeq
  have hdd : d = (p.cseq - ((start s).hctx p.ctx.toNat).hiSeq).toNat := by simp only [d, hh]; rfl
  rw [if_neg (by rintro ⟨e, _⟩; rw [hh] at e; change p.cseq = _ at e; rw [e] at hf1; simp at hf1)]
  rw [if_neg (by rw [hdd]; omega)]
  have hc2 : (w3.hctx c').credits = ((start s).hctx p.ctx.toNat).credits := by
    simp only [w3, hctx_modHctx_self]
    have := hk.credits_eq
    simpa [HsCtx.credits] using this
  rw [if_neg (by simp [hp1]), if_neg (by simpa [c'] using hp2), if_neg (by simpa using hp3),
    if_neg (by rw [hc2]; rintro ⟨e1, e2⟩; exact hcr e1 e2)]
  simp only [w3, hn]
  rfl

/-- What the gate asks of a packet's units does not depend on the packets themselves. -/
theorem Passed.fabricTakes {w v : Work} (h : Passed w v) (i : QItem) : v.fabricTakes i = w.fabricTakes i := by
  have hb : v.m.fs.boot = w.m.fs.boot := by rw [h.fs]
  have h1 : v.m.hs.bootDone = w.m.hs.bootDone := by rw [h.side]
  have h2 : v.m.hs.bootFail = w.m.hs.bootFail := by rw [h.side]
  simp only [Work.fabricTakes, Work.fsTakes, Work.ready, Work.fs_eq, Work.hs_eq, hb, h1, h2]
  rfl

theorem Passed.hornHolds {w v : Work} (h : Passed w v) (i : QItem) : v.hornHolds i = w.hornHolds i := by
  have h1 : v.m.fs.boot = w.m.fs.boot := by rw [h.fs]
  have h2 : v.m.fs.horn = w.m.fs.horn := by rw [h.fs]
  simp only [Work.hornHolds, Work.fsTakes, Work.fs_eq, h1, h2]
  rfl

/-- An accepted packet, if no CREDIT, is acted on at once. -/
theorem receive_accepted {s : State} {port op : Nat} {p : Packet} {ecc : List EccEvent} (h : Accepted s port op p)
    (hop : op ≠ opCredit) :
    (start s).receive port op p ecc = ((start s).taken port op p ecc).actOn (arrived s port op p ecc) := by
  have hq := taken_ctx (start s) port op p ecc h.up p.ctx.toNat
  have hpass := taken_passed (start s) port op p ecc h.up
  unfold Work.receive
  rw [if_neg (by simp [h.up])]
  extract_lets c
  have hadm := admit_accepted (ecc := ecc) h
  have hk := keyed_ctx (start s) port op p h.up p.ctx.toNat
  simp only [if_true] at hk hq
  · simp only [hadm]
    generalize hv : (((start s).keyed port op p).modHctx p.ctx.toNat fun h => { h with hiSeq := p.cseq, hiMac := some p.mac, lastPort := some port }).forwardCommand
      (arrived s port op p ecc) = v
    have hvq : (v.hctx c).queue = [] ∧ (v.hctx c).acting = none ∧ (v.hctx c).resetting = false := by
      rw [← hv, hctx_congr (forwardCommand_keeps _ _).1, hctx_modHctx_self]
      exact ⟨hk.queue.trans h.idle.1, hk.acting.trans h.idle.2, hk.resetting.trans h.open_.1⟩
    have hvp : Passed (start s) v := by
      rw [← hv]
      exact ((keyed_passed (start s) port op p h.up).trans (.modHctx _ _ _)).trans (.forwardCommand _ _)
    have hpop : (v.enqueue (arrived s port op p ecc)).modHctx c (fun h => { h with queue := [] }) =
        (start s).taken port op p ecc := by
      show (v.modHctx c _).modHctx c _ = _
      rw [modHctx_modHctx]
      show _ = Work.modHctx _ c _
      rw [← hv]
      rfl
    generalize hu : v.enqueue (arrived s port op p ecc) = u at hpop ⊢
    have huq : (u.hctx c).queue = [arrived s port op p ecc] ∧ (u.hctx c).acting = none ∧ (u.hctx c).resetting = false := by
      rw [← hu]
      show (((v.modHctx c fun h => { h with queue := h.queue ++ [arrived s port op p ecc] })).hctx c).queue = _ ∧ _
      simp only [Work.enqueue]
      show (((v.modHctx c fun h => { h with queue := h.queue ++ [arrived s port op p ecc] })).hctx c).queue = _ ∧
        (((v.modHctx c fun h => { h with queue := h.queue ++ [arrived s port op p ecc] })).hctx c).acting = _ ∧
        (((v.modHctx c fun h => { h with queue := h.queue ++ [arrived s port op p ecc] })).hctx c).resetting = _
      simp [hvq]
    have hup : Passed (start s) u := by rw [← hu]; exact hvp.trans (.modHctx _ _ _)
    have hcf : u.creditFirst c = u := by
      unfold Work.creditFirst
      rw [huq.1]
      simp [arrived, hop]
    rw [hcf]
    unfold Work.serveCtx
    rw [huq.1]
    show Work.serve 1 u c = _
    unfold Work.serve
    simp only [huq, Option.isSome_none]
    have hans : (arrived s port op p ecc).answer = none := rfl
    have hh : u.hornHolds (arrived s port op p ecc) = false := by
      rw [hup.hornHolds]; simp [Work.hornHolds, h.free]
    have ht : u.fabricTakes (arrived s port op p ecc) = true := by
      rw [hup.fabricTakes]
      have := h.ready
      simp only [Work.fabricTakes, this.1, Bool.true_and, Bool.or_eq_true, decide_eq_true_eq]
      by_cases e : op = opPing
      · exact .inr (this.2.2 e)
      · exact .inl e
    have hcut : Work.cutsAttach (u.hctx c) (arrived s port op p ecc) = false := by simp [Work.cutsAttach, huq.2.1]
    simp only [hans, hh, ht, hcut, Bool.or_false, Bool.false_and, Bool.false_eq_true, if_false, Bool.not_true, hpop]
    rfl
/-! What a unit reads of the fabric side does not depend on the packets that came. -/

theorem Passed.resolve {w v : Work} (h : Passed w v) (c x : Nat) : v.resolve c x = w.resolve c x := by
  have h1 : v.m.fs.rqt = w.m.fs.rqt := by rw [h.fs]
  simp only [Work.resolve, Work.entry, Work.fs_eq, h1, h.idn]
  rfl
theorem Passed.entry {w v : Work} (h : Passed w v) (x : Nat) : v.entry x = w.entry x := by
  have h1 : v.m.fs.rqt = w.m.fs.rqt := by rw [h.fs]
  simp only [Work.entry, Work.fs_eq, h1]
theorem Passed.reg {w v : Work} (h : Passed w v) (o) : v.reg o = w.reg o := by
  have h1 : v.m.fs.cfg = w.m.fs.cfg := by rw [h.fs]
  have h2 : v.m.fs.latches = w.m.fs.latches := by rw [h.fs]
  simp only [Work.reg, Work.raw, FabricSide.reg, Work.fs_eq, h1, h2, h.idn]
theorem Passed.khz {w v : Work} (h : Passed w v) : v.khz = w.khz := h.reg _
theorem Passed.remaining {w v : Work} (h : Passed w v) (e : RqtEntry) : v.remaining e = w.remaining e := by
  simp only [Work.remaining, Work.hnsDown, Work.now, h.clk, h.khz]
/-! What the acceptance of a packet adds to the streams and to the effects. -/

/-- A change of a context's own words leaves its stream alone. -/
theorem stream_modHctx (w : Work) (c d : Nat) (g : HsCtx → HsCtx) (h : ∀ x, (g x).stream = x.stream) :
    ((w.modHctx c g).hctx d).stream = (w.hctx d).stream := by
  rw [hctx_modHctx]; split <;> simp [h]

theorem messages_notice (w : Work) (c d : Nat) (r : Reply) (h : w.m.hs.up = true) :
    ((w.notice c r).hctx d).stream.map (·.msg) =
      (w.hctx d).stream.map (·.msg) ++ (if d = c then [.reply { r with ctx := c, kind := 1 }] else []) := by
  rw [notice_up w c r h, hctx_modHctx]
  split <;> simp

/-- The messages that the acceptance of a packet adds to a stream. -/
theorem keyed_messages (s : State) (port op : Nat) (p : Packet) (h : s.m.hs.up = true) (d : Nat) :
    (((start s).keyed port op p).hctx d).stream.map (·.msg) =
      messages s d ++ (if d = 0 then (keyNotices s op p).map .reply else []) := by
  unfold Work.keyed keyNotices messages
  generalize hw : (((start s).modHs fun h => { h with skipping := h.skipping.filter (· ≠ port) }).count (cRxBeats port)
    ((p.body.length + 64 + 63) / 64)) = w
  have hup : w.m.hs.up = true := by rw [← hw]; simpa [Work.modHctx] using h
  have hst : ∀ d, (w.hctx d).stream = ((start s).hctx d).stream := by
    intro d
    rw [← hw, hctx_count]
    rfl
  have hc : (w.hctx p.ctx.toNat).accepted = ((start s).hctx p.ctx.toNat).accepted ∧
      (w.hctx p.ctx.toNat).acceptedPrev = ((start s).hctx p.ctx.toNat).acceptedPrev := by
    rw [← hw, hctx_count]
    exact ⟨rfl, rfl⟩
  unfold Work.acceptUnder
  cases (start s).authOf op p with
  | fails => simp [hst]
  | previous =>
    simp only [hc.2]
    split
    · rw [messages_notice _ _ _ _ (by simpa [Work.modHctx] using hup), hctx_count, stream_modHctx, hst]
      · split <;> simp
      · intro _; rfl
    · split
      · rw [messages_notice _ _ _ _ (by simpa [Work.modHctx] using hup), hctx_count, stream_modHctx, hst]
        · split <;> simp
        · intro _; rfl
      · rw [hctx_count, stream_modHctx, hst]
        · simp
        · intro _; rfl
  | current =>
    simp only [hc.1]
    split
    · rw [messages_notice _ _ _ _ (by simpa [Work.modHctx] using hup), stream_modHctx, stream_modHctx, hst]
      · split <;> simp
      · intro _; rfl
      · intro _; rfl
    · split
      · rw [messages_notice _ _ _ _ (by simpa [Work.modHctx] using hup), stream_modHctx, stream_modHctx, hst]
        · split <;> simp
        · intro _; rfl
        · intro _; rfl
      · rw [stream_modHctx, hst]
        · simp
        · intro _; rfl

theorem taken_messages (s : State) (port op : Nat) (p : Packet) (ecc : List EccEvent) (h : s.m.hs.up = true) (d : Nat) :
    (((start s).taken port op p ecc).hctx d).stream.map (·.msg) =
      messages s d ++ (if d = 0 then (keyNotices s op p).map .reply else []) := by
  rw [← keyed_messages s port op p h d]
  unfold Work.taken
  rw [stream_modHctx, hctx_congr (forwardCommand_keeps _ _).1, stream_modHctx]
  · intro _; rfl
  · intro _; rfl

theorem accepted_modHctx (w : Work) (c d : Nat) (g : HsCtx → HsCtx) (h : ∀ x, (g x).accepted = x.accepted) :
    ((w.modHctx c g).hctx d).accepted = (w.hctx d).accepted := by
  rw [hctx_modHctx]; split <;> simp [h]

theorem accepted_notice (w : Work) (c d : Nat) (r : Reply) (h : w.m.hs.up = true) :
    ((w.notice c r).hctx d).accepted = (w.hctx d).accepted := by
  rw [notice_up w c r h, accepted_modHctx]
  intro _; rfl

/-- The packets counted toward the keys in force. -/
theorem taken_accepted (s : State) (port op : Nat) (p : Packet) (ecc : List EccEvent) (h : s.m.hs.up = true) (d : Nat) :
    (((start s).taken port op p ecc).hctx d).accepted =
      ((start s).hctx d).accepted + (if d = p.ctx.toNat ∧ (start s).authOf op p = .current then 1 else 0) := by
  unfold Work.taken
  rw [accepted_modHctx _ _ _ (fun h => { h with queue := [] }) (by intro _; rfl), hctx_congr (forwardCommand_keeps _ _).1]
  have e0 : ((((start s).keyed port op p).modHctx p.ctx.toNat fun h => { h with hiSeq := p.cseq, hiMac := some p.mac, lastPort := some port }).hctx d).accepted =
      (((start s).keyed port op p).hctx d).accepted := by
    rw [accepted_modHctx]
    intro _; rfl
  rw [e0]
  unfold Work.keyed
  generalize hw : (((start s).modHs fun h => { h with skipping := h.skipping.filter (· ≠ port) }).count (cRxBeats port)
    ((p.body.length + 64 + 63) / 64)) = w
  have hup : w.m.hs.up = true := by rw [← hw]; simpa [Work.modHctx] using h
  have hst : ∀ d, (w.hctx d).accepted = ((start s).hctx d).accepted := by
    intro d
    rw [← hw, hctx_count]
    rfl
  unfold Work.acceptUnder
  cases (start s).authOf op p with
  | fails => simp [hst]
  | previous =>
    simp only
    have e : ((w.modHctx p.ctx.toNat fun h => { h with acceptedPrev := (w.hctx p.ctx.toNat).acceptedPrev + 1 }).count (cStaleKey p.ctx.toNat)).m.hs.up = true := by
      simpa [Work.modHctx] using hup
    split
    · rw [accepted_notice _ _ _ _ e, hctx_count, accepted_modHctx, hst]
      · simp
      · intro _; rfl
    · split
      · rw [accepted_notice _ _ _ _ e, hctx_count, accepted_modHctx, hst]
        · simp
        · intro _; rfl
      · rw [hctx_count, accepted_modHctx, hst]
        · simp
        · intro _; rfl
  | current =>
    simp only
    have last : ((w.modHctx p.ctx.toNat fun h => { h with accepted := (w.hctx p.ctx.toNat).accepted + 1 }).hctx d).accepted =
        ((start s).hctx d).accepted + (if d = p.ctx.toNat then 1 else 0) := by
      rw [hctx_modHctx]
      split
      · rename_i e; subst e; simp [hst]
      · simp [hst]
    simp only [and_true]
    split
    · rw [accepted_notice _ _ _ _ (by simpa [Work.modHctx] using hup), accepted_modHctx, last]
      intro _; rfl
    · split
      · rw [accepted_notice _ _ _ _ (by simpa [Work.modHctx] using hup), accepted_modHctx, last]
        intro _; rfl
      · exact last

/-! Effects. -/

/-- `v` has more effects than `w`, all within some counters, rings and contexts. -/
def Grows (ctrs rings ctxs : List Nat) (w v : Work) : Prop :=
  ∃ l, v.fx = l ++ w.fx ∧ ∀ e ∈ l, Fx.within ctrs rings ctxs e = true

theorem Grows.rfl {a b c : List Nat} {w : Work} : Grows a b c w w := ⟨[], Eq.refl _, by simp⟩

theorem Grows.same {a b c : List Nat} {w v : Work} (h : v.fx = w.fx) : Grows a b c w v := ⟨[], by simp [h], by simp⟩

theorem Grows.trans {a b c : List Nat} {u v w : Work} (h : Grows a b c u v) (k : Grows a b c v w) : Grows a b c u w := by
  obtain ⟨l, h1, h2⟩ := h
  obtain ⟨m, k1, k2⟩ := k
  refine ⟨m ++ l, by rw [k1, h1, List.append_assoc], fun e he => ?_⟩
  rcases List.mem_append.1 he with he | he
  · exact k2 e he
  · exact h2 e he

theorem Grows.eff {a b c : List Nat} (w : Work) (e : Fx) (h : e.within a b c = true) : Grows a b c w (w.eff e) :=
  ⟨[e], Eq.refl _, by simpa using h⟩

theorem Grows.count {a b c : List Nat} (w : Work) (o n : Nat) (h : o ∈ a ∨ o = cTwinFramesTx) : Grows a b c w (w.count o n) := by
  unfold Work.count
  split
  · exact .rfl
  · exact .eff _ _ (by simpa [Fx.within, or_comm] using h)

theorem Grows.each {α : Type} {a b c : List Nat} (l : List α) (f : Work → α → Work) (hf : ∀ w x, Grows a b c w (f w x)) (w : Work) :
    Grows a b c w (w.each l f) := by
  unfold Work.each
  induction l generalizing w with
  | nil => exact .rfl
  | cons x l ih => exact (hf w x).trans (ih (f w x))

theorem Grows.sendFrame {a b c : List Nat} (w : Work) (f : FrameBody) : Grows a b c w (w.sendFrame 0 f) := by
  obtain ⟨l, h1, h2⟩ := (TwinOnly.sendFrame w f).fx
  exact ⟨l, h1, fun e he => Fx.within_of_toTwin (h2 e he)⟩

theorem Grows.notice {a b c : List Nat} (w : Work) (d : Nat) (r : Reply) : Grows a b c w (w.notice d r) := by
  unfold Work.notice Work.stream
  simp only
  split <;> exact .same (by rfl)

theorem Grows.mono {a b c a' b' c' : List Nat} {w v : Work} (h : Grows a b c w v) (ha : ∀ x ∈ a, x ∈ a') (hb : ∀ x ∈ b, x ∈ b')
    (hc : ∀ x ∈ c, x ∈ c') : Grows a' b' c' w v := by
  obtain ⟨l, h1, h2⟩ := h
  refine ⟨l, h1, fun e he => ?_⟩
  have := h2 e he
  cases e <;> simp_all [Fx.within]
  · rcases this with e | e
    · exact .inl e
    · exact .inr (ha _ e)
  · rcases this with e | e
    · exact .inl e
    · exact .inr (hb _ e)

theorem taken_grows (w : Work) (port op : Nat) (p : Packet) (ecc : List EccEvent) :
    Grows [cRxBeats port, cStaleKey p.ctx.toNat] [] [] w (w.taken port op p ecc) := by
  unfold Work.taken Work.keyed
  have h1 : Grows [cRxBeats port, cStaleKey p.ctx.toNat] [] [] w
      ((w.modHs fun h => { h with skipping := h.skipping.filter (· ≠ port) }).count (cRxBeats port)
      ((p.body.length + 64 + 63) / 64)) := by
    exact Grows.trans (.same rfl) (.count (w.modHs _) _ _ (.inl (by simp)))
  generalize ((w.modHs fun h => { h with skipping := h.skipping.filter (· ≠ port) }).count (cRxBeats port)
      ((p.body.length + 64 + 63) / 64)) = v at h1 ⊢
  have h2 : Grows [cRxBeats port, cStaleKey p.ctx.toNat] [] [] v (v.acceptUnder (w.authOf op p) p.ctx.toNat) := by
    unfold Work.acceptUnder
    cases w.authOf op p with
    | fails => exact .rfl
    | previous =>
      simp only
      have g : Grows [cRxBeats port, cStaleKey p.ctx.toNat] [] [] v
        ((v.modHctx p.ctx.toNat fun h => { h with acceptedPrev := (v.hctx p.ctx.toNat).acceptedPrev + 1 }).count (cStaleKey p.ctx.toNat)) :=
        Grows.trans (.same rfl) (.count (v.modHctx _ _) _ _ (.inl (by simp)))
      split
      · exact g.trans (.notice _ _ _)
      · split
        · exact g.trans (.notice _ _ _)
        · exact g
    | current =>
      simp only
      split
      · exact Grows.trans (.same rfl) (.notice (Work.modHctx (v.modHctx _ _) _ _) _ _)
      · split
        · exact Grows.trans (.same rfl) (.notice (Work.modHctx (v.modHctx _ _) _ _) _ _)
        · exact .same rfl
  refine (h1.trans h2).trans ?_
  generalize v.acceptUnder (w.authOf op p) p.ctx.toNat = u
  refine Grows.trans (v := (u.modHctx p.ctx.toNat fun h => { h with hiSeq := p.cseq, hiMac := some p.mac, lastPort := some port }).forwardCommand
    { port := port, opcode := op, pkt := p, noted := w.hsNow, ecc := ecc }) ?_ (.same rfl)
  unfold Work.forwardCommand
  simp only
  split
  · exact Grows.trans (.same rfl) (Grows.trans (.sendFrame (u.modHctx _ _) _) (.same rfl))
  · exact .same rfl

@[simp] theorem notice_fx (w : Work) (c : Nat) (r : Reply) : (w.notice c r).fx = w.fx := by
  unfold Work.notice Work.stream
  simp only
  split <;> rfl

theorem acceptUnder_fx (w : Work) (a : Auth) (c : Nat) :
    (w.acceptUnder a c).fx = (if a = .previous then [.count (cStaleKey c) 1] else []) ++ w.fx := by
  unfold Work.acceptUnder
  cases a with
  | fails => rfl
  | previous =>
    simp only
    split
    · rw [notice_fx]; rfl
    · split
      · rw [notice_fx]; rfl
      · rfl
  | current =>
    simp only
    split
    · rw [notice_fx]; rfl
    · split
      · rw [notice_fx]; rfl
      · rfl

/-- The effects when a packet's unit begins: the frame to the twin, the previous key's counter, the port's beats. -/
theorem taken_fx (w : Work) (port op : Nat) (p : Packet) (ecc : List EccEvent) :
    ∃ l, (∀ e ∈ l, Fx.toTwin e = true) ∧ (w.taken port op p ecc).fx =
      l ++ ((if w.authOf op p = .previous then [.count (cStaleKey p.ctx.toNat) 1] else []) ++
        .count (cRxBeats port) ((p.body.length + 64 + 63) / 64) :: w.fx) := by
  unfold Work.taken
  have hk : (w.keyed port op p).fx = (if w.authOf op p = .previous then [.count (cStaleKey p.ctx.toNat) 1] else []) ++
      .count (cRxBeats port) ((p.body.length + 64 + 63) / 64) :: w.fx := by
    unfold Work.keyed
    rw [acceptUnder_fx]
    congr 1
    show ((w.modHs _).count _ _).fx = _
    rw [Work.count_fx, if_neg (by omega)]
    rfl
  generalize hu : (w.keyed port op p).modHctx p.ctx.toNat (fun h => { h with hiSeq := p.cseq, hiMac := some p.mac, lastPort := some port }) = u
  have huf : u.fx = (w.keyed port op p).fx := by rw [← hu]; rfl
  rw [← hk, ← huf]
  show ∃ l, _ ∧ (u.forwardCommand _).fx = _
  unfold Work.forwardCommand
  simp only
  split
  · obtain ⟨l, h1, h2⟩ := (TwinOnly.sendFrame u (.command port op p)).fx
    exact ⟨l, h2, h1⟩
  · exact ⟨[], by simp, rfl⟩

/-! The answer. -/

/-- A unit's own work: it leaves the host side, the clocks, the straps and the observation unit's stores alone. -/
structure UnitOnly (w v : Work) : Prop where
  idn : v.idn = w.idn
  clk : v.clk = w.clk
  obs : v.obs = w.obs
  hs : v.m.hs = w.m.hs

theorem UnitOnly.rfl {w : Work} : UnitOnly w w := ⟨Eq.refl _, Eq.refl _, Eq.refl _, Eq.refl _⟩

theorem UnitOnly.trans {a b c : Work} (h : UnitOnly a b) (k : UnitOnly b c) : UnitOnly a c :=
  ⟨k.idn.trans h.idn, k.clk.trans h.clk, k.obs.trans h.obs, k.hs.trans h.hs⟩

theorem UnitOnly.count (w : Work) (o n : Nat) : UnitOnly w (w.count o n) := ⟨by simp, by simp, by simp, by simp⟩
theorem UnitOnly.eff (w : Work) (e : Fx) : UnitOnly w (w.eff e) := ⟨Eq.refl _, Eq.refl _, Eq.refl _, Eq.refl _⟩
theorem UnitOnly.modFs (w : Work) (g : FabricSide → FabricSide) : UnitOnly w (w.modFs g) :=
  ⟨Eq.refl _, Eq.refl _, Eq.refl _, Eq.refl _⟩

theorem UnitOnly.boundary (w : Work) (i : QItem) : UnitOnly w (w.boundary i) := by
  unfold Work.boundary
  split
  · exact .rfl
  · exact .eff _ _

/-- A packet that is no command boundary (R785). -/
def noBoundary (op : Nat) : Bool :=
  op = opStatsRead || op = opCfgRead || op = opQuery || op = opPing || op = opCredit

theorem Grows.boundary {a b c : List Nat} (w : Work) (i : QItem) (h : noBoundary i.opcode = true ∨ i.pkt.ctx.toNat ∈ c) :
    Grows a b c w (w.boundary i) := by
  unfold Work.boundary
  split
  · exact .rfl
  · rename_i hn
    refine .eff _ _ ?_
    rcases h with h | h
    · exact absurd h hn
    · simpa [Fx.within] using h

theorem Passed.boundary (w : Work) (i : QItem) : Passed w (w.boundary i) := by
  unfold Work.boundary
  split
  · exact .rfl
  · exact .eff _ _

@[simp] theorem boundary_m (w : Work) (i : QItem) : (w.boundary i).m = w.m := by
  unfold Work.boundary; split <;> rfl

/-- A reply joins its context's stream. -/
theorem reply_up (w : Work) (i : QItem) (r : Reply) (h : w.m.hs.up = true) :
    ∃ v : Work, UnitOnly w v ∧ v.m.fs = { w.m.fs with twin := v.m.fs.twin } ∧ v.fx = w.fx ∧ ∃ n, w.reply i r =
      v.modHctx i.pkt.ctx.toNat fun x => { x with stream := x.stream ++ [{
        port := i.port, msg := .reply r, credit := i.opcode ≠ opCredit && !i.dup, after := v.afterReply i r, need := n }] } := by
  unfold Work.reply
  extract_lets _ v
  refine ⟨v, ?_, ?_, ?_, ?_⟩
  · simp only [v, Work.whenDo]; split
    · exact ⟨rfl, rfl, rfl, rfl⟩
    · exact .rfl
  · simp only [v, Work.whenDo]; split <;> rfl
  · simp only [v, Work.whenDo]; split <;> rfl
  · have hv : v.m.hs.up = true := by
      simp only [v, Work.whenDo]; split <;> exact h
    unfold Work.stream
    simp only [Work.hs_eq, hv, if_true]
    exact ⟨_, rfl⟩

theorem unneeded_fields {a b : HsCtx} (h : a.unneeded = b.unneeded) :
    a.key = b.key ∧ a.prevKey = b.prevKey ∧ a.frozen = b.frozen ∧ a.sqDepth = b.sqDepth ∧ a.nextDepth = b.nextDepth ∧
    a.f2 = b.f2 ∧ a.hiSeq = b.hiSeq ∧ a.hiMac = b.hiMac ∧ a.lastPort = b.lastPort ∧ a.queue = b.queue ∧
    a.acting = b.acting ∧ a.accepted = b.accepted :=
  ⟨(congrArg HsCtx.key h : a.unneeded.key = b.unneeded.key),
    (congrArg HsCtx.prevKey h : a.unneeded.prevKey = b.unneeded.prevKey),
    (congrArg HsCtx.frozen h : a.unneeded.frozen = b.unneeded.frozen),
    (congrArg HsCtx.sqDepth h : a.unneeded.sqDepth = b.unneeded.sqDepth),
    (congrArg HsCtx.nextDepth h : a.unneeded.nextDepth = b.unneeded.nextDepth),
    (congrArg HsCtx.f2 h : a.unneeded.f2 = b.unneeded.f2),
    (congrArg HsCtx.hiSeq h : a.unneeded.hiSeq = b.unneeded.hiSeq),
    (congrArg HsCtx.hiMac h : a.unneeded.hiMac = b.unneeded.hiMac),
    (congrArg HsCtx.lastPort h : a.unneeded.lastPort = b.unneeded.lastPort),
    (congrArg HsCtx.queue h : a.unneeded.queue = b.unneeded.queue),
    (congrArg HsCtx.acting h : a.unneeded.acting = b.unneeded.acting),
    (congrArg HsCtx.accepted h : a.unneeded.accepted = b.unneeded.accepted)⟩

theorem unheld_side {a b : HostSide} (h : a.unheld = b.unheld) : a = { b with ctxs := a.ctxs } := by
  have h1 := congrArg HostSide.up h
  have h2 := congrArg HostSide.bootDone h
  have h3 := congrArg HostSide.bootFail h
  have h4 := congrArg HostSide.degradedSeen h
  have h5 := congrArg HostSide.keyGrace h
  have h6 := congrArg HostSide.svcKey h
  have h7 := congrArg HostSide.svcAddr h
  have h8 := congrArg HostSide.svcData h
  have h9 := congrArg HostSide.svcBusy h
  have h10 := congrArg HostSide.svcDenied h
  have h11 := congrArg HostSide.svcSideDown h
  have h12 := congrArg HostSide.faultLast h
  have h13 := congrArg HostSide.skipping h
  have h14 := congrArg HostSide.refusedToFs h
  have h15 := congrArg HostSide.refusedToHs h
  have h16 := congrArg HostSide.keptForFs h
  have h17 := congrArg HostSide.halfBeats h
  obtain ⟨⟩ := a
  obtain ⟨⟩ := b
  simp only [HostSide.unheld] at *
  subst_vars
  rfl

theorem Passed.ready {w v : Work} (h : Passed w v) : v.ready = w.ready := by
  have hb : v.m.fs.boot = w.m.fs.boot := by rw [h.fs]
  have h1 : v.m.hs.bootDone = w.m.hs.bootDone := by rw [h.side]
  have h2 : v.m.hs.bootFail = w.m.hs.bootFail := by rw [h.side]
  simp only [Work.ready, Work.fs_eq, Work.hs_eq, hb, h1, h2]
  rfl

theorem Passed.readyFor {w v : Work} (h : Passed w v) (o : Nat) : v.readyFor o = w.readyFor o := by
  have hb : v.m.fs.boot = w.m.fs.boot := by rw [h.fs]
  simp only [Work.readyFor, h.ready, Work.fs_eq, hb]
  rfl

theorem Passed.twinPermits {w v : Work} (h : Passed w v) (o : Nat) : v.twinPermits o = w.twinPermits o := by
  simp only [Work.twinPermits, Work.twinState, Work.fs_eq, h.state]

/-- The command when the unit of an accepted packet begins. -/
def Work.acting (s : State) (port op : Nat) (p : Packet) : Work :=
  ((start s).taken port op p []).boundary (arrived s port op p)

theorem acting_passed (s : State) (port op : Nat) (p : Packet) (h : s.m.hs.up = true) :
    Passed (start s) (Work.acting s port op p) := (taken_passed (start s) port op p [] h).trans (.boundary _ _)

/-- Which unit acts on an accepted packet. -/
theorem act_accepted {s : State} {port op : Nat} {p : Packet} (h : Accepted s port op p) :
    (Work.acting s port op p).act (arrived s port op p) = if op < 0x40 then (Work.acting s port op p).actTenant (arrived s port op p)
      else (Work.acting s port op p).actSteward (arrived s port op p) := by
  have hp := acting_passed s port op p h.up
  unfold Work.act
  rw [hp.twinPermits, hp.readyFor]
  have h1 : (start s).twinPermits (arrived s port op p).opcode = true := h.pairing
  have h2 : (start s).readyFor (arrived s port op p).opcode = true := h.ready.2.1
  simp only [h1, h2, Bool.not_true, Bool.false_eq_true, if_false]
  rfl

/-- A packet of an opcode of the steward comes from context 0. -/
theorem ctx0_of {s : State} {port op : Nat} {p : Packet} (h : Accepted s port op p) (ho : 0x3f < op) : p.ctx.toNat = 0 := by
  have := h.permitted.2.1
  unfold opPermitted at this
  rw [if_neg (by omega), if_neg (by omega)] at this
  simpa using this
/-- The fabric side may be compared with a side that differs in the pairing unit alone. -/
theorem fabricIs_trans {t : State} {v : Work} {f : FabricSide} (h : t.fabricIs v.m.fs)
    (e : v.m.fs = { f with twin := v.m.fs.twin }) : t.fabricIs f := by
  unfold State.fabricIs at h ⊢
  rw [h, e]
theorem actOn_answer {w v : Work} {i : QItem} {a : Ans} (h : ((w.eccReports i.ecc).boundary i).act i = (v, .answer a)) :
    w.actOn i = v.answer i a := by
  unfold Work.actOn
  simp only [h]

theorem actOn_wait {w v : Work} {i : QItem} {x : Wait} (h : ((w.eccReports i.ecc).boundary i).act i = (v, .wait x)) :
    w.actOn i = v.modHctx i.pkt.ctx.toNat fun h => { h with acting := some (i, x) } := by
  unfold Work.actOn
  simp only [h]

theorem actOn_violate {w v : Work} {i : QItem} {x : Nat} (h : ((w.eccReports i.ecc).boundary i).act i = (v, .violate x)) :
    w.actOn i = v.violation i x := by
  unfold Work.actOn
  simp only [h]

/-- A packet that its unit answers at once, whatever the unit did: every context is as the unit left it, but that the reply
has joined the stream. -/
theorem packet_replies {s : State} {port op : Nat} {p : Packet} (h : Accepted s port op p) (hop : op ≠ opCredit)
    (v : Work) (a : Ans)
    (hact : (Work.acting s port op p).act (arrived s port op p) = (v, .answer a)) (hup : v.m.hs.up = true) (hcalm : v.calm) :
    ∃ t r, packet s port op p = .next t ∧ t.fabricIs v.m.fs ∧ t = s.settle r ∧ r.fx = v.fx ∧ r.idn = v.idn ∧ r.clk = v.clk ∧
      r.obs = v.obs ∧ r.m.fs = { v.m.fs with twin := r.m.fs.twin } ∧
      (∃ i : StreamItem, i.port = port ∧ i.msg = .reply (replyTo op p a) ∧ i.credit = true ∧ ∀ d, ((start t).hctx d).unneeded =
        (if d = p.ctx.toNat then { v.hctx d with stream := (v.hctx d).stream ++ [i] } else v.hctx d).unneeded) ∧
      t.m.hs = { v.m.hs with ctxs := t.m.hs.ctxs } := by
  have hrec : (start s).receive port op p [] = v.answer (arrived s port op p) a := by
    rw [receive_accepted h hop]
    exact actOn_answer hact
  obtain ⟨u, hu, hfs, hfx, n, hr⟩ := reply_up v (arrived s port op p) (replyTo op p a) hup
  have hans : v.answer (arrived s port op p) a = v.reply (arrived s port op p) (replyTo op p a) := rfl
  have hc : ((start s).receive port op p []).calm := by
    intro b hb
    rw [hrec, hans, hr] at hb
    exact hcalm b (by rw [← hfx]; exact hb)
  obtain ⟨t, heq, ht, hfab, hhost⟩ := run_sides s (fun w => w.receive port op p []) hc (by simp [h.free])
  have e : ((start s).receive port op p []).m.fs = { v.m.fs with twin := u.m.fs.twin } := by
    rw [hrec, hans, hr]; exact hfs
  refine ⟨t, (start s).receive port op p [], ?_, ?_, heq, ?_, ?_, ?_, ?_, ?_, ?_, ?_⟩
  · unfold packet onHostPort
    rw [if_pos h.port_ok]
    exact ht
  · unfold State.fabricIs at hfab ⊢
    simp only [e] at hfab
    exact hfab
  · rw [hrec, hans, hr]; exact hfx
  · rw [hrec, hans, hr]; exact hu.idn
  · rw [hrec, hans, hr]; exact hu.clk
  · rw [hrec, hans, hr]; exact hu.obs
  · rw [e]
  · have hcx := hctx_of_hostIs (w := (start s).receive port op p []) hhost
    rw [hrec, hans, hr] at hcx
    refine ⟨{ port := port, msg := .reply (replyTo op p a), need := n
              credit := (arrived s port op p).opcode ≠ opCredit && !(arrived s port op p).dup
              after := u.afterReply (arrived s port op p) (replyTo op p a) }, rfl, rfl, ?_, fun d => ?_⟩
    · show (decide (op ≠ opCredit) && !false) = true
      simp [hop]
    · rw [hcx d, hctx_modHctx, hctx_congr hu.hs d]
      rfl
  · have hside := unheld_side hhost
    have e2 : ∀ x : HostSide, x = v.m.hs → ∀ t, ({ x with ctxs := t } : HostSide) = { v.m.hs with ctxs := t } := by rintro x rfl t; rfl
    rw [hrec, hans, hr] at hside
    rw [hside]
    exact e2 _ hu.hs _

/-- A packet that its unit answers at once, whatever its effects. -/
theorem packet_answered_core {s : State} {port op : Nat} {p : Packet} (h : Accepted s port op p) (hop : op ≠ opCredit)
    (v : Work) (a : Ans)
    (hact : (Work.acting s port op p).act (arrived s port op p) = (v, .answer a))
    (hunit : UnitOnly (Work.acting s port op p) v)
    (hcalm : v.calm) :
    ∃ t r, packet s port op p = .next t ∧ Answered s t port op p a ∧ t.fabricIs v.m.fs ∧ t = s.settle r ∧ r.fx = v.fx ∧
      r.idn = v.idn ∧ r.clk = v.clk ∧ r.obs = v.obs ∧ r.m.fs = { v.m.fs with twin := r.m.fs.twin } := by
  have hpass := taken_passed (start s) port op p [] h.up
  have hrec : (start s).receive port op p [] = v.answer (arrived s port op p) a := by
    rw [receive_accepted h hop]
    exact actOn_answer hact
  have hb := (UnitOnly.boundary ((start s).taken port op p []) (arrived s port op p)).trans hunit
  have hup : v.m.hs.up = true := by rw [hb.hs]; exact hpass.up.trans h.up
  obtain ⟨u, hu, hfs, hfx, n, hr⟩ := reply_up v (arrived s port op p) (replyTo op p a) hup
  have hans : v.answer (arrived s port op p) a = v.reply (arrived s port op p) (replyTo op p a) := rfl
  have hc : ((start s).receive port op p []).calm := by
    intro b hb
    rw [hrec, hans, hr] at hb
    exact hcalm b (by rw [← hfx]; exact hb)
  obtain ⟨t, heq, ht, hfab, hhost⟩ := run_sides s (fun w => w.receive port op p []) hc (by simp [h.free])
  have e : ((start s).receive port op p []).m.fs = { v.m.fs with twin := u.m.fs.twin } := by
    rw [hrec, hans, hr]; exact hfs
  refine ⟨t, (start s).receive port op p [], ?_, ?_, ?_, heq, ?_, ?_, ?_, ?_, ?_⟩
  · unfold packet onHostPort
    rw [if_pos h.port_ok]
    exact ht
  · have hc := hctx_of_hostIs (w := (start s).receive port op p []) hhost
    have hside := unheld_side hhost
    rw [hrec, hans, hr] at hc hside
    have hctx : ∀ d, (u.hctx d) = ((start s).taken port op p []).hctx d := fun d => hctx_congr (hu.hs.trans hb.hs) d
    have hsame := taken_ctx (start s) port op p [] h.up
    have hend : ∀ d, ((start t).hctx d).unneeded = (if d = p.ctx.toNat then
        { ((start s).taken port op p []).hctx d with stream := (((start s).taken port op p []).hctx d).stream ++ [{
          port := port, msg := .reply (replyTo op p a), credit := decide (op ≠ opCredit)
          after := u.afterReply (arrived s port op p) (replyTo op p a), need := n }] }
        else ((start s).taken port op p []).hctx d).unneeded := by
      intro d
      rw [hc d, hctx_modHctx, hctx d]
      simp only [show (arrived s port op p).pkt.ctx.toNat = p.ctx.toNat from rfl]
      split
      · simp only [arrived, Bool.not_false, Bool.and_true]
        rfl
      · rfl
    have hfields := fun d => unneeded_fields (hend d)
    have hmsg : ∀ d, messages t d = ((((start s).taken port op p []).hctx d).stream.map (·.msg)) ++
        (if d = p.ctx.toNat then [.reply (replyTo op p a)] else []) := by
      intro d
      unfold messages
      rw [unneeded_messages (hend d)]
      split <;> simp
    have hacc := taken_accepted s port op p [] h.up
    refine ⟨⟨?_, ?_, ?_, ?_⟩, ?_, ?_, ?_, ?_⟩
    · have f := hfields p.ctx.toNat
      have e := hsame p.ctx.toNat
      simp only [if_true] at f e
      exact ⟨f.2.2.2.2.2.2.1.trans e.hiSeq, f.2.2.2.2.2.2.2.1.trans e.hiMac, f.2.2.2.2.2.2.2.2.1.trans e.last,
        f.2.2.2.2.2.2.2.2.2.1.trans e.queue⟩
    · have f := hfields p.ctx.toNat
      simp only [if_true] at f
      rw [f.2.2.2.2.2.2.2.2.2.2.2, hacc]
      simp
    · intro d hd
      have f := hfields d
      have e := hsame d
      simp only [hd, if_false] at f e
      exact ⟨f.2.2.2.2.2.2.1.trans e.hiSeq, f.2.2.2.2.2.2.2.2.2.1.trans e.queue, f.2.2.2.2.2.2.2.2.2.2.1.trans e.acting⟩
    · rw [hside]
      simp only [Work.modHctx, Work.modHs_hs]
      rw [hu.hs, hb.hs, hpass.side, taken_skipping (start s) port op p [] h.up]
      rfl
    · intro d
      have f := hfields d
      have e := hsame d
      by_cases hd : d = p.ctx.toNat
      · simp only [hd, if_true] at f e ⊢
        exact ⟨f.1.trans e.key.1, f.2.1.trans e.key.2, f.2.2.1.trans e.frozen, f.2.2.2.1.trans e.depth.1,
          f.2.2.2.2.1.trans e.depth.2, f.2.2.2.2.2.1.trans e.f2⟩
      · simp only [hd, if_false] at f e ⊢
        exact ⟨f.1.trans e.key.1, f.2.1.trans e.key.2, f.2.2.1.trans e.frozen, f.2.2.2.1.trans e.depth.1,
          f.2.2.2.2.1.trans e.depth.2, f.2.2.2.2.2.1.trans e.f2⟩
    · have f := hfields p.ctx.toNat
      have e := hsame p.ctx.toNat
      simp only [if_true] at f e
      exact f.2.2.2.2.2.2.2.2.2.2.1.trans (e.acting.trans h.idle.2)
    · intro d
      rw [hmsg d, taken_messages s port op p [] h.up d]
    · have e := congrArg HsCtx.stream (hend p.ctx.toNat)
      simp only [if_true, HsCtx.unneeded, List.map_append, List.map_cons, List.map_nil] at e
      have e2 := congrArg List.getLast? e
      simp only [List.getLast?_append, List.getLast?_singleton, Option.some_or, List.getLast?_map] at e2
      cases hl : ((start t).hctx p.ctx.toNat).stream.getLast? with
      | none => rw [hl] at e2; simp at e2
      | some i =>
        rw [hl] at e2
        simp only [Option.map_some, Option.some.injEq] at e2
        have e3 := congrArg StreamItem.port e2
        have e4 := congrArg StreamItem.credit e2
        exact ⟨i, rfl, e3, by rw [show i.credit = decide (op ≠ opCredit) from e4]; simp⟩
  · unfold State.fabricIs at hfab ⊢
    simp only [e] at hfab
    exact hfab
  · rw [hrec, hans, hr]; exact hfx
  · rw [hrec, hans, hr]; exact hu.idn
  · rw [hrec, hans, hr]; exact hu.clk
  · rw [hrec, hans, hr]; exact hu.obs
  · rw [e]

theorem acting_grows (s : State) (port op : Nat) (p : Packet) (ctxs : List Nat) (hcs : noBoundary op = true ∨ p.ctx.toNat ∈ ctxs) :
    Grows [cRxBeats port, cStaleKey p.ctx.toNat] [] ctxs (start s) (Work.acting s port op p) :=
  ((taken_grows (start s) port op p []).mono (by simp) (by simp) (by simp)).trans (.boundary _ (arrived s port op p) hcs)

/-- A packet that its unit answers at once: the reply, and what the unit did. -/
theorem packet_answered {s : State} {port op : Nat} {p : Packet} (h : Accepted s port op p) (hop : op ≠ opCredit)
    (ctrs rings ctxs : List Nat) (hcs : noBoundary op = true ∨ p.ctx.toNat ∈ ctxs) (v : Work) (a : Ans)
    (hact : (Work.acting s port op p).act (arrived s port op p) = (v, .answer a))
    (hunit : UnitOnly (Work.acting s port op p) v) (hgrow : Grows ctrs rings ctxs (Work.acting s port op p) v) :
    ∃ t, packet s port op p = .next t ∧ Answered s t port op p a ∧
      Apart s t (cRxBeats port :: cStaleKey p.ctx.toNat :: ctrs) rings ctxs ∧ t.fabricIs v.m.fs := by
  have hw : ∀ e ∈ v.fx, e.within (cRxBeats port :: cStaleKey p.ctx.toNat :: ctrs) rings ctxs = true := by
    obtain ⟨l, hl, hx⟩ := ((acting_grows s port op p ctxs hcs).mono (a' := cRxBeats port :: cStaleKey p.ctx.toNat :: ctrs)
      (b' := rings) (c' := ctxs) (by simp) (by simp) (by simp)).trans
      (hgrow.mono (by simp +contextual) (by simp) (by simp))
    intro e he
    rw [hl] at he
    exact hx e (by simpa using he)
  obtain ⟨t, r, h1, h2, h3, h4, h5, _⟩ := packet_answered_core h hop v a hact hunit (calm_of_within v hw)
  exact ⟨t, h1, h2, h4 ▸ settle_apart s r (by rw [h5]; exact hw), h3⟩

/-- A packet that its unit goes on acting on, whatever its effects. -/
theorem packet_waits_core {s : State} {port op : Nat} {p : Packet} (h : Accepted s port op p) (hop : op ≠ opCredit)
    (v : Work) (x : Wait)
    (hact : (Work.acting s port op p).act (arrived s port op p) = (v, .wait x))
    (hunit : UnitOnly (Work.acting s port op p) v) (hcalm : v.calm) :
    ∃ t r, packet s port op p = .next t ∧ Waiting s t port op p x ∧ t.fabricIs v.m.fs ∧ t = s.settle r ∧ r.fx = v.fx ∧
      r.idn = v.idn ∧ r.clk = v.clk ∧ r.obs = v.obs ∧ r.m.fs = v.m.fs := by
  have hpass := taken_passed (start s) port op p [] h.up
  have hrec : (start s).receive port op p [] =
      v.modHctx p.ctx.toNat fun h => { h with acting := some (arrived s port op p, x) } := by
    rw [receive_accepted h hop]
    exact actOn_wait hact
  have hb := (UnitOnly.boundary ((start s).taken port op p []) (arrived s port op p)).trans hunit
  have hc : ((start s).receive port op p []).calm := by
    intro b hb
    rw [hrec] at hb
    exact hcalm b hb
  obtain ⟨t, heq, ht, hfab, hhost⟩ := run_sides s (fun w => w.receive port op p []) hc (by simp [h.free])
  refine ⟨t, (start s).receive port op p [], ?_, ?_, ?_, heq, ?_, ?_, ?_, ?_, ?_⟩
  · unfold packet onHostPort
    rw [if_pos h.port_ok]
    exact ht
  · have hc := hctx_of_hostIs (w := (start s).receive port op p []) hhost
    have hside := unheld_side hhost
    rw [hrec] at hc hside
    have hctx : ∀ d, (v.hctx d) = ((start s).taken port op p []).hctx d := fun d => hctx_congr hb.hs d
    have hsame := taken_ctx (start s) port op p [] h.up
    have hend : ∀ d, ((start t).hctx d).unneeded = (if d = p.ctx.toNat then
        { ((start s).taken port op p []).hctx d with acting := some (arrived s port op p, x) }
        else ((start s).taken port op p []).hctx d).unneeded := by
      intro d
      rw [hc d, hctx_modHctx, hctx d]
    have hfields := fun d => unneeded_fields (hend d)
    have hmsg : ∀ d, messages t d = ((((start s).taken port op p []).hctx d).stream.map (·.msg)) := by
      intro d
      unfold messages
      rw [unneeded_messages (hend d)]
      split <;> simp
    have hacc := taken_accepted s port op p [] h.up
    refine ⟨⟨?_, ?_, ?_, ?_⟩, ?_, ?_, ?_⟩
    · have f := hfields p.ctx.toNat
      have e := hsame p.ctx.toNat
      simp only [if_true] at f e
      exact ⟨f.2.2.2.2.2.2.1.trans e.hiSeq, f.2.2.2.2.2.2.2.1.trans e.hiMac, f.2.2.2.2.2.2.2.2.1.trans e.last,
        f.2.2.2.2.2.2.2.2.2.1.trans e.queue⟩
    · have f := hfields p.ctx.toNat
      simp only [if_true] at f
      rw [f.2.2.2.2.2.2.2.2.2.2.2, hacc]
      simp
    · intro d hd
      have f := hfields d
      have e := hsame d
      simp only [hd, if_false] at f e
      exact ⟨f.2.2.2.2.2.2.1.trans e.hiSeq, f.2.2.2.2.2.2.2.2.2.1.trans e.queue, f.2.2.2.2.2.2.2.2.2.2.1.trans e.acting⟩
    · rw [hside]
      simp only [Work.modHctx, Work.modHs_hs]
      rw [hb.hs, hpass.side, taken_skipping (start s) port op p [] h.up]
      rfl
    · intro d
      have f := hfields d
      have e := hsame d
      by_cases hd : d = p.ctx.toNat
      · simp only [hd, if_true] at f e ⊢
        exact ⟨f.1.trans e.key.1, f.2.1.trans e.key.2, f.2.2.1.trans e.frozen, f.2.2.2.1.trans e.depth.1,
          f.2.2.2.2.1.trans e.depth.2, f.2.2.2.2.2.1.trans e.f2⟩
      · simp only [hd, if_false] at f e ⊢
        exact ⟨f.1.trans e.key.1, f.2.1.trans e.key.2, f.2.2.1.trans e.frozen, f.2.2.2.1.trans e.depth.1,
          f.2.2.2.2.1.trans e.depth.2, f.2.2.2.2.2.1.trans e.f2⟩
    · have f := hfields p.ctx.toNat
      simp only [if_true] at f
      exact f.2.2.2.2.2.2.2.2.2.2.1
    · intro d
      rw [hmsg d, taken_messages s port op p [] h.up d]
  · unfold State.fabricIs at hfab ⊢
    rw [hfab, hrec]
    rfl
  · rw [hrec]; rfl
  · rw [hrec]; rfl
  · rw [hrec]; rfl
  · rw [hrec]; rfl
  · rw [hrec]; rfl


/-- A packet that its unit goes on acting on: what it waits for, what the unit did, and what left on the fabric ports. -/
theorem packet_waits {s : State} {port op : Nat} {p : Packet} (h : Accepted s port op p) (hop : op ≠ opCredit)
    (ctrs rings ctxs : List Nat) (hcs : noBoundary op = true ∨ p.ctx.toNat ∈ ctxs) (v : Work) (x : Wait)
    (hact : (Work.acting s port op p).act (arrived s port op p) = (v, .wait x))
    (hunit : UnitOnly (Work.acting s port op p) v) (l : List Fx) (hl : v.fx = l ++ (Work.acting s port op p).fx)
    (hx : ∀ e ∈ l, e.withinOut ctrs rings ctxs = true) :
    ∃ t, packet s port op p = .next t ∧ Waiting s t port op p x ∧
      Apart s t (cRxBeats port :: cStaleKey p.ctx.toNat :: ctrs) rings ctxs (l.reverse.filterMap Fx.hostOut)
        (l.reverse.filterMap Fx.fabOut) ∧ t.fabricIs v.m.fs := by
  obtain ⟨m, hm, hn⟩ := (acting_grows s port op p ctxs hcs).mono (a' := cRxBeats port :: cStaleKey p.ctx.toNat :: ctrs)
    (b' := rings) (c' := ctxs) (by simp) (by simp) (by simp)
  have hm' : (Work.acting s port op p).fx = m := by rw [hm]; simp
  have hw : ∀ e ∈ v.fx, e.withinOut (cRxBeats port :: cStaleKey p.ctx.toNat :: ctrs) rings ctxs = true := by
    intro e he
    rw [hl, hm'] at he
    rcases List.mem_append.1 he with he | he
    · have := hx e he
      cases e <;> simp_all [Fx.withinOut, Fx.within, Fx.hostOut, Fx.fabOut]
      all_goals (rcases this with c | c <;> simp_all)
    · exact (within_out (hn e he)).1
  obtain ⟨t, r, h1, h2, h3, h4, h5, _⟩ := packet_waits_core h hop v x hact hunit (calm_of_out v hw)
  refine ⟨t, h1, h2, ?_, h3⟩
  have ha := settle_apart_out s r (by rw [h5]; exact hw)
  rw [h5, hl, hm'] at ha
  have z1 : m.reverse.filterMap Fx.hostOut = [] :=
    List.filterMap_eq_nil_iff.2 fun e he => (within_out (hn e (List.mem_reverse.1 he))).2.1
  have z2 : m.reverse.filterMap Fx.fabOut = [] :=
    List.filterMap_eq_nil_iff.2 fun e he => (within_out (hn e (List.mem_reverse.1 he))).2.2
  rw [List.reverse_append, List.filterMap_append, List.filterMap_append, z1, z2, List.nil_append, List.nil_append] at ha
  rw [h4]
  exact ha

end Sys2Proof.Machine
end

