-- ==== Sys2Proof/WellFormed.lean ====
section
/-! DEFINITION. Well-formed commands: operands inside the ranges that the spec gives them. The meanings do not need it;
it says which commands the surroundings can send. -/

namespace Sys2Proof

open Machine

/-- Host ports (R4). -/
def hostPortOk (n : Nat) : Bool := n < 4
/-- Memory ports (R4). -/
def memPortOk (n : Nat) : Bool := n < 24
/-- Contexts (R4). -/
def ctxOk (n : Nat) : Bool := n < 256
/-- Pools (R4). -/
def poolNumOk (n : Nat) : Bool := n < 64
/-- Engines (R4). -/
def engineOk (n : Nat) : Bool := n < 1024
/-- Request-table slots (R4). -/
def slotNumOk (n : Nat) : Bool := n < 2 ^ 18
/-- Sequence handles (R6). -/
def handleOk (n : Nat) : Bool := n < 2 ^ 32
/-- Prefix handles (R6, R308). -/
def prefixOk (n : Nat) : Bool := n < 2 ^ 64
/-- Fabric addresses. -/
def addrOk (n : Nat) : Bool := n < 2 ^ 64
/-- Positions of a group (R759). -/
def posOk (n : Nat) : Bool := n < 8
/-- A packet's body: whole units of 16 bytes, at most 4,096 bytes (R90, R91, R93). -/
def bodyOk (p : Packet) : Bool := p.body.length % 16 = 0 && p.body.length ≤ 4096
/-- Every number of a list lies below a limit. -/
def allBelow (n : Nat) (l : List Nat) : Bool := l.all fun x => x < n

/-- A well-formed command. -/
def Instr.wellFormed (i : Instr) : Bool :=
  match i with
  | .submit port p _ => hostPortOk port && bodyOk p
  | .append port p => hostPortOk port && bodyOk p
  | .cancel port p => hostPortOk port && bodyOk p
  | .pause port p => hostPortOk port && bodyOk p
  | .resume port p => hostPortOk port && bodyOk p
  | .credit port p => hostPortOk port && bodyOk p
  | .prefixPut port p => hostPortOk port && bodyOk p
  | .prefixDrop port p => hostPortOk port && bodyOk p
  | .query port p => hostPortOk port && bodyOk p
  | .statsRead port p => hostPortOk port && bodyOk p
  | .ping port p => hostPortOk port && bodyOk p
  | .cfgRead port p => hostPortOk port && bodyOk p
  | .cfgWrite port p => hostPortOk port && bodyOk p
  | .modelLoad port p => hostPortOk port && bodyOk p
  | .variantSet port p => hostPortOk port && bodyOk p && p.opf 208 208 = 1
  | .variantWithdraw port p => hostPortOk port && bodyOk p && p.opf 208 208 = 0
  | .poolAttach port p => hostPortOk port && bodyOk p
  | .poolDetach port p => hostPortOk port && bodyOk p
  | .engineFreeze port p => hostPortOk port && bodyOk p
  | .engineThaw port p => hostPortOk port && bodyOk p
  | .tenantSet port p => hostPortOk port && bodyOk p
  | .tenantThaw port p => hostPortOk port && bodyOk p
  | .tenantReset port p => hostPortOk port && bodyOk p
  | .stencilLoad port p => hostPortOk port && bodyOk p
  | .stencilDrop port p => hostPortOk port && bodyOk p
  | .sharedHandleCreate port p => hostPortOk port && bodyOk p && (p.opf 193 192 = 0 || p.opf 193 192 = 3)
  | .sharedHandleSetGrants port p => hostPortOk port && bodyOk p && p.opf 193 192 = 1
  | .sharedHandleDrop port p => hostPortOk port && bodyOk p && p.opf 193 192 = 2
  | .envelopeSet port p => hostPortOk port && bodyOk p
  | .horn port p => hostPortOk port && bodyOk p
  | .hornRelease port p => hostPortOk port && bodyOk p
  | .counterMode port p => hostPortOk port && bodyOk p
  | .traceSet port p => hostPortOk port && bodyOk p
  | .twinAttach port p => hostPortOk port && bodyOk p
  | .twinDetach port p => hostPortOk port && bodyOk p
  | .takeover port p => hostPortOk port && bodyOk p
  | .reservedOpcode port opcode p => hostPortOk port && bodyOk p && opReserved opcode && opcode < 256
  | .framingDrop port _ _ => hostPortOk port
  | .partialPacketTimeout port _ => hostPortOk port
  | .keyGraceExpiry ctx => ctxOk ctx
  | .bootStart => true
  | .bootDrain => true
  | .bootShut => true
  | .svcKeyLoad => true
  | .stewardThaw => true
  | .peerMigrateWrite seq dest => posOk dest && handleOk seq
  | .svcDataCapture _ => true
  | .svcDataUpdate _ _ => true
  | .gateCrossing _ => true
  | .replyRelease ctx => ctxOk ctx
  | .ringRecordSend ctx => ctxOk ctx
  | .composePlan pool _ => poolNumOk pool
  | .trim pool => poolNumOk pool
  | .planDeliver pool => poolNumOk pool
  | .planHeaderAcked pool engine => poolNumOk pool && engineOk engine
  | .interposeCompose pool => poolNumOk pool
  | .mailboxAcked pool engine => poolNumOk pool && engineOk engine
  | .yieldTimeout pool => poolNumOk pool
  | .completionDone src addr _ => engineOk src && addrOk addr
  | .completionYielded src addr _ => engineOk src && addrOk addr
  | .completionAbort src addr _ => engineOk src && addrOk addr
  | .completionTimeout engine => engineOk engine
  | .stepCommit pool => poolNumOk pool
  | .stepFail pool => poolNumOk pool
  | .routerPart src addr _ => engineOk src && addrOk addr
  | .routeReturnAcked pool _ engine => poolNumOk pool && engineOk engine
  | .sketchPart src addr _ _ => engineOk src && addrOk addr
  | .draftList src addr _ => engineOk src && addrOk addr
  | .deepFetchData seq _ _ _ => handleOk seq
  | .appendGroup seq => handleOk seq
  | .energyReport src addr bs => engineOk src && addrOk addr && bs.length = 32
  | .energyWaitExpiry pool => poolNumOk pool
  | .keepList src addr _ => engineOk src && addrOk addr
  | .keepListTimeout slot => slotNumOk slot
  | .reduction src addr width value => engineOk src && addrOk addr && value < 2 ^ (8 * width)
  | .atomicRequest src _ addr _ => engineOk src && addrOk addr
  | .apertureLoad src => engineOk src
  | .fabricPartialTimeout => true
  | .storeAckTimeout engine => engineOk engine
  | .loadRetry _ => true
  | .atomicReply engine _ _ _ => engineOk engine
  | .atomicRetry engine => engineOk engine
  | .descriptorFetchDone _ => true
  | .imageFetchDone _ _ => true
  | .parkCopyDone slot _ => slotNumOk slot
  | .parkCopyRetry slot => slotNumOk slot
  | .restoreDone slot => slotNumOk slot
  | .placementDone pool handle => poolNumOk pool && prefixOk handle
  | .handleCopyDone handle _ => prefixOk handle
  | .memReadReturn port addr data _ => memPortOk port && addrOk addr && data.length = 256
  | .memRetrain port _ _ => memPortOk port
  | .memRefresh port _ => memPortOk port
  | .dfiPhyRequest port => memPortOk port
  | .deadlineExpiry slot => slotNumOk slot
  | .stallExpiry slot => slotNumOk slot
  | .parkTtlExpiry slot => slotNumOk slot
  | .handleExpiry handle => prefixOk handle
  | .maskPartitionApply part => part < 16
  | .speedRecompute readings => readings.length = 16 && allBelow (2 ^ 16) readings
  | .underrunHoldClear => true
  | .thermUpdate codes => codes.length = 12 && allBelow 256 codes
  | .delayLineEnter _ _ estimate => estimate < 2 ^ 64
  | .delayLineLeave _ => true
  | .heartbeatSend => true
  | .heartbeatRx _ _ _ => true
  | .twinCommandFrame _ port opcode p => hostPortOk port && opcode < 256 && bodyOk p
  | .twinDecisionFrame _ _ => true
  | .twinBulkFrame _ _ => true
  | .twinParkDataFrame _ _ _ _ _ => true
  | .twinAttachDone => true
  | .frameResend link => link ≤ 3
  | .twinLossActive => true
  | .twinLossShadow => true
  | .takeoverDone => true
  | .takeoverGraceExpiry => true
  | .helloSend => true
  | .helloRx link _ _ _ => 1 ≤ link && link ≤ 3
  | .peerLinkLoss link => 1 ≤ link && link ≤ 3
  | .peerForward _ src dest _ port p _ => posOk src && posOk dest && hostPortOk port && bodyOk p
  | .peerAnswer _ src dest _ _ => posOk src && posOk dest
  | .forwardRetry dest _ => posOk dest
  | .forwardLost dest _ => posOk dest
  | .forwardPathLost pos => posOk pos
  | .peerRelay _ src dest _ _ => posOk src && posOk dest
  | .quotaRebalance => true
  | .quotaMessage _ src dest _ => posOk src && posOk dest
  | .migDataFrame _ src dest _ => posOk src && posOk dest
  | .migrationDestLost pos => posOk pos
  | .hornTrig => true
  | .hornLinkMarker _ _ _ => true
  | .hornCutDone _ => true
  | .counterExport => true
  | .obsBudgetInterval => true
  | .resetHs => true
  | .resetFs => true
  | .resetHsRelease => true
  | .resetFsRelease grpPos pairSide => posOk grpPos && pairSide < 2
  | .hsSelfTestDone _ => true
  | .selfTestDone failStore => (match failStore with | some n => n < 7 | none => true)
  | .calibrateDone readings => readings.length = 16 && allBelow (2 ^ 16) readings
  | .trainDone results => results.length ≤ 24
  | .clearDone => true
  | .trefEdge _ => true
  | .ringBodyStore src addr _ => engineOk src && addrOk addr
  | .keepRequestAcked engine => engineOk engine
  | .deepFetchTimeout seq _ _ => handleOk seq
  | .peerMessageTransit _ src dest _ => posOk src && posOk dest
  | .migratedExtentRead _ src dest seq => posOk src && posOk dest && handleOk seq
  | .migratedExtentsReturn _ src dest seq => posOk src && posOk dest && handleOk seq

end Sys2Proof
end

