-- ==== Sys2Proof/Laws/PerInstr.lean ====
section
/-! SUPPORT. Laws of the commands as syntax, one lemma for each command. Family `Ports`: a well-formed command names only
host ports that an AE-3 has, four at most (R4). -/

namespace Sys2Proof.Laws

open Machine

/-- The host port that a command arrives on, where it arrives on one. -/
def Ports.hostPort (i : Instr) : Option Nat :=
  match i with
  | .submit port _ _ => some port
  | .append port _ => some port
  | .cancel port _ => some port
  | .pause port _ => some port
  | .resume port _ => some port
  | .credit port _ => some port
  | .prefixPut port _ => some port
  | .prefixDrop port _ => some port
  | .query port _ => some port
  | .statsRead port _ => some port
  | .ping port _ => some port
  | .cfgRead port _ => some port
  | .cfgWrite port _ => some port
  | .modelLoad port _ => some port
  | .variantSet port _ => some port
  | .variantWithdraw port _ => some port
  | .poolAttach port _ => some port
  | .poolDetach port _ => some port
  | .engineFreeze port _ => some port
  | .engineThaw port _ => some port
  | .tenantSet port _ => some port
  | .tenantThaw port _ => some port
  | .tenantReset port _ => some port
  | .stencilLoad port _ => some port
  | .stencilDrop port _ => some port
  | .sharedHandleCreate port _ => some port
  | .sharedHandleSetGrants port _ => some port
  | .sharedHandleDrop port _ => some port
  | .envelopeSet port _ => some port
  | .horn port _ => some port
  | .hornRelease port _ => some port
  | .counterMode port _ => some port
  | .traceSet port _ => some port
  | .twinAttach port _ => some port
  | .twinDetach port _ => some port
  | .takeover port _ => some port
  | .reservedOpcode port _ _ => some port
  | .framingDrop port _ _ => some port
  | .partialPacketTimeout port _ => some port
  | .keyGraceExpiry _ => none
  | .bootStart => none
  | .bootDrain => none
  | .bootShut => none
  | .svcKeyLoad => none
  | .stewardThaw => none
  | .peerMigrateWrite _ _ => none
  | .svcDataCapture _ => none
  | .svcDataUpdate _ _ => none
  | .gateCrossing _ => none
  | .replyRelease _ => none
  | .ringRecordSend _ => none
  | .composePlan _ _ => none
  | .trim _ => none
  | .planDeliver _ => none
  | .planHeaderAcked _ _ => none
  | .interposeCompose _ => none
  | .mailboxAcked _ _ => none
  | .yieldTimeout _ => none
  | .completionDone _ _ _ => none
  | .completionYielded _ _ _ => none
  | .completionAbort _ _ _ => none
  | .completionTimeout _ => none
  | .stepCommit _ => none
  | .stepFail _ => none
  | .routerPart _ _ _ => none
  | .routeReturnAcked _ _ _ => none
  | .sketchPart _ _ _ _ => none
  | .draftList _ _ _ => none
  | .deepFetchData _ _ _ _ => none
  | .appendGroup _ => none
  | .energyReport _ _ _ => none
  | .energyWaitExpiry _ => none
  | .keepList _ _ _ => none
  | .keepListTimeout _ => none
  | .reduction _ _ _ _ => none
  | .atomicRequest _ _ _ _ => none
  | .apertureLoad _ => none
  | .fabricPartialTimeout => none
  | .storeAckTimeout _ => none
  | .loadRetry _ => none
  | .atomicReply _ _ _ _ => none
  | .atomicRetry _ => none
  | .descriptorFetchDone _ => none
  | .imageFetchDone _ _ => none
  | .parkCopyDone _ _ => none
  | .parkCopyRetry _ => none
  | .restoreDone _ => none
  | .placementDone _ _ => none
  | .handleCopyDone _ _ => none
  | .memReadReturn _ _ _ _ => none
  | .memRetrain _ _ _ => none
  | .memRefresh _ _ => none
  | .dfiPhyRequest _ => none
  | .deadlineExpiry _ => none
  | .stallExpiry _ => none
  | .parkTtlExpiry _ => none
  | .handleExpiry _ => none
  | .maskPartitionApply _ => none
  | .speedRecompute _ => none
  | .underrunHoldClear => none
  | .thermUpdate _ => none
  | .delayLineEnter _ _ _ => none
  | .delayLineLeave _ => none
  | .heartbeatSend => none
  | .heartbeatRx _ _ _ => none
  | .twinCommandFrame _ port _ _ => some port
  | .twinDecisionFrame _ _ => none
  | .twinBulkFrame _ _ => none
  | .twinParkDataFrame _ _ _ _ _ => none
  | .twinAttachDone => none
  | .frameResend _ => none
  | .twinLossActive => none
  | .twinLossShadow => none
  | .takeoverDone => none
  | .takeoverGraceExpiry => none
  | .helloSend => none
  | .helloRx _ _ _ _ => none
  | .peerLinkLoss _ => none
  | .peerForward _ _ _ _ port _ _ => some port
  | .peerAnswer _ _ _ _ _ => none
  | .forwardRetry _ _ => none
  | .forwardLost _ _ => none
  | .forwardPathLost _ => none
  | .peerRelay _ _ _ _ _ => none
  | .quotaRebalance => none
  | .quotaMessage _ _ _ _ => none
  | .migDataFrame _ _ _ _ => none
  | .migrationDestLost _ => none
  | .hornTrig => none
  | .hornLinkMarker _ _ _ => none
  | .hornCutDone _ => none
  | .counterExport => none
  | .obsBudgetInterval => none
  | .resetHs => none
  | .resetFs => none
  | .resetHsRelease => none
  | .resetFsRelease _ _ => none
  | .hsSelfTestDone _ => none
  | .selfTestDone _ => none
  | .calibrateDone _ => none
  | .trainDone _ => none
  | .clearDone => none
  | .trefEdge _ => none
  | .ringBodyStore _ _ _ => none
  | .keepRequestAcked _ => none
  | .deepFetchTimeout _ _ _ => none
  | .peerMessageTransit _ _ _ _ => none
  | .migratedExtentRead _ _ _ _ => none
  | .migratedExtentsReturn _ _ _ _ => none

/-- A well-formed command that arrives on a host port names one that exists (R4). -/
def Ports.Statement (i : Instr) : Prop := i.wellFormed = true → ∀ n, Ports.hostPort i = some n → n < 4

theorem Ports.left {a b : Bool} (h : (a && b) = true) : a = true := (Bool.and_eq_true_iff.1 h).1
theorem Ports.right {a b : Bool} (h : (a && b) = true) : b = true := (Bool.and_eq_true_iff.1 h).2
theorem Ports.below {p n : Nat} (h : hostPortOk p = true) (e : some p = some n) : n < 4 := by
  cases e
  exact of_decide_eq_true h

theorem Ports.submit (port : Nat) (p : Packet) (ecc : List EccEvent) : Ports.Statement (.submit port p ecc) := fun h _ hn => Ports.below (Ports.left h) hn

theorem Ports.append (port : Nat) (p : Packet) : Ports.Statement (.append port p) := fun h _ hn => Ports.below (Ports.left h) hn

theorem Ports.cancel (port : Nat) (p : Packet) : Ports.Statement (.cancel port p) := fun h _ hn => Ports.below (Ports.left h) hn

theorem Ports.pause (port : Nat) (p : Packet) : Ports.Statement (.pause port p) := fun h _ hn => Ports.below (Ports.left h) hn

theorem Ports.resume (port : Nat) (p : Packet) : Ports.Statement (.resume port p) := fun h _ hn => Ports.below (Ports.left h) hn

theorem Ports.credit (port : Nat) (p : Packet) : Ports.Statement (.credit port p) := fun h _ hn => Ports.below (Ports.left h) hn

theorem Ports.prefixPut (port : Nat) (p : Packet) : Ports.Statement (.prefixPut port p) := fun h _ hn => Ports.below (Ports.left h) hn

theorem Ports.prefixDrop (port : Nat) (p : Packet) : Ports.Statement (.prefixDrop port p) := fun h _ hn => Ports.below (Ports.left h) hn

theorem Ports.query (port : Nat) (p : Packet) : Ports.Statement (.query port p) := fun h _ hn => Ports.below (Ports.left h) hn

theorem Ports.statsRead (port : Nat) (p : Packet) : Ports.Statement (.statsRead port p) := fun h _ hn => Ports.below (Ports.left h) hn

theorem Ports.ping (port : Nat) (p : Packet) : Ports.Statement (.ping port p) := fun h _ hn => Ports.below (Ports.left h) hn

theorem Ports.cfgRead (port : Nat) (p : Packet) : Ports.Statement (.cfgRead port p) := fun h _ hn => Ports.below (Ports.left h) hn

theorem Ports.cfgWrite (port : Nat) (p : Packet) : Ports.Statement (.cfgWrite port p) := fun h _ hn => Ports.below (Ports.left h) hn

theorem Ports.modelLoad (port : Nat) (p : Packet) : Ports.Statement (.modelLoad port p) := fun h _ hn => Ports.below (Ports.left h) hn

theorem Ports.variantSet (port : Nat) (p : Packet) : Ports.Statement (.variantSet port p) := fun h _ hn => Ports.below (Ports.left (Ports.left h)) hn

theorem Ports.variantWithdraw (port : Nat) (p : Packet) : Ports.Statement (.variantWithdraw port p) := fun h _ hn => Ports.below (Ports.left (Ports.left h)) hn

theorem Ports.poolAttach (port : Nat) (p : Packet) : Ports.Statement (.poolAttach port p) := fun h _ hn => Ports.below (Ports.left h) hn

theorem Ports.poolDetach (port : Nat) (p : Packet) : Ports.Statement (.poolDetach port p) := fun h _ hn => Ports.below (Ports.left h) hn

theorem Ports.engineFreeze (port : Nat) (p : Packet) : Ports.Statement (.engineFreeze port p) := fun h _ hn => Ports.below (Ports.left h) hn

theorem Ports.engineThaw (port : Nat) (p : Packet) : Ports.Statement (.engineThaw port p) := fun h _ hn => Ports.below (Ports.left h) hn

theorem Ports.tenantSet (port : Nat) (p : Packet) : Ports.Statement (.tenantSet port p) := fun h _ hn => Ports.below (Ports.left h) hn

theorem Ports.tenantThaw (port : Nat) (p : Packet) : Ports.Statement (.tenantThaw port p) := fun h _ hn => Ports.below (Ports.left h) hn

theorem Ports.tenantReset (port : Nat) (p : Packet) : Ports.Statement (.tenantReset port p) := fun h _ hn => Ports.below (Ports.left h) hn

theorem Ports.stencilLoad (port : Nat) (p : Packet) : Ports.Statement (.stencilLoad port p) := fun h _ hn => Ports.below (Ports.left h) hn

theorem Ports.stencilDrop (port : Nat) (p : Packet) : Ports.Statement (.stencilDrop port p) := fun h _ hn => Ports.below (Ports.left h) hn

theorem Ports.sharedHandleCreate (port : Nat) (p : Packet) : Ports.Statement (.sharedHandleCreate port p) := fun h _ hn => Ports.below (Ports.left (Ports.left h)) hn

theorem Ports.sharedHandleSetGrants (port : Nat) (p : Packet) : Ports.Statement (.sharedHandleSetGrants port p) := fun h _ hn => Ports.below (Ports.left (Ports.left h)) hn

theorem Ports.sharedHandleDrop (port : Nat) (p : Packet) : Ports.Statement (.sharedHandleDrop port p) := fun h _ hn => Ports.below (Ports.left (Ports.left h)) hn

theorem Ports.envelopeSet (port : Nat) (p : Packet) : Ports.Statement (.envelopeSet port p) := fun h _ hn => Ports.below (Ports.left h) hn

theorem Ports.horn (port : Nat) (p : Packet) : Ports.Statement (.horn port p) := fun h _ hn => Ports.below (Ports.left h) hn

theorem Ports.hornRelease (port : Nat) (p : Packet) : Ports.Statement (.hornRelease port p) := fun h _ hn => Ports.below (Ports.left h) hn

theorem Ports.counterMode (port : Nat) (p : Packet) : Ports.Statement (.counterMode port p) := fun h _ hn => Ports.below (Ports.left h) hn

theorem Ports.traceSet (port : Nat) (p : Packet) : Ports.Statement (.traceSet port p) := fun h _ hn => Ports.below (Ports.left h) hn

theorem Ports.twinAttach (port : Nat) (p : Packet) : Ports.Statement (.twinAttach port p) := fun h _ hn => Ports.below (Ports.left h) hn

theorem Ports.twinDetach (port : Nat) (p : Packet) : Ports.Statement (.twinDetach port p) := fun h _ hn => Ports.below (Ports.left h) hn

theorem Ports.takeover (port : Nat) (p : Packet) : Ports.Statement (.takeover port p) := fun h _ hn => Ports.below (Ports.left h) hn

theorem Ports.reservedOpcode (port : Nat) (opcode : Nat) (p : Packet) : Ports.Statement (.reservedOpcode port opcode p) := fun h _ hn => Ports.below (Ports.left (Ports.left (Ports.left h))) hn

theorem Ports.framingDrop (port : Nat) (first : Bool) (beats : Nat) : Ports.Statement (.framingDrop port first beats) := fun h _ hn => Ports.below h hn

theorem Ports.partialPacketTimeout (port : Nat) (beats : Nat) : Ports.Statement (.partialPacketTimeout port beats) := fun h _ hn => Ports.below h hn

theorem Ports.keyGraceExpiry (ctx : Nat) : Ports.Statement (.keyGraceExpiry ctx) := fun _ _ hn => nomatch hn

theorem Ports.bootStart  : Ports.Statement .bootStart := fun _ _ hn => nomatch hn

theorem Ports.bootDrain  : Ports.Statement .bootDrain := fun _ _ hn => nomatch hn

theorem Ports.bootShut  : Ports.Statement .bootShut := fun _ _ hn => nomatch hn

theorem Ports.svcKeyLoad  : Ports.Statement .svcKeyLoad := fun _ _ hn => nomatch hn

theorem Ports.stewardThaw  : Ports.Statement .stewardThaw := fun _ _ hn => nomatch hn

theorem Ports.peerMigrateWrite (seq : Nat) (dest : Nat) : Ports.Statement (.peerMigrateWrite seq dest) := fun _ _ hn => nomatch hn

theorem Ports.svcDataCapture (addr : Option Word) : Ports.Statement (.svcDataCapture addr) := fun _ _ hn => nomatch hn

theorem Ports.svcDataUpdate (addr : Option Word) (data : Word) : Ports.Statement (.svcDataUpdate addr data) := fun _ _ hn => nomatch hn

theorem Ports.gateCrossing (g : GateMsg) : Ports.Statement (.gateCrossing g) := fun _ _ hn => nomatch hn

theorem Ports.replyRelease (ctx : Nat) : Ports.Statement (.replyRelease ctx) := fun _ _ hn => nomatch hn

theorem Ports.ringRecordSend (ctx : Nat) : Ports.Statement (.ringRecordSend ctx) := fun _ _ hn => nomatch hn

theorem Ports.composePlan (pool : Nat) (ecc : List EccEvent) : Ports.Statement (.composePlan pool ecc) := fun _ _ hn => nomatch hn

theorem Ports.trim (pool : Nat) : Ports.Statement (.trim pool) := fun _ _ hn => nomatch hn

theorem Ports.planDeliver (pool : Nat) : Ports.Statement (.planDeliver pool) := fun _ _ hn => nomatch hn

theorem Ports.planHeaderAcked (pool : Nat) (engine : Nat) : Ports.Statement (.planHeaderAcked pool engine) := fun _ _ hn => nomatch hn

theorem Ports.interposeCompose (pool : Nat) : Ports.Statement (.interposeCompose pool) := fun _ _ hn => nomatch hn

theorem Ports.mailboxAcked (pool : Nat) (engine : Nat) : Ports.Statement (.mailboxAcked pool engine) := fun _ _ hn => nomatch hn

theorem Ports.yieldTimeout (pool : Nat) : Ports.Statement (.yieldTimeout pool) := fun _ _ hn => nomatch hn

theorem Ports.completionDone (src : Nat) (addr : Nat) (r : Completion) : Ports.Statement (.completionDone src addr r) := fun _ _ hn => nomatch hn

theorem Ports.completionYielded (src : Nat) (addr : Nat) (r : Completion) : Ports.Statement (.completionYielded src addr r) := fun _ _ hn => nomatch hn

theorem Ports.completionAbort (src : Nat) (addr : Nat) (r : Completion) : Ports.Statement (.completionAbort src addr r) := fun _ _ hn => nomatch hn

theorem Ports.completionTimeout (engine : Nat) : Ports.Statement (.completionTimeout engine) := fun _ _ hn => nomatch hn

theorem Ports.stepCommit (pool : Nat) : Ports.Statement (.stepCommit pool) := fun _ _ hn => nomatch hn

theorem Ports.stepFail (pool : Nat) : Ports.Statement (.stepFail pool) := fun _ _ hn => nomatch hn

theorem Ports.routerPart (src : Nat) (addr : Nat) (r : RouterPart) : Ports.Statement (.routerPart src addr r) := fun _ _ hn => nomatch hn

theorem Ports.routeReturnAcked (pool : Nat) (set : Nat) (engine : Nat) : Ports.Statement (.routeReturnAcked pool set engine) := fun _ _ hn => nomatch hn

theorem Ports.sketchPart (src : Nat) (addr : Nat) (r : SketchPart) (ecc : List EccEvent) : Ports.Statement (.sketchPart src addr r ecc) := fun _ _ hn => nomatch hn

theorem Ports.draftList (src : Nat) (addr : Nat) (bytes : List Byte) : Ports.Statement (.draftList src addr bytes) := fun _ _ hn => nomatch hn

theorem Ports.deepFetchData (seq : Nat) (index : Nat) (shard : Nat) (bs : List Byte) : Ports.Statement (.deepFetchData seq index shard bs) := fun _ _ hn => nomatch hn

theorem Ports.appendGroup (seq : Nat) : Ports.Statement (.appendGroup seq) := fun _ _ hn => nomatch hn

theorem Ports.energyReport (src : Nat) (addr : Nat) (bytes : List Byte) : Ports.Statement (.energyReport src addr bytes) := fun _ _ hn => nomatch hn

theorem Ports.energyWaitExpiry (pool : Nat) : Ports.Statement (.energyWaitExpiry pool) := fun _ _ hn => nomatch hn

theorem Ports.keepList (src : Nat) (addr : Nat) (r : KeepList) : Ports.Statement (.keepList src addr r) := fun _ _ hn => nomatch hn

theorem Ports.keepListTimeout (slot : Nat) : Ports.Statement (.keepListTimeout slot) := fun _ _ hn => nomatch hn

theorem Ports.reduction (src : Nat) (addr : Nat) (width : Nat) (value : Nat) : Ports.Statement (.reduction src addr width value) := fun _ _ hn => nomatch hn

theorem Ports.atomicRequest (src : Nat) (aseq : Nat) (addr : Nat) (op : AtomicOp) : Ports.Statement (.atomicRequest src aseq addr op) := fun _ _ hn => nomatch hn

theorem Ports.apertureLoad (src : Nat) : Ports.Statement (.apertureLoad src) := fun _ _ hn => nomatch hn

theorem Ports.fabricPartialTimeout  : Ports.Statement .fabricPartialTimeout := fun _ _ hn => nomatch hn

theorem Ports.storeAckTimeout (engine : Nat) : Ports.Statement (.storeAckTimeout engine) := fun _ _ hn => nomatch hn

theorem Ports.loadRetry (load : Nat) : Ports.Statement (.loadRetry load) := fun _ _ hn => nomatch hn

theorem Ports.atomicReply (engine : Nat) (aseq : Nat) (status : AtomicStatus) (value : Nat) : Ports.Statement (.atomicReply engine aseq status value) := fun _ _ hn => nomatch hn

theorem Ports.atomicRetry (engine : Nat) : Ports.Statement (.atomicRetry engine) := fun _ _ hn => nomatch hn

theorem Ports.descriptorFetchDone (f : Fetch) : Ports.Statement (.descriptorFetchDone f) := fun _ _ hn => nomatch hn

theorem Ports.imageFetchDone (f : Fetch) (img : Option ImageIn) : Ports.Statement (.imageFetchDone f img) := fun _ _ hn => nomatch hn

theorem Ports.parkCopyDone (slot : Nat) (pages : List Byte) : Ports.Statement (.parkCopyDone slot pages) := fun _ _ hn => nomatch hn

theorem Ports.parkCopyRetry (slot : Nat) : Ports.Statement (.parkCopyRetry slot) := fun _ _ hn => nomatch hn

theorem Ports.restoreDone (slot : Nat) : Ports.Statement (.restoreDone slot) := fun _ _ hn => nomatch hn

theorem Ports.placementDone (pool : Nat) (handle : Nat) : Ports.Statement (.placementDone pool handle) := fun _ _ hn => nomatch hn

theorem Ports.handleCopyDone (handle : Nat) (pages : List Byte) : Ports.Statement (.handleCopyDone handle pages) := fun _ _ hn => nomatch hn

theorem Ports.memReadReturn (port : Nat) (addr : Nat) (data : List Byte) (crc : Word) : Ports.Statement (.memReadReturn port addr data crc) := fun _ _ hn => nomatch hn

theorem Ports.memRetrain (port : Nat) (ok : Bool) (rate : Nat) : Ports.Statement (.memRetrain port ok rate) := fun _ _ hn => nomatch hn

theorem Ports.memRefresh (port : Nat) (rate : Nat) : Ports.Statement (.memRefresh port rate) := fun _ _ hn => nomatch hn

theorem Ports.dfiPhyRequest (port : Nat) : Ports.Statement (.dfiPhyRequest port) := fun _ _ hn => nomatch hn

theorem Ports.deadlineExpiry (slot : Nat) : Ports.Statement (.deadlineExpiry slot) := fun _ _ hn => nomatch hn

theorem Ports.stallExpiry (slot : Nat) : Ports.Statement (.stallExpiry slot) := fun _ _ hn => nomatch hn

theorem Ports.parkTtlExpiry (slot : Nat) : Ports.Statement (.parkTtlExpiry slot) := fun _ _ hn => nomatch hn

theorem Ports.handleExpiry (handle : Nat) : Ports.Statement (.handleExpiry handle) := fun _ _ hn => nomatch hn

theorem Ports.maskPartitionApply (part : Nat) : Ports.Statement (.maskPartitionApply part) := fun _ _ hn => nomatch hn

theorem Ports.speedRecompute (readings : List Nat) : Ports.Statement (.speedRecompute readings) := fun _ _ hn => nomatch hn

theorem Ports.underrunHoldClear  : Ports.Statement .underrunHoldClear := fun _ _ hn => nomatch hn

theorem Ports.thermUpdate (codes : List Nat) : Ports.Statement (.thermUpdate codes) := fun _ _ hn => nomatch hn

theorem Ports.delayLineEnter (fabric : Bool) (freq : Bool) (estimate : Nat) : Ports.Statement (.delayLineEnter fabric freq estimate) := fun _ _ hn => nomatch hn

theorem Ports.delayLineLeave (fabric : Bool) : Ports.Statement (.delayLineLeave fabric) := fun _ _ hn => nomatch hn

theorem Ports.heartbeatSend  : Ports.Statement .heartbeatSend := fun _ _ hn => nomatch hn

theorem Ports.heartbeatRx (ackseq : Nat) (fcrc : Word) (h : Heartbeat) : Ports.Statement (.heartbeatRx ackseq fcrc h) := fun _ _ hn => nomatch hn

theorem Ports.twinCommandFrame (f : FrameIn) (port : Nat) (opcode : Nat) (p : Packet) : Ports.Statement (.twinCommandFrame f port opcode p) := fun h _ hn => Ports.below (Ports.left (Ports.left h)) hn

theorem Ports.twinDecisionFrame (f : FrameIn) (d : Decision) : Ports.Statement (.twinDecisionFrame f d) := fun _ _ hn => nomatch hn

theorem Ports.twinBulkFrame (f : FrameIn) (d : Decision) : Ports.Statement (.twinBulkFrame f d) := fun _ _ hn => nomatch hn

theorem Ports.twinParkDataFrame (f : FrameIn) (n : Nat) (off : Nat) (bytes : List Byte) (handle : Bool) : Ports.Statement (.twinParkDataFrame f n off bytes handle) := fun _ _ hn => nomatch hn

theorem Ports.twinAttachDone  : Ports.Statement .twinAttachDone := fun _ _ hn => nomatch hn

theorem Ports.frameResend (link : Nat) : Ports.Statement (.frameResend link) := fun _ _ hn => nomatch hn

theorem Ports.twinLossActive  : Ports.Statement .twinLossActive := fun _ _ hn => nomatch hn

theorem Ports.twinLossShadow  : Ports.Statement .twinLossShadow := fun _ _ hn => nomatch hn

theorem Ports.takeoverDone  : Ports.Statement .takeoverDone := fun _ _ hn => nomatch hn

theorem Ports.takeoverGraceExpiry  : Ports.Statement .takeoverGraceExpiry := fun _ _ hn => nomatch hn

theorem Ports.helloSend  : Ports.Statement .helloSend := fun _ _ hn => nomatch hn

theorem Ports.helloRx (link : Nat) (ackseq : Nat) (fcrc : Word) (h : Heartbeat) : Ports.Statement (.helloRx link ackseq fcrc h) := fun _ _ hn => nomatch hn

theorem Ports.peerLinkLoss (link : Nat) : Ports.Statement (.peerLinkLoss link) := fun _ _ hn => nomatch hn

theorem Ports.peerForward (f : FrameIn) (src : Nat) (dest : Nat) (num : Nat) (port : Nat) (p : Packet) (budget : Nat) : Ports.Statement (.peerForward f src dest num port p budget) := fun h _ hn => Ports.below (Ports.right (Ports.left h)) hn

theorem Ports.peerAnswer (f : FrameIn) (src : Nat) (dest : Nat) (num : Nat) (r : Reply) : Ports.Statement (.peerAnswer f src dest num r) := fun _ _ hn => nomatch hn

theorem Ports.forwardRetry (dest : Nat) (num : Nat) : Ports.Statement (.forwardRetry dest num) := fun _ _ hn => nomatch hn

theorem Ports.forwardLost (dest : Nat) (num : Nat) : Ports.Statement (.forwardLost dest num) := fun _ _ hn => nomatch hn

theorem Ports.forwardPathLost (pos : Nat) : Ports.Statement (.forwardPathLost pos) := fun _ _ hn => nomatch hn

theorem Ports.peerRelay (f : FrameIn) (src : Nat) (dest : Nat) (num : Nat) (r : Option RingRec) : Ports.Statement (.peerRelay f src dest num r) := fun _ _ hn => nomatch hn

theorem Ports.quotaRebalance  : Ports.Statement .quotaRebalance := fun _ _ hn => nomatch hn

theorem Ports.quotaMessage (f : FrameIn) (src : Nat) (dest : Nat) (m : QuotaMsg) : Ports.Statement (.quotaMessage f src dest m) := fun _ _ hn => nomatch hn

theorem Ports.migDataFrame (f : FrameIn) (src : Nat) (dest : Nat) (m : PeerMsg) : Ports.Statement (.migDataFrame f src dest m) := fun _ _ hn => nomatch hn

theorem Ports.migrationDestLost (pos : Nat) : Ports.Statement (.migrationDestLost pos) := fun _ _ hn => nomatch hn

theorem Ports.hornTrig  : Ports.Statement .hornTrig := fun _ _ hn => nomatch hn

theorem Ports.hornLinkMarker (f : FrameIn) (cut : Nat) (hold : Bool) : Ports.Statement (.hornLinkMarker f cut hold) := fun _ _ hn => nomatch hn

theorem Ports.hornCutDone (chans : List CutChan) : Ports.Statement (.hornCutDone chans) := fun _ _ hn => nomatch hn

theorem Ports.counterExport  : Ports.Statement .counterExport := fun _ _ hn => nomatch hn

theorem Ports.obsBudgetInterval  : Ports.Statement .obsBudgetInterval := fun _ _ hn => nomatch hn

theorem Ports.resetHs  : Ports.Statement .resetHs := fun _ _ hn => nomatch hn

theorem Ports.resetFs  : Ports.Statement .resetFs := fun _ _ hn => nomatch hn

theorem Ports.resetHsRelease  : Ports.Statement .resetHsRelease := fun _ _ hn => nomatch hn

theorem Ports.resetFsRelease (grpPos : Nat) (pairSide : Nat) : Ports.Statement (.resetFsRelease grpPos pairSide) := fun _ _ hn => nomatch hn

theorem Ports.hsSelfTestDone (ok : Bool) : Ports.Statement (.hsSelfTestDone ok) := fun _ _ hn => nomatch hn

theorem Ports.selfTestDone (failStore : Option Nat) : Ports.Statement (.selfTestDone failStore) := fun _ _ hn => nomatch hn

theorem Ports.calibrateDone (readings : List Nat) : Ports.Statement (.calibrateDone readings) := fun _ _ hn => nomatch hn

theorem Ports.trainDone (results : List (Option Nat)) : Ports.Statement (.trainDone results) := fun _ _ hn => nomatch hn

theorem Ports.clearDone  : Ports.Statement .clearDone := fun _ _ hn => nomatch hn

theorem Ports.trefEdge (fabric : Bool) : Ports.Statement (.trefEdge fabric) := fun _ _ hn => nomatch hn

theorem Ports.ringBodyStore (src : Nat) (addr : Nat) (bytes : List Byte) : Ports.Statement (.ringBodyStore src addr bytes) := fun _ _ hn => nomatch hn

theorem Ports.keepRequestAcked (engine : Nat) : Ports.Statement (.keepRequestAcked engine) := fun _ _ hn => nomatch hn

theorem Ports.deepFetchTimeout (seq : Nat) (index : Nat) (shard : Nat) : Ports.Statement (.deepFetchTimeout seq index shard) := fun _ _ hn => nomatch hn

theorem Ports.peerMessageTransit (f : FrameIn) (src : Nat) (dest : Nat) (m : PeerMsg) : Ports.Statement (.peerMessageTransit f src dest m) := fun _ _ hn => nomatch hn

theorem Ports.migratedExtentRead (f : FrameIn) (src : Nat) (dest : Nat) (seq : Nat) : Ports.Statement (.migratedExtentRead f src dest seq) := fun _ _ hn => nomatch hn

theorem Ports.migratedExtentsReturn (f : FrameIn) (src : Nat) (dest : Nat) (seq : Nat) : Ports.Statement (.migratedExtentsReturn f src dest seq) := fun _ _ hn => nomatch hn

end Sys2Proof.Laws
end

