-- ==== Sys2Proof/Tests/Slice0.lean ====
section
/-! SUPPORT. Tests of single steps, and for each statement states and commands that meet its hypotheses. -/

-- one theorem after another: tests that the kernel evaluates side by side need more memory than the check gives
set_option Elab.async false

namespace Sys2Proof.Tests

open Sys2Proof.Machine

/-! Small states. -/

/-- The key of every context of these tests. -/
def aKey : BitVec 128 := 0x0123456789ABCDEF

/-- A context with a key that has sent packets on port 0. -/
def keyed (c : Nat) : HsCtx := { HsCtx.initial c with key := some aKey, lastPort := some 0 }

/-- A host side whose contexts 0 and 1 have keys. -/
def hostUp : HostSide := { bootDone := true, ctxs := [(0, keyed 0), (1, keyed 1)] }

/-- A fabric side that is READY. -/
def fabUp : FabricSide := { boot := { phase := .ready } }

/-- A state with the given fabric side, at count 1,000,000. -/
def at_ (f : FabricSide) (h : HostSide := hostUp) : State :=
  { State.reset with clk := { hs := 1000000, fs := 1000000 }, m := { hs := h, fs := f } }

/-- A packet of context `c` with its MAC. -/
def send (op c : Nat) (fields : BitVec 256 := 0) (handle : DWord := 0) (body : List Byte := []) : Packet :=
  let p : Packet := { ctx := BitVec.ofNat 8 c, cseq := 1, tag := 7, handle := handle, op := fields, mac := 0, body := body }
  { p with mac := macOf aKey op p }

/-- A value in header bits [.. : lo]. -/
def bitsAt (lo v : Nat) : BitVec 256 := BitVec.ofNat 256 (v * 2 ^ (lo - 192))

/-- What `Accepted` asks of a packet, but for its MAC. -/
def fits (s : State) (port op : Nat) (p : Packet) : Bool :=
  let h := (start s).hctx p.ctx.toNat
  decide (port < s.idn.hostPorts) && s.m.hs.up && decide (p.body.length ≤ 4096) && decide (p.body.length % 16 = 0) &&
    decide (h.key = some aKey) && !h.keyExpired && (decide (p.ctx.toNat = 0) || !(start s).discardsTenants) &&
    !h.resetting && !h.frozen && decide (1 ≤ (p.cseq - h.hiSeq).toNat) && decide ((p.cseq - h.hiSeq).toNat < 2 ^ 31) &&
    !opReserved op && opPermitted p.ctx.toNat op && bodyLengthOk op p && h.queue.isEmpty && h.acting.isNone &&
    decide (h.credits ≠ 0) && !s.m.fs.horn.held && (start s).fsTakes && (start s).readyFor op &&
    (decide (op ≠ opPing) || (start s).ready) && (start s).twinPermits op

/-- A packet with a good MAC under the current key is authentic. -/
theorem authOf_signed (w : Work) (op : Nat) (p : Packet) (hk : (w.hctx p.ctx.toNat).key = some aKey)
    (he : (w.hctx p.ctx.toNat).keyExpired = false) : w.authOf op { p with mac := macOf aKey op p } = .current := by
  simp [Work.authOf, hk, he, macOk_macOf]

theorem accepted_send {s : State} {port op c : Nat} {f : BitVec 256} {h : DWord} {b : List Byte}
    (k : fits s port op (send op c f h b) = true) : Accepted s port op (send op c f h b) := by
  simp only [fits, Bool.and_eq_true, Bool.or_eq_true, decide_eq_true_eq, Bool.not_eq_true', List.isEmpty_iff,
    Option.isNone_iff_eq_none] at k
  obtain ⟨⟨⟨⟨⟨⟨⟨⟨⟨⟨⟨⟨⟨⟨⟨⟨⟨⟨⟨⟨⟨k1, k2⟩, k3⟩, k4⟩, k5⟩, k6⟩, k7⟩, k8⟩, k9⟩, k10⟩, k11⟩, k12⟩, k13⟩, k14⟩, k15⟩, k16⟩, k17⟩, k18⟩,
    k19⟩, k20⟩, k21⟩, k22⟩ := k
  exact {
    port_ok := k1, up := k2, body_ok := ⟨k3, k4⟩
    auth := by
      have h := authOf_signed (start s) op
        { ctx := BitVec.ofNat 8 c, cseq := 1, tag := 7, handle := h, op := f, mac := 0, body := b } k5 k6
      intro e
      exact Auth.noConfusion (h.symm.trans e)
    taken := k7, open_ := ⟨k8, k9⟩, fresh := ⟨k10, k11⟩, permitted := ⟨k12, k13, k14⟩
    idle := ⟨k15, k16⟩, credits := fun _ => k17, free := k18
    ready := ⟨k19, k20, fun e => k21.resolve_left fun n => n e⟩
    pairing := k22 }

/-! Sequences, pools and engines that several witnesses share. -/

/-- A decoding sequence of context 1, for slot 5. -/
def seqEntry : RqtEntry :=
  { st := .decoding, gen := 1, ctx := 1, fl := { issued := true, bound := true }, n := 1, length := 70, promptLen := 64
    maxTokens := 20, emitted := 6, deadline := 2000000, reqHandle := 5 + 2 ^ 18
    par := { repPen := 0x3F80, ringDepth := 8 } }

/-- Its handle. -/
def seqH : DWord := 5 + 2 ^ 18

/-- A fabric side with that entry in slot 5. -/
def fabSeq (e : RqtEntry := seqEntry) (x : Seq := { credits := 4, tokens := [1, 2, 3, 4, 5, 6] }) : FabricSide :=
  { fabUp with rqt := [(5, e)], seqs := [(5, x)], freshSlot := 6, ctxs := [(1, { seqs := 1 })] }

/-- An engine's descriptor: both KV shards and both vocabulary shards are numbered. -/
def aDesc (kv vocab : Nat) : Desc :=
  { version := 3, kvLayout := 1, modelServe := 0xFFFFFFFF, vocabShard := vocab, vocabShards := 2, kvShard := kv, kvShards := 2
    tileTime := 100, discardLimit := 3, completionTimeout := 1000, ctrlAddr := 0x1000, saveAddr := 0x2000, saveBytes := 0x1000
    planAddr := 0x100000, planBytes := 0x10000, cStep := 100, cDec := 10, cPre := 10, cAtt := 1, cMb := 10, cSwap := 10
    eStep := 100, ePos := 1, eAtt := 1 }

/-- An engine of pool 0. -/
def anEngine (kv vocab : Nat) : Engine := { pool := 0, desc := aDesc kv vocab, fresh := false }

/-- A pool of two shards. -/
def aPool : Pool :=
  { typ := 2, pages := 100, freshPage := 10, kvLayout := 1, vocabShards := 2, kvShards := 2, pageBytes := 128, posBytes := 1 }

/-- Pool 0 with engines 3, 4, 5 and 6. Engines 5 and 6 serve the shards of 3 and 4. -/
def fabPool (q : Pool := aPool) (f : FabricSide := fabUp) : FabricSide :=
  { f with pools := [(0, q)]
           engines := [(3, anEngine 0 0), (5, anEngine 0 0), (6, anEngine 1 1), (9, anEngine 1 1)] }

/-- A plan over the four engines with one decode entry, of the sequence in slot 5. -/
def aPlan : Plan :=
  { step := 7, epoch := 1, pool := 0, typ := 2, engines := [3, 5, 6, 9]
    entries := [{ slot := 5, seq := 5 + 2 ^ 18, pos := 69, etype := .decode, model := 0, variant := 0, npos := 1, ctx := 1
                  lRead := 70 }] }

/-- The plan's step, delivered. -/
def aStep : Step := { plan := aPlan, deliveredAt := some 999000, acked := [(3, 999000), (5, 999000), (6, 999000), (9, 999000)] }

/-- Pool 0 executing that step. -/
def busyPool : Pool := { aPool with step := 7, stepNo := 7, exec := some aStep, named := [5 + 2 ^ 18] }

/-- A context in which a packet is being acted on. -/
def acting (c : Nat) (i : QItem) (v : Wait) : HostSide :=
  { hostUp with ctxs := hostUp.ctxs.set c { keyed c with acting := some (i, v) } }

/-- A packet as its queue holds it. -/
def item (op : Nat) (p : Packet) : QItem := { port := 0, opcode := op, pkt := p, noted := 0 }

/-- Context 1 with a stream. -/
def streamed (l : List StreamItem) : HostSide := { hostUp with ctxs := [(0, keyed 0), (1, { keyed 1 with stream := l })] }

/-- An ACTIVE in a pair. -/
def pairedA (f : FabricSide := fabUp) : FabricSide := { f with twin := { state := .pairedA, link := { nextSeq := 10, acked := 4 } } }

/-- The next frame of peer link 1, which is up. -/
def fabLink (f : FabricSide := fabUp) : FabricSide := { f with peer := { links := [(0, { up := true, taken := 4 })] } }
def nextFrame (link : Nat) : FrameIn := { link := link, fseq := if link = 0 then 0 else 5, ackseq := 0, crcOk := true }

/-- A model image with one route layer: layer 4, 16 experts in one group, two of them kept (R382). -/
def fetchedImage : ImageIn :=
  { s := 64, vocab := 1000, eos := 2, vocabTag := 9, routes := [0x20000F0004], template := [(4, 0, 0)] }
def anImage : ModelImage := fetchedImage.parsed

theorem test_route_descriptor :
    anImage.routes = [{ layer := 4, experts := 16, groups := 1, groupTop := 1, k := 2 }] := by decide

/-- Model slot 0 loaded. -/
def fabModel (f : FabricSide := fabUp) : FabricSide := { f with models := [(0, { image := some anImage })] }

/-- A mask image with users, or withdrawn. -/
def aMask (users : Nat) (gone : Bool) : MaskImage :=
  { vocab := 1000, vocabTag := 9, start := 0, states := [{ base := 0, count := 1, accept := true, dead := false }]
    runs := [{ lo := 0, hi := 999, next := 0 }], blocks := 1, part := 0, grants := 2, withdrawn := gone, users := users }

/-- The decoding sequence of slot 5 on pool 0, with its two pages. -/
def decSeq : Seq := { credits := 4, tokens := [1, 2, 3, 4, 5, 6], joined := true, kv := 69, own := [1, 2] }

/-- It alone, on pool 0, with model 0. -/
def decoding (q : Pool := aPool) (e : RqtEntry := seqEntry) (x : Seq := decSeq) : FabricSide :=
  fabModel (fabPool q (fabSeq e x))

/-- Where engine `e` writes its next record of a ring. -/
def ringAddr (e : Nat) (r : RingDef) : Nat := (start (at_ fabPool)).blockAddr e + r.base

/-- What `RecordArrives` asks, for an engine that has written nothing. -/
theorem arrives_record {f : FabricSide} {e addr : Nat} {g : Engine} {q : Pool} {r : RingDef} (s : Serves (at_ f))
    (he : f.engines.get? e = some g) (hq : f.pools.get? g.pool = some q) (hf : g.frozen = false)
    (p : addr = (start (at_ f)).blockAddr e + r.base + 64 * nextUnitOf g r ∧ 64 * nextUnitOf g r < r.size) :
    RecordArrives (at_ f) e addr g q r :=
  ⟨s, ⟨he, hq, hf⟩, p.1, p.2⟩

/-- A prefix handle of context 1, and a shared one. -/
def ownH : DWord := 0x0100000000000011
def sharedH : DWord := 0x0000000000000022

/-- A copy of 64 positions for a handle. -/
def aCopy (done : Bool) : HandleCopy :=
  { handle := ownH.toNat, owner := 1, model := 0, variant := 0, q := 64, layout := 1, pagePos := 64
    tokens := List.replicate 64 5, extents := [0], done := done }

/-- A fabric side that holds the handle of context 1. -/
def fabHandle (done : Bool) : FabricSide :=
  { fabUp with handles := [(ownH.toNat, { copy := 0, expiry := some 2000000 })], copies := [(0, aCopy done)], nextCopy := 1
               ctxs := [(1, { parkUsed := 1 })], park := { gib := 1, used := [(0, ())] } }

/-- A completion of the step by engine 3. -/
def aDone (kind : Nat := 1) (epoch : Nat := 1) : Completion :=
  { step := 7, epoch := epoch, pool := 0, interposed := false, ckind := kind, engine := 3 }

/-- The record of a copy of the sequence's two pages, 69 positions. -/
def aRec (copy : CopyState) (cond : Bool := true) : ParkRec :=
  { condensed := cond, written := 69, layout := 1, pool := 0, shards := 2, copy := copy, at_ := 0
    keep := if cond then [(0, 5), (64, 3)] else [(0, 69)] }

/-- Pool 0, whose positions are 64 bytes of binary16. -/
def parkPool : Pool := { aPool with elem := 1, pageBytes := 4128, posBytes := 64 }

/-- Slot 5 parked with that record, and room in the park tier. -/
def parked (r : ParkRec) (t : Tenant := { limPark := 10 }) (ttl : Nat := 50) : FabricSide :=
  { decoding parkPool { seqEntry with st := .parked, parkTtl := ttl, fl := { issued := true } }
      { credits := 4, kv := 69, own := [1, 2], park := some r } with
    ctxs := [(1, { seqs := 1, tenant := t })], park := { gib := 1 } }

/-- Context 1's settings: model 0, every pool, ten sequences. -/
def aTenant : Tenant :=
  { maxSeqs := 10, modelGrant := 1, limPrefill := 100, limDecode := 100, limShared := 100, resShared := 100, maxBudget := 1000000
    defBudget := 500000, maxTtl := 100, defTtl := 50, limPark := 100, resPark := 100 }

/-- A fabric side that serves model 0 on pool 0 to context 1. -/
def serving (f : FabricSide := fabUp) (t : Tenant := aTenant) : FabricSide :=
  let f := fabModel (fabPool aPool f)
  { f with ctxs := [(1, { f.ctxs.getD 1 {} with tenant := t })] }

theorem ok_of {α : Type} {x : Except Ans α} {f : α → Bool} (h : x.toOption.any f = true) : ∃ a, x = .ok a ∧ f a = true := by
  cases x with
  | error e => exact absurd h (by simp [Except.toOption])
  | ok a => exact ⟨a, rfl, by simpa [Except.toOption] using h⟩
theorem error_of {α : Type} {x : Except Ans α} (h : x.toOption.isSome = false) : ∃ a, x = .error a := by
  cases x with
  | error e => exact ⟨e, rfl⟩
  | ok a => exact absurd h (by simp [Except.toOption])

/-- The twin's heartbeat, in a pairing state. -/
def aBeat (state : Nat) (takeovers : Nat := 0) : Heartbeat :=
  { state := state, ready := true, empty := true, takeovers := takeovers, version := 0x00030100, config := 0, srcId := 77
    fabBase := (start (at_ fabUp)).reg64 rFabBase, parkGib := 0 }

/-- SUBMIT of `n` forks of a generate request with the given tokens. -/
def submitPkt (n : Nat) (toks : List Nat) (more : Nat := 0) : Packet :=
  send opSubmit 1 (bitsAt 203 more + bitsAt 208 n + bitsAt 240 100000 + bitsAt 272 5 + bitsAt 304 8) 0
    (leBytes 32 (toks.length * 2 ^ 96) ++ (toks.map fun x => leBytes 4 x).flatten ++
      List.replicate ((4 - toks.length % 4) % 4 * 4) 0)
/-! The queue, the outputs, the observation unit, the clocks and bring-up. -/

theorem witness_StepRunsFrontCommand :
    { State.reset with pending := [.clearDone] }.pending = .clearDone :: [] ∧ State.reset.pending = [] := ⟨rfl, rfl⟩

theorem witness_CommandsKeepQueueAndOutputs : ∃ t, exec (.trefEdge true) State.reset = .next t := ⟨_, rfl⟩

theorem reset_slotted : State.reset.obs.slotted := fun _ _ h => absurd h (List.not_mem_nil)

theorem reset_canonical : State.reset.obs.canonical := by decide

theorem witness_EventRecordsKeepTheirSlots : State.reset.obs.slotted ∧ ∃ t, step State.reset = .next t :=
  ⟨reset_slotted, _, rfl⟩

theorem witness_ObservationStoresStayCanonical : State.reset.obs.canonical ∧ ∃ t, step State.reset = .next t :=
  ⟨reset_canonical, _, rfl⟩

theorem witness_ClocksAndStrapsHold :
    State.reset.idn.grpPos < 8 ∧ State.reset.idn.pairSide < 2 ∧ ∃ t, exec .clearDone State.reset = .next t :=
  ⟨by decide, by decide, _, rfl⟩

/-- An observation unit whose counter at 0x10 stands at its ceiling. -/
def fullObs : Obs := { ctr := [(0x10, 0xFFFFFFFFFFFFFFFF)] }

theorem witness_CountersSaturateAndStop :
    (fullObs.frozenAt = none ∧ (fullObs.ctr.getD 0x18 0).toNat + 5 < 2 ^ 64 ∧
      2 ^ 64 ≤ (fullObs.ctr.getD 0x10 0).toNat + 1 ∧ fullObs.sat.has 0x10 = false) ∧
    { fullObs with sat := [(0x10, ())] }.sat.has 0x10 = true ∧ { fullObs with frozenAt := some 3 }.frozenAt = some 3 := by
  decide

/-- A fabric side in a phase of its bring-up. -/
def inPhase (p : Phase) : FabricSide := { boot := { phase := p } }

/-- A host side that has just left reset. -/
def hostNew : HostSide := { up := true }

theorem witness_BringUpReachesReady :
    (((at_ {} hostNew).m.hs.up = true ∧ (at_ {} hostNew).m.hs.bootDone = false) ∧
      Awake (at_ {} hostNew) ∧ (at_ {} hostNew).m.fs.boot.phase = .selfTest ∧ 7 < 8) ∧
    (Awake (at_ (inPhase .calibrate)) ∧ (at_ (inPhase .calibrate)).m.fs.boot.phase = .calibrate ∧
      [0x1000, 0x0F00] ≠ ([] : List Nat) ∧ (∀ x ∈ [0x1000, 0x0F00], x < 2 ^ 16) ∧ 0x0F00 ∈ [0x1000, 0x0F00] ∧
      ∀ x ∈ [0x1000, 0x0F00], 0x0F00 ≤ x) ∧
    (Awake (at_ (inPhase .train)) ∧ (at_ (inPhase .train)).m.fs.boot.phase = .train ∧
      (at_ (inPhase .train)).idn.memPorts = 24 ∧ List.getD [none] 0 (some 4) = none) ∧
    Awake (at_ (inPhase .clear)) ∧ (at_ (inPhase .clear)).m.fs.boot.phase = .clear := by
  decide

/-- A fabric side in DRAIN, with a live sequence or none. -/
def draining (l : Tbl RqtEntry) : FabricSide := { inPhase .drain with rqt := l }

theorem witness_BootWritesMoveThePhase :
    (Decides (at_ (inPhase .waitStart)) ∧ (at_ (inPhase .waitStart)).clk.fsDegraded = false) ∧
    (Decides { at_ (inPhase .waitStart) with clk := { fsDegraded := true } }) ∧
    (Decides (at_ fabUp) ∧ (at_ fabUp).m.fs.boot.phase = .ready) ∧
    (Decides (at_ (draining [])) ∧ (∀ x ∈ (at_ (draining [])).m.fs.rqt, x.2.st.live = false) ∧
      (at_ (draining [])).m.fs.pools = []) ∧
    (Decides (at_ (draining [(5, seqEntry)])) ∧ ∃ x ∈ (at_ (draining [(5, seqEntry)])).m.fs.rqt, x.2.st.live = true) := by
  decide

theorem witness_ResetsAreTakenAndReleased :
    (∀ x ∈ (at_ (draining [(5, { seqEntry with ctx := 0 })])).m.fs.rqt, x.2.st.live = true → x.2.ctx = 0) ∧
    ((keyed 1).f2 = false ∧ (keyed 1).queue = [] ∧ (at_ fabUp).m.hs.up = true ∧
      (at_ fabUp).m.hs.ctxs.wf ∧ (at_ fabUp).m.hs.ctxs.get? 1 = some (keyed 1)) ∧
    (at_ fabUp { up := false }).m.hs.up = false ∧
    (at_ { boot := { up := false } }).m.fs.boot.up = false ∧ 7 < 8 ∧ 1 < 2 := by
  decide

theorem witness_DelayLineTimeIsEnteredAndLeft :
    let s := at_ fabUp
    let d : State := { s with clk := { fs := 5, fsDegraded := true, hs := 5, hsDegraded := true } }
    (s.m.fs.boot.up = true ∧ s.m.fs.boot.shutDone = false ∧ s.clk.fsDegraded = false ∧ s.m.hs.up = true ∧
      s.clk.hsDegraded = false) ∧ d.clk.fsDegraded = true ∧ d.clk.hsDegraded = true ∧ d.m.fs.boot.up = true ∧
    (at_ { inPhase .waitStart with boot := { phase := .waitStart, startAsked := true } }).m.fs.boot.startAsked = true := by
  decide

/-- Readings of the replica paths. -/
def readings : List Nat := [0x1000, 0x0E00, 0x0F00]

/-- A calibrated fabric side with a speed index. -/
def speedAt (i : Nat) : FabricSide := { fabUp with speed := { idx := i, calDone := true } }

theorem witness_ReadingsMoveTheSpeedIndex :
    (Awake (at_ (speedAt 0x0E80)) ∧ (at_ (speedAt 0x0E80)).m.fs.speed.calDone = true ∧ readings ≠ [] ∧
      (∀ x ∈ readings, x < 2 ^ 16) ∧ 0x0E00 ∈ readings ∧ (∀ x ∈ readings, 0x0E00 ≤ x) ∧ 0x0E00 < 0x0E80) ∧
    (Awake (at_ (speedAt 0x0D00)) ∧ 0x0D00 < 0x0E00 * 15 / 16) ∧
    (Awake (at_ { fabUp with speed := { underrunHold := true } })) ∧
    ((∀ x ∈ [40, 70, 60], x < 256) ∧ 70 ∈ [40, 70, 60] ∧ ∀ x ∈ [40, 70, 60], x ≤ 70) := by
  decide
/-! Reads and settings. -/

theorem witness_QueryAnswersTheEntry :
    Accepted (at_ fabSeq) 0 opQuery (send opQuery 1 0 seqH) ∧
    (start (at_ fabSeq)).resolve 1 (Work.handleOf (send opQuery 1 0 seqH)) = .entry 5 :=
  ⟨accepted_send (by decide), by decide⟩

/-- A STATS_READ of a counter of a target context. -/
def readStats (c target idx : Nat) : Packet := send opStatsRead c (bitsAt 192 idx) (BitVec.ofNat 64 target)

/-- A CFG_WRITE item. -/
def cfgItem (a d be : Nat) : List Byte := leBytes 16 (a + d * 2 ^ 32 + be * 2 ^ 64)

theorem witness_ReadsAreAnswered :
    Accepted (at_ fabUp) 3 opPing (send opPing 1) ∧
    (Accepted (at_ fabUp) 0 opStatsRead (readStats 1 1 0) ∧
      Work.targetOf (readStats 1 1 0) = 1 ∧
      statsOff 1 ((readStats 1 1 0).opf 207 192) = some (cClamp 1)) ∧
    Accepted (at_ fabUp) 0 opCfgRead (send opCfgRead 0 (bitsAt 192 rPkcClass)) ∧
    (rwWord true rPkcClass).isSome ∧ (rwWord true (rPkcClass + 4)).isSome ∧ isCounter true rPkcClass = false :=
  ⟨accepted_send (by decide), ⟨accepted_send (by decide), by decide, by decide⟩, accepted_send (by decide), by decide,
    by decide, by decide⟩

/-- A write of an engine's envelope. -/
def writeEnv (d be : Nat) : Packet := send opCfgWrite 0 (bitsAt 192 1) 0 (cfgItem (rEngEnv 1023) d be)

theorem witness_ConfigWriteSetsTheWord :
    ∃ r, (Accepted (at_ fabUp) 0 opCfgWrite (writeEnv 9000 3) ∧ cfgItems (writeEnv 9000 3) = [(rEngEnv 1023, 9000, 3)] ∧
      rwWord (at_ fabUp).idn.isM (rEngEnv 1023) = some r ∧ r.half = 0 ∧
      (r.stored (mergeBytes ((start (at_ fabUp)).reg (rEngEnv 1023)) 9000 3)).1 < 2 ^ 32) ∧
      cfgItems (writeEnv 9000 0) = [(rEngEnv 1023, 9000, 0)] ∧
      ∃ e o, regionOf (at_ fabUp).idn.isM (rEngEnv 1023) = .engine e o :=
  ⟨_, ⟨accepted_send (by decide), by decide, rfl, by decide, by decide⟩, by decide, _, _, rfl⟩

/-- ENVELOPE_SET fields: engine or pool, whether a mode is given, the target, the watts and the mode. -/
def envFields (eng setMode target watts mode : Nat) : BitVec 256 :=
  bitsAt 192 eng + bitsAt 193 setMode + bitsAt 200 target + bitsAt 216 watts + bitsAt 232 mode

theorem witness_SettingsAreSet :
    (Accepted (at_ fabPool) 0 opEnvelopeSet (send opEnvelopeSet 0 (envFields 1 0 3 9000 0)) ∧
      ((start (at_ fabPool)).engine? 3).isSome ∧ (start (at_ fabPool)).engine? 4 = none) ∧
    (Accepted (at_ fabPool) 0 opEnvelopeSet (send opEnvelopeSet 0 (envFields 0 1 0 500 2)) ∧
      ((start (at_ fabPool)).pool? 0).isSome) ∧
    Accepted (at_ fabPool) 0 opEnvelopeSet (send opEnvelopeSet 0 (envFields 0 1 0 500 3)) ∧
    Accepted (at_ fabUp) 0 opTraceSet (send opTraceSet 0 (bitsAt 192 40)) ∧
    (Accepted (at_ fabUp) 0 opCounterMode (send opCounterMode 0 (bitsAt 192 1)) ∧ (at_ fabUp).obs.ae2 = false) ∧
    Accepted (at_ fabUp) 0 opCounterMode (send opCounterMode 0) :=
  ⟨⟨accepted_send (by decide), by decide, by decide⟩, ⟨accepted_send (by decide), by decide⟩, accepted_send (by decide),
    accepted_send (by decide), ⟨accepted_send (by decide), rfl⟩, accepted_send (by decide)⟩
/-! The steward's opcodes. -/

/-- VARIANT_SET of variant 3 of slot 0 with one private range or none. -/
def setVar (enable : Nat) (ranges : List Nat) : Packet :=
  send opVariantSet 0 (bitsAt 200 3 + bitsAt 208 enable + bitsAt 224 ranges.length) 0
    (leBytes 32 6 ++ (ranges.map fun x => leBytes 8 x).flatten ++ List.replicate (ranges.length % 2 * 8) 0)

/-- Experts 1 to 5 of layer 4, and a layer that the model does not have. -/
def rangeGood : Nat := 4 + 1 * 2 ^ 16 + 5 * 2 ^ 28
def rangeBad : Nat := 5 + 1 * 2 ^ 16 + 5 * 2 ^ 28

/-- Three mask images. -/
def fabMasks : FabricSide :=
  { fabUp with masks := { images := [(7, aMask 0 false), (8, aMask 2 false), (9, aMask 1 true)] } }

theorem witness_VariantsAndStencilsAreSet :
    (Accepted (at_ fabModel) 0 opVariantSet (setVar 1 [rangeBad]) ∧ (setVar 1 [rangeBad]).opf 208 208 = 1 ∧
      (variantRanges (setVar 1 [rangeBad])).all ((start (at_ fabModel)).rangeOk 0) = false) ∧
    (Accepted (at_ fabModel) 0 opVariantSet (setVar 1 [rangeGood]) ∧
      (variantRanges (setVar 1 [rangeGood])).all ((start (at_ fabModel)).rangeOk 0) = true ∧
      (start (at_ fabModel)).variantInUse 0 3 = false ∧
      (start (at_ (fabModel (fabSeq { seqEntry with variant := 3 })))).variantInUse 0 3 = true ∧
      ((start (at_ fabModel)).variantOf 0 3).ranges = []) ∧
    (Accepted (at_ fabModel) 0 opVariantSet (setVar 0 []) ∧ (setVar 0 []).opf 208 208 = 0) ∧
    (Accepted (at_ fabMasks) 0 opStencilDrop (send opStencilDrop 0 (bitsAt 192 7)) ∧
      fabMasks.masks.images.get? 7 = some (aMask 0 false) ∧ fabMasks.masks.images.get? 8 = some (aMask 2 false) ∧
      fabMasks.masks.images.get? 9 = some (aMask 1 true)) :=
  ⟨⟨accepted_send (by decide), by decide, by decide⟩,
    ⟨accepted_send (by decide), by decide, by decide, by decide, by decide⟩, ⟨accepted_send (by decide), by decide⟩,
    accepted_send (by decide), by decide, by decide, by decide⟩

/-- MODEL_LOAD or STENCIL_LOAD fields: the slot or image, the address, the length and the check. -/
def loadFields (slot addr len crc : Nat) : BitVec 256 :=
  bitsAt 192 slot + bitsAt 224 addr + bitsAt 288 len + bitsAt 320 crc

/-- POOL_ATTACH fields: pool, type, engine and descriptor address. -/
def attachFields (pool typ e addr : Nat) : BitVec 256 :=
  bitsAt 192 pool + bitsAt 198 typ + bitsAt 200 e + bitsAt 224 addr

theorem witness_LoadsBeginTheirFetch :
    (Accepted (at_ fabUp) 0 opModelLoad (send opModelLoad 0 (loadFields 31 0x4000 100 5)) ∧ Issues (at_ fabUp) ∧
      (send opModelLoad 0 (loadFields 31 0x4000 100 5)).opf 319 288 ≠ 0 ∧
      (send opModelLoad 0 (loadFields 31 0x4000 100 5)).opf 197 197 = 0) ∧
    (Accepted (at_ fabModel) 0 opModelLoad (send opModelLoad 0 (loadFields 0 0 0 0)) ∧
      (start (at_ fabModel)).slotInUse 0 = false) ∧
    Accepted (at_ fabUp) 0 opStencilLoad (send opStencilLoad 0 (loadFields 7 0x4000 100 5) 0 (leBytes 32 2)) ∧
    (Accepted (at_ fabMasks) 0 opStencilLoad (send opStencilLoad 0 (loadFields 7 0 0 0) 0 (leBytes 32 2)) ∧
      (start (at_ fabMasks)).maskUsers 7 = 0 ∧ (start (at_ fabMasks)).maskUsers 8 ≠ 0) ∧
    (Accepted (at_ fabPool) 0 opPoolAttach (send opPoolAttach 0 (attachFields 0 2 11 0x8000)) ∧ Issues (at_ fabPool) ∧
      (start (at_ fabPool)).attachRefusal 0 2 11 = none ∧
      (start (at_ fabPool)).attachRefusal 0 2 3 = some .exists_) :=
  ⟨⟨accepted_send (by decide), by decide, by decide, by decide⟩, ⟨accepted_send (by decide), by decide⟩,
    accepted_send (by decide), ⟨accepted_send (by decide), by decide, by decide⟩, accepted_send (by decide), by decide,
    by decide, by decide⟩

/-- The 128 bytes of a good descriptor of engine 11 in pool 0, and its KV layout entry. -/
def descBytes : List Byte :=
  leBytes 128 (pack [(0, 16, 3), (16, 16, 1), (72, 8, 2), (88, 8, 2), (96, 8, 100), (128, 32, 1000), (384, 32, 65536)])

/-- A fabric side with pool 0 and KV layout entry 0 for its layout. -/
def fabLayout : FabricSide := { fabPool with cfg := [(kvlBase 0, 0x00100001), (kvlBase 0 + 0x14, 64)] }

/-- A fabric side with pool 0 whose load 4 is the given one. -/
def lateLoad (l : LoadOut) : FabricSide := { fabPool with fab := { loads := [(4, l)] } }

theorem witness_FetchesEnd_late :
    let l : LoadOut := { engine := 3, addr := 64, len := 128, issues := 1, at_ := 0, firstAt := 0, why := .descriptor 0 }
    let s := at_ (lateLoad l)
    Issues s ∧ (∀ x ∈ s.m.hs.ctxs, x.2.f2 = false) ∧ NoneLeaves s ∧ (start s).lateFetch false = some (4, l) ∧
    s.m.fs.fab.loads.get? 4 = some l ∧ l.issues < fld ((start s).reg rFabTiming) 19 16 := by
  decide +kernel

theorem witness_FetchesEnd :
    (let i := item opPoolAttach (send opPoolAttach 0 (attachFields 0 2 11 0))
      let s := at_ fabLayout (acting 0 i .descriptor)
      Decides s ∧ Issues s ∧ s.m.hs.up = true ∧ (∀ x ∈ s.m.hs.ctxs, x.2.f2 = false) ∧
      NoneLeaves s ∧ ((start s).hctx 0).acting = some (i, .descriptor) ∧
      ((start s).hctx 0).queue = [] ∧ (start s).attachRefusal 0 2 11 = none ∧
      s.m.fs.engines.get? 11 = none ∧ s.m.fs.pools.get? 0 = some aPool ∧ descBytes.length = 128 ∧
      (descFields descBytes).ok = true ∧ aPool.kvLayout = (descFields descBytes).kvLayout ∧
      aPool.vocabShards = (descFields descBytes).vocabShards ∧ aPool.kvShards = (descFields descBytes).kvShards ∧
      (start s).layoutEntry 1 = some 0 ∧ (start s).layoutOk 0 = true ∧ (start s).lateFetch false = none) ∧
    (let p := send opModelLoad 0 (loadFields 0 0 1 0x42F0E1EBA9EA3693)
      let s := at_ fabModel (acting 0 (item opModelLoad p) .image)
      Decides s ∧ ((start s).hctx 0).acting = some (item opModelLoad p, .image) ∧
      Work.imageBytesOk p [1] = true ∧ Work.imageBytesOk p [2] = false ∧ fetchedImage.parsed.ok = true ∧
      (start s).lateFetch true = none ∧
      (start s).slotInUse 0 = false ∧ (start (at_ (fabModel fabSeq))).slotInUse 0 = true) := by
  decide +kernel

/-- A TENANT_SET body: the key, SQ_DEPTH and the other settings from bit 144 on. -/
def tenantBody (key depth rest : Nat) : List Byte := leBytes 64 (key + depth * 2 ^ 128 + rest * 2 ^ 144)

/-- TENANT_SET of a target context. -/
def setTenant (c keyValid depth rest : Nat) : Packet :=
  send opTenantSet 0 (bitsAt 192 keyValid) (BitVec.ofNat 64 c) (tenantBody 99 depth rest)

theorem witness_TenantsAreSet :
    Accepted (at_ fabUp) 0 opTenantSet (setTenant 0 1 64 0) ∧ Work.targetOf (setTenant 0 1 64 0) = 0 ∧
    (Accepted (at_ fabUp) 0 opTenantSet (setTenant 1 1 5000 0) ∧
      (start (at_ fabUp)).overReserved 1 (clampTenant (tenantFields (setTenant 1 1 5000 0).body)).1 = false ∧
      ((start (at_ fabUp)).hctx 1).key ≠ none) ∧
    (Accepted (at_ fabUp) 0 opTenantSet (setTenant 255 1 64 0) ∧ ((start (at_ fabUp)).hctx 255).key = none) ∧
    Accepted (at_ fabUp) 0 opTenantSet (setTenant 1 0 64 0) ∧
    (Accepted (at_ fabUp) 0 opTenantSet (setTenant 1 0 64 (2 ^ 272 + 2 ^ 304)) ∧
      (start (at_ fabUp)).overReserved 1
        (clampTenant (tenantFields (setTenant 1 0 64 (2 ^ 272 + 2 ^ 304)).body)).1 = true) :=
  ⟨accepted_send (by decide), by decide, ⟨accepted_send (by decide), by decide +kernel, by decide⟩,
    ⟨accepted_send (by decide), by decide⟩, accepted_send (by decide), accepted_send (by decide), by decide +kernel⟩

/-- A frozen context 1. -/
def hostFrozen : HostSide := { hostUp with ctxs := [(0, keyed 0), (1, { keyed 1 with frozen := true, nextDepth := some 128 })] }

/-- Context 1 with a packet being acted on. -/
def hostBusy : HostSide := acting 1 (item opCancel (send opCancel 1 0 seqH)) (.handleCopy 0)

/-- A packet of context 0 with a target context. -/
def target (op c : Nat) : Packet := send op 0 0 (BitVec.ofNat 64 c)

theorem witness_TenantsAreThawedAndReset :
    (Accepted (at_ fabUp hostFrozen) 0 opTenantThaw (target opTenantThaw 1) ∧ Work.targetOf (target opTenantThaw 1) = 1 ∧
      ((start (at_ fabUp hostFrozen)).hctx 1).frozen = true) ∧
    (Accepted (at_ fabUp) 0 opTenantThaw (target opTenantThaw 1) ∧ ((start (at_ fabUp)).hctx 1).frozen = false) ∧
    Accepted (at_ fabUp) 0 opTenantThaw (target opTenantThaw 0) ∧
    (Accepted (at_ fabUp hostFrozen) 0 opTenantReset (target opTenantReset 1) ∧
      (start (at_ fabUp hostFrozen)).resetReady 1 = true ∧
      (∀ x ∈ (at_ fabUp hostFrozen).m.fs.rqt, x.2.ctx = 1 → x.2.st.live = false) ∧
      ∀ x ∈ (at_ fabUp hostFrozen).m.fs.handles, prefixOwner x.1 ≠ 1) ∧
    (Accepted (at_ fabUp hostBusy) 0 opTenantReset (target opTenantReset 1) ∧
      (start (at_ fabUp hostBusy)).resetReady 1 = false) ∧
    Accepted (at_ fabUp) 0 opTenantReset (target opTenantReset 0) :=
  ⟨⟨accepted_send (by decide), by decide, by decide⟩, ⟨accepted_send (by decide), by decide⟩, accepted_send (by decide),
    ⟨accepted_send (by decide), by decide, by decide, by decide⟩, ⟨accepted_send (by decide), by decide⟩,
    accepted_send (by decide)⟩
/-! Engines and handles. -/

/-- POOL_DETACH fields: pool, ALL, engine. -/
def detachPkt (pool all e : Nat) : Packet := send opPoolDetach 0 (bitsAt 192 pool + bitsAt 198 all + bitsAt 200 e)

theorem witness_EnginesAreDetached :
    (Accepted (at_ fabPool) 0 opPoolDetach (detachPkt 1 0 3) ∧ (start (at_ fabPool)).pool? 1 = none) ∧
    (Accepted (at_ (fabPool busyPool)) 0 opPoolDetach (detachPkt 0 0 3) ∧
      (start (at_ (fabPool busyPool))).engine? 3 = some (anEngine 0 0) ∧
      (∀ x ∈ (at_ (fabPool busyPool)).m.fs.engines, x.2.leaving = false) ∧
      (start (at_ (fabPool busyPool))).pool? 0 = some busyPool ∧
      (busyPool.plans.any fun pl => pl.engines.contains 3) = true) ∧
    (Accepted (at_ fabPool) 0 opPoolDetach (detachPkt 0 0 3) ∧ (start (at_ fabPool)).pool? 0 = some aPool ∧
      (aPool.plans.any fun pl => pl.engines.contains 3) = false ∧ (start (at_ fabPool)).copyingFrom 0 = false ∧
      (∀ k, k < aPool.kvShards → ∃ x ∈ (at_ fabPool).m.fs.engines,
        x.1 ≠ 3 ∧ x.2.pool = 0 ∧ x.2.frozen = false ∧ decide (x.2.desc.kvShard = k) = true) ∧
      ∀ k, k < aPool.vocabShards → ∃ x ∈ (at_ fabPool).m.fs.engines,
        x.1 ≠ 3 ∧ x.2.pool = 0 ∧ x.2.frozen = false ∧
          (decide (0 < x.2.desc.vocabShards) && x.2.desc.vocabShard = k) = true) ∧
    Accepted (at_ (fabPool busyPool)) 0 opPoolDetach (detachPkt 0 1 0) :=
  ⟨⟨accepted_send (by decide), by decide⟩,
    ⟨accepted_send (by decide), by decide, by decide, by decide, by decide⟩,
    ⟨accepted_send (by decide), by decide, by decide, by decide, by decide, by decide⟩, accepted_send (by decide)⟩

/-- A packet that names engine `e`. -/
def enginePkt (op e : Nat) : Packet := send op 0 (bitsAt 200 e)

/-- Pool 0 with engine 3 frozen. -/
def fabFrozen (q : Pool := aPool) : FabricSide :=
  { fabPool q with engines := [(3, { anEngine 0 0 with frozen := true, bad := 2 }), (5, anEngine 0 0), (6, anEngine 1 1)] }

theorem witness_EnginesAreFrozenAndThawed :
    (Accepted (at_ (fabPool busyPool)) 0 opEngineFreeze (enginePkt opEngineFreeze 3) ∧
      (start (at_ (fabPool busyPool))).engine? 3 = some (anEngine 0 0) ∧ (anEngine 0 0).frozen = false ∧
      (start (at_ (fabPool busyPool))).pool? 0 = some busyPool ∧ busyPool.exec ≠ none) ∧
    (Accepted (at_ fabFrozen) 0 opEngineFreeze (enginePkt opEngineFreeze 3) ∧
      (start (at_ fabFrozen)).engine? 3 = some { anEngine 0 0 with frozen := true, bad := 2 } ∧
      (start (at_ fabFrozen)).engine? 1000 = none) ∧
    (Accepted (at_ fabFrozen) 0 opEngineThaw (enginePkt opEngineThaw 3) ∧ Issues (at_ fabFrozen) ∧
      (start (at_ fabFrozen)).pool? 0 = some aPool) ∧
    (Accepted (at_ fabPool) 0 opEngineThaw (enginePkt opEngineThaw 3) ∧
      ∀ g, (start (at_ fabPool)).engine? 3 = some g → g.frozen = false) :=
  ⟨⟨accepted_send (by decide), by decide, by decide, by decide, by decide⟩,
    ⟨accepted_send (by decide), by decide, by decide⟩, ⟨accepted_send (by decide), by decide, by decide⟩,
    accepted_send (by decide), fun g h => by
      have e : (start (at_ fabPool)).engine? 3 = some (anEngine 0 0) := by decide
      rw [e] at h
      exact Option.some.inj h ▸ rfl⟩

/-- One that also holds a shared handle. -/
def fabShared : FabricSide :=
  { fabHandle true with handles := [(sharedH.toNat, { copy := 0, expiry := none, grants := 2 }),
                                    (ownH.toNat, { copy := 0, expiry := some 2000000 })] }

/-- SHARED_HANDLE_GRANT of a mode. -/
def sharePkt (mode : Nat) (h : DWord) : Packet :=
  send opSharedGrant 0 (bitsAt 192 mode + bitsAt 200 ownH.toNat) h (if mode = 2 then [] else leBytes 32 6)

/-- Pool 0 with the decoding sequence of 70 positions in slot 5. -/
def fabRun : FabricSide :=
  { fabPool aPool (fabSeq seqEntry { own := [1, 2], kv := 69, joined := true, items := List.replicate 64 (.tok 5)
                                     tokens := [1, 2, 3, 4, 5, 6] }) with
    ctxs := [(1, { seqs := 1, tenant := { limPark := 10, maxTtl := 1000, defTtl := 500 } })], park := { gib := 1 } }

/-- PREFIX_PUT of the sequence in slot 5. -/
def putPkt : Packet := send opPrefixPut 1 (bitsAt 192 seqH.toNat) ownH

theorem witness_HandlesComeAndGo :
    ((Accepted (at_ (fabHandle true)) 0 opSharedGrant (sharePkt 0 sharedH) ∧
        (start (at_ (fabHandle true))).sharedEncoding (sharePkt 0 sharedH) = false ∧
        (at_ (fabHandle true)).m.fs.handles.has sharedH.toNat = false ∧
        (at_ (fabHandle true)).m.fs.handles.get? ownH.toNat = some { copy := 0, expiry := some 2000000 } ∧
        (start (at_ (fabHandle true))).handleRoom sharedH.toNat = true) ∧
      (Accepted (at_ (fabHandle false)) 0 opSharedGrant (sharePkt 0 sharedH) ∧
        (at_ (fabHandle false)).m.fs.copies.get? 0 = some (aCopy false) ∧ (aCopy false).done = false) ∧
      (Accepted (at_ fabShared) 0 opSharedGrant (sharePkt 0 sharedH) ∧
        (at_ fabShared).m.fs.handles.has sharedH.toNat = true) ∧
      Accepted (at_ fabShared) 0 opSharedGrant (sharePkt 1 sharedH) ∧
      (Accepted (at_ fabShared) 0 opSharedGrant (sharePkt 1 ownH) ∧
        (start (at_ fabShared)).sharedEncoding (sharePkt 1 ownH) = true) ∧
      Accepted (at_ fabShared) 0 opSharedGrant (sharePkt 2 sharedH)) ∧
    (Accepted (at_ fabRun) 0 opPrefixPut putPkt ∧ putPkt.ctx.toNat ≠ 0 ∧ prefixOwner ownH.toNat = 1 ∧
        (start (at_ fabRun)).resolve 1 (putPkt.opf 223 192) = .entry 5 ∧ (start (at_ fabRun)).groupEn = false ∧
        (at_ fabRun).m.fs.handles.has ownH.toNat = false ∧ (start (at_ fabRun)).handleRoom ownH.toNat = true ∧
        (start (at_ fabRun)).pool? 0 = some aPool ∧
        (start (at_ fabRun)).mayCharge 1 (ceilDiv (1 * 2 * 64) 65536 + Work.listExtents 64) = true) ∧
    (Accepted (at_ (fabHandle true)) 0 opPrefixDrop (send opPrefixDrop 1 0 ownH) ∧
      (at_ (fabHandle true)).m.fs.handles.has ownH.toNat = true ∧ (at_ fabUp).m.fs.handles.has ownH.toNat = false) ∧
    Decides (at_ (fabHandle true)) ∧ Settled (at_ (fabHandle true)) :=
  ⟨⟨⟨accepted_send (by decide), by decide, by decide, by decide, by decide +kernel⟩,
      ⟨accepted_send (by decide), by decide, by decide⟩, ⟨accepted_send (by decide), by decide⟩, accepted_send (by decide),
      ⟨accepted_send (by decide), by decide⟩, accepted_send (by decide)⟩,
    ⟨accepted_send (by decide), by decide, by decide, by decide, by decide, by decide, by decide, by decide, by decide +kernel⟩,
    ⟨accepted_send (by decide), by decide, by decide⟩, by decide, by decide⟩
/-! The message gate and the horn. -/

/-- What `Arrives` asks of a packet that its opcode makes a violation. -/
theorem arrives_send {s : State} {port op c : Nat} {f : BitVec 256} {h : DWord} {b : List Byte}
    (k : fits { s with m := { s.m with fs := fabUp, hs := { s.m.hs with bootDone := true } } } port opPing (send op c f h b) =
      true) (hc : c = 0 ∨ (start s).discardsTenants = false) (hb : (BitVec.ofNat 8 c).toNat = c) :
    Arrives s port op (send op c f h b) := by
  simp only [fits, Bool.and_eq_true, Bool.or_eq_true, decide_eq_true_eq, Bool.not_eq_true', List.isEmpty_iff,
    Option.isNone_iff_eq_none] at k
  obtain ⟨⟨⟨⟨⟨⟨⟨⟨⟨⟨⟨⟨⟨⟨⟨⟨⟨⟨⟨⟨⟨k1, k2⟩, k3⟩, k4⟩, k5⟩, k6⟩, k7⟩, k8⟩, k9⟩, k10⟩, k11⟩, k12⟩, k13⟩, k14⟩, k15⟩, k16⟩, k17⟩, k18⟩,
    k19⟩, k20⟩, k21⟩, k22⟩ := k
  exact {
    port_ok := k1, up := k2, body_ok := ⟨k3, k4⟩
    auth := by
      have h := authOf_signed (start s) op
        { ctx := BitVec.ofNat 8 c, cseq := 1, tag := 7, handle := h, op := f, mac := 0, body := b } k5 k6
      intro e
      exact Auth.noConfusion (h.symm.trans e)
    taken := hc.imp_left fun e => by show (BitVec.ofNat 8 c).toNat = 0; omega
    open_ := ⟨k8, k9⟩, fresh := ⟨k10, k11⟩, idle := ⟨k15, k16⟩ }

theorem witness_ViolationsFreezeContexts :
    (Arrives (at_ fabUp) 0 0xFF (send 0xFF 1) ∧ opReserved 0xFF = true ∧ opReserved 0x0C = true ∧ opReserved 0x00 = true) ∧
    (Accepted (at_ fabUp) 0 opPrefixDrop (send opPrefixDrop 1 0 0x0200000000000001) ∧
      prefixOwner (0x0200000000000001 : DWord).toNat = 2) :=
  ⟨⟨arrives_send (by decide) (.inr (by decide)) (by decide), by decide, by decide, by decide⟩, accepted_send (by decide),
    by decide⟩

/-- A message of two bytes over the gate, with a good CRC or not. -/
def aMsg (toFabric good : Bool) : GateMsg :=
  { toFabric := toFabric, typ := 0, ctx := 1, lenOk := true, bytes := [0x12, 0x34]
    crc := crc32c [0x12, 0x34] + if good then 0 else 1 }

theorem witness_GateTrafficIsChecked :
    ((at_ fabUp).m.hs.up = true ∧ 3 < (at_ fabUp).idn.hostPorts) ∧ (at_ fabUp).m.fs.boot.up = true ∧
    gateMsgGood (aMsg true true) = true ∧ gateMsgGood (aMsg true false) = false ∧ gateMsgGood (aMsg false false) = false ∧
    (at_ fabUp).m.hs.refusedToFs < 3 ∧ 3 ≤ ({ hostUp with refusedToFs := 3, refusedToHs := 3 } : HostSide).refusedToHs ∧
    (at_ fabUp).m.fs.twin.state = .unpaired ∧
    (∀ x ∈ hostUp.ctxs, x.2.queue = [] ∧ x.2.acting = none ∧ x.2.f2 = false) ∧
    ∀ x ∈ (at_ fabUp).m.fs.rqt, x.2.st.live = true → x.2.ctx = 0 := by
  decide +kernel

/-- A host side in whose context 1 a previous key is in its grace, and context 0 is frozen. -/
def hostGrace : HostSide :=
  { hostUp with ctxs := [(0, { keyed 0 with frozen := true }), (1, { keyed 1 with prevKey := some 5, graceAt := some 0 })]
                svcKey := 77 }

theorem witness_ServicePortKeepsTheKeys :
    ((at_ fabUp hostGrace).m.hs.up = true ∧ ((start (at_ fabUp hostGrace)).hctx 1).graceAt = some 0 ∧
      (start (at_ fabUp hostGrace)).hsFired 0 hostGrace.keyGrace = true) ∧
    (((start (at_ fabUp hostGrace)).hctx 0).queue = [] ∧ ((start (at_ fabUp hostGrace)).hctx 0).frozen = true ∧
      ((start (at_ fabUp)).hctx 0).frozen = false) ∧
    (hostGrace.svcBusy = false ∧ (start (at_ fabUp)).svcReaches rTimeCfg = true ∧
      (start (at_ {})).svcReaches rTimeCfg = false ∧ (rwWord true rTimeCfg).isSome ∧ isCounter true rTimeCfg = false) ∧
    regionOf true 0x1001C = .hostInst (0x10 + 4 * 3) ∧ regionOf true rTimeCfg = .inst rTimeCfg := by
  decide +kernel

/-- A reply that waits for release on port 2, and a ring record behind it. -/
def aReply (after : OnRelease) : StreamItem :=
  { port := 2, msg := .reply { opcode := opCfgWrite, ctx := 1, cseq := 1 }, credit := true, after := after }
def aRing (need : Nat) : StreamItem :=
  { port := 2, msg := .ring { seq := 6, pos := 69, token := 3 }, need := need }

theorem witness_StreamsLeaveInOrder :
    (Settled (at_ fabUp (streamed [aReply (.graceStart 1 0), aRing 0])) ∧
      ((start (at_ fabUp (streamed [aReply (.graceStart 1 0), aRing 0]))).hctx 1).stream = aReply (.graceStart 1 0) :: [aRing 0] ∧
      ∀ m n, (aReply (.graceStart 1 0)).after ≠ .relayTaken m n) ∧
    ((start (at_ fabUp (streamed [aRing 0]))).hctx 1).stream = aRing 0 :: [] ∧
    ((at_ (pairedA)).m.fs.twin.state = .pairedA ∧
      ((start (at_ pairedA (streamed [aRing 5]))).hctx 1).stream = aRing 5 :: [] ∧
      (at_ pairedA).m.fs.twin.link.acked < (aRing 5).need) :=
  ⟨⟨by decide, by decide, fun _ _ h => OnRelease.noConfusion h⟩, by decide, by decide, by decide, by decide⟩

/-- A fabric side on which a horn stands. -/
def fabHorn (held recording : Bool) (cfg : Nat) : FabricSide :=
  { fabUp with horn := { held := held, recording := recording, cut := 3 }, cfg := [(rHornCfg, cfg)] }

theorem witness_HornsRecordEveryUnitAndEnd :
    (Accepted (at_ fabUp) 0 opHorn (send opHorn 0 (bitsAt 192 1)) ∧ (at_ fabUp).m.fs.horn.recording = false) ∧
    (Accepted (at_ (fabHorn false true 0)) 0 opHorn (send opHorn 0)) ∧
    ((at_ fabUp).m.fs.boot.up = true ∧ (start (at_ fabUp)).hornStands = false ∧
      (start (at_ (fabHorn true false 0))).hornStands = true) ∧
    (Takes (at_ (fabLink (fabHorn false false 2))) ∧ ((start (at_ (fabLink (fabHorn false false 2)))).link 1).up = true ∧
      InOrder (at_ (fabLink (fabHorn false false 2))) (nextFrame 1) ∧ InOrder (at_ fabUp) (nextFrame 0) ∧
      bit ((start (at_ (fabLink (fabHorn false false 2)))).reg rHornCfg) 1 = true ∧ (fabHorn false true 0).horn.recording = true) ∧
    (let h := acting 0 (item opHorn (send opHorn 0)) (.cut 3);
      (at_ (fabHorn false true 0) h).m.fs.horn.recording = true ∧ (∀ x ∈ h.ctxs, x.2.f2 = false) ∧
      ((start (at_ (fabHorn false true 0) h)).hctx 0).acting = some (item opHorn (send opHorn 0), .cut 3)) ∧
    (Accepted (at_ (fabHorn false false 0)) 0 opHornRelease (send opHornRelease 0) ∧
      (at_ (fabHorn true false 0)).m.fs.horn.held = true) ∧
    (let s := at_ { fabPool with horn := { held := true } };
      s.m.fs.horn.held = true ∧ (start s).takesRequests = true ∧ (start s).fsTakes = true ∧ (start s).runs = true ∧
      ({ at_ fabUp with stalled := [{ cmd := .stepCommit 0, at_ := 0 }] }).stalled ≠ []) :=
  ⟨⟨accepted_send (by decide), by decide⟩, accepted_send (by decide), by decide, by decide +kernel, by decide +kernel,
    ⟨accepted_send (by decide), by decide⟩, by decide⟩
/-! Requests and sequences under tenants' commands. -/

/-- A packet of context 1 about the sequence in slot 5. -/
def about (op : Nat) (fields : BitVec 256 := 0) (body : List Byte := []) : Packet := send op 1 fields seqH body

theorem witness_SequenceHandlesAreResolved :
    (let w := start (at_ fabSeq);
      w.resolve 1 (5 + 2 ^ 19) = .neverIssued ∧ w.resolve 1 (70 + 2 ^ 18) = .neverIssued ∧ w.resolve 1 (2 ^ 17) = .neverIssued ∧
      w.resolve 1 5 = .reissued ∧ w.resolve 2 seqH.toNat = .foreign ∧ w.resolve 0 seqH.toNat = .entry 5 ∧
      w.resolve 1 seqH.toNat = .entry 5) ∧
    (Accepted (at_ fabSeq) 0 opQuery (send opQuery 0 0 5) ∧ (start (at_ fabSeq)).resolve 0 5 = .reissued) ∧
    (Accepted (at_ fabSeq) 0 opCancel (send opCancel 1 0 70) ∧ (start (at_ fabSeq)).resolve 1 70 = .neverIssued) := by
  exact ⟨by decide +kernel, ⟨accepted_send (by decide), by decide⟩, accepted_send (by decide), by decide⟩

theorem witness_SubmitsAreDecided :
    let s := at_ serving
    let r := ((start s).requestOf 0 none (submitPkt 2 [1, 2, 3]) 100000).2.1
    Accepted s 0 opSubmit (submitPkt 2 [1, 2, 3]) ∧ (submitFields (submitPkt 2 [1, 2, 3])).form = 0 ∧
      (submitFields (submitPkt 2 [1, 2, 3])).budget = 100000 ∧ (start s).groupEn = false ∧
      (∃ ch, (start s).admissionTests r = .ok ch ∧ decide (ch.req.f.n = 2) = true) ∧ s.m.fs.retired = [] ∧
      s.m.fs.freshSlot + 2 ≤ s.idn.slots ∧
      ∃ a, (start (at_ fabUp)).admissionTests r = .error a :=
  ⟨accepted_send (by decide), by decide, by decide, by decide, ok_of (by decide +kernel), by decide, by decide,
    error_of (by decide +kernel)⟩

/-- The sequence in slot 5, in another state. -/
def fabIn (st : SeqState) (fl : RqtFlags := seqEntry.fl) (x : Seq := { credits := 4 }) : FabricSide :=
  serving (fabSeq { seqEntry with st := st, fl := fl, par := { ringDepth := 8 } } x)

theorem witness_SequencesEndPauseAndTakeCredits :
    let c := about opCancel
    let all := about opCancel (bitsAt 192 1)
    (Accepted (at_ (fabIn .decoding)) 0 opCancel c ∧ (start (at_ (fabIn .decoding))).resolve 1 (Work.handleOf c) = .entry 5 ∧
      c.opf 192 192 = 0 ∧ ((start (at_ (fabIn .decoding))).entry 5).st.live = true ∧
      ((start (at_ (fabIn .decoding))).seq 5).home = none) ∧
    (Accepted (at_ (fabIn .done)) 0 opCancel c ∧ ((start (at_ (fabIn .done))).entry 5).st.live = false) ∧
    (Accepted (at_ (fabIn .parked)) 0 opCancel all ∧ all.opf 192 192 = 1 ∧
      (start (at_ (fabIn .parked))).requestSlots 5 = [5]) ∧
    Accepted (at_ (fabIn .decoding)) 0 opPause (about opPause (bitsAt 200 60)) ∧
    Accepted (at_ (fabIn .decoding)) 0 opCredit (about opCredit (bitsAt 192 3)) :=
  ⟨⟨accepted_send (by decide), by decide, by decide, by decide, by decide⟩, ⟨accepted_send (by decide), by decide⟩,
    ⟨accepted_send (by decide), by decide, by decide⟩, accepted_send (by decide), accepted_send (by decide)⟩

/-- A request that awaits an APPEND after 64 positions. -/
def fabAwait : FabricSide :=
  serving (fabSeq { seqEntry with st := .prefilling, length := 0, emitted := 0, fl := { issued := true, bound := true, awaitAppend := true } })

/-- APPEND of three tokens at a position, and RESUME with two. -/
def appendPkt (pos last : Nat) : Packet :=
  about opAppend (bitsAt 192 3 + bitsAt 208 last + bitsAt 216 pos) (leBytes 16 (1 + 2 * 2 ^ 32 + 3 * 2 ^ 64))
def resumePkt : Packet := about opResume (bitsAt 200 2 + bitsAt 216 100000 + bitsAt 248 5) (leBytes 16 (1 + 2 * 2 ^ 32))

/-- A parked sequence of 68 positions, its copy in one extent. -/
def fabParked : FabricSide :=
  serving (fabSeq { seqEntry with st := .parked, fl := { issued := true }, length := 68, parkTtl := 50 }
    { tokens := [1, 2, 3], kv := 67 })

theorem witness_PromptsGrow :
    (Accepted (at_ fabAwait) 0 opAppend (appendPkt 64 1) ∧
      (start (at_ fabAwait)).resolve 1 (Work.handleOf (appendPkt 64 1)) = .entry 5 ∧
      (start (at_ fabAwait)).slotsWhere (fun _ y => decide (y.reqHandle = 5 + 2 ^ 18) && y.st.live) = [5] ∧
      itemsFit (appendPkt 64 1).body.length 0 3 4 = true ∧ (appendPkt 64 1).opf 236 216 = 64 ∧
      (appendPkt 65 1).opf 236 216 = 65) ∧
    (Accepted (at_ fabParked) 0 opResume resumePkt ∧ ∃ q, (start (at_ fabParked)).resumePool 5
      { tokens := [.tok 1, .tok 2], rem := 100000, maxTokens := 5, more := false } = .ok q ∧ decide (q = 0) = true) ∧
    (Accepted (at_ (fabIn .decoding)) 0 opResume resumePkt ∧
      (start (at_ (fabIn .decoding))).resumeState 5 = some (Ans.bad .notParked)) :=
  ⟨⟨accepted_send (by decide), by decide, by decide, by decide, by decide, by decide⟩,
    ⟨accepted_send (by decide), ok_of (by decide +kernel)⟩, accepted_send (by decide), by decide⟩

/-- Mask partition 2 with a request, empty or with an image. -/
def fabPart (full : Bool) : FabricSide :=
  { fabUp with masks := { parts := [(2, { pending := true })]
                          images := if full then [(7, { aMask 0 false with part := 2 })] else [] } }

theorem witness_TimersFire :
    (let s := at_ (fabSeq { seqEntry with deadline := 1000000 });
      Decides s ∧ s.m.hs.up = true ∧ ((start s).seq 5).home = none ∧ ((start s).entry 5).st.live = true ∧
      ((start s).entry 5).deadline ≤ s.clk.fs.toNat) ∧
    (Decides (at_ fabSeq) ∧ (at_ fabSeq).clk.fs.toNat < ((start (at_ fabSeq)).entry 5).deadline) ∧
    (let s := at_ { fabSeq seqEntry { stallAt := some 0 } with cfg := [(rRingCfg, 10)] };
      Decides s ∧ ((start s).entry 5).st = .decoding ∧ ((start s).seq 5).stallAt = some 0 ∧
      (start s).fired 0 ((start s).reg rRingCfg) = true ∧ (start s).fired 999999 ((start s).reg rRingCfg) = false) ∧
    ((start (at_ (fabPart false))).maskPart 2).pending = true ∧ (start (at_ (fabPart false))).partImages 2 = [] ∧
    (start (at_ (fabPart true))).partImages 2 ≠ [] := by
  decide
/-! Plans and steps. -/

/-- A pool whose next plan is composed. -/
def nextPool : Pool := { aPool with step := 6, stepNo := 6, next := some aPlan }

theorem witness_PlansAreComposed :
    (Issues (at_ (decoding)) ∧ Settled (at_ (decoding)) ∧ KeepsEngines (at_ (decoding)) 0 ∧
      (at_ (decoding)).m.fs.pools.get? 0 = some aPool ∧ aPool.next = none) ∧
    (Settled (at_ (decoding nextPool)) ∧ KeepsEngines (at_ (decoding nextPool)) 0 ∧ nextPool.next = some aPlan) ∧
    (let w := start (at_ (decoding));
      w.degradedNow 0 aPool = false ∧ fld (w.reg (rPoolEnv 0)) 15 14 = 0 ∧ (decoding).segs = [] ∧ seqEntry.st = .decoding ∧
      decSeq = { decSeq with joined := true, stallWon := false, marked := false, unbind := false, moved := false
                             left := [], follows := none, park := none } ∧
      decSeq.kv + 1 = seqEntry.length ∧ ceilDiv (seqEntry.length + 0) (w.pagePos 0) ≤ w.listLen 5 ∧
      w.draftOf ((w.modesNow.find? (·.model = 0)).getD { model := 0, sample := 0, draft := 0, route := 0 }) 5 = 0 ∧
      w.fits { w.emptyPlan 0 aPool 1 with entries := [w.mkEntry 5 69 1 0 .decode] } = true) := by
  decide +kernel

/-- Its step with the header stored, acknowledged by all engines but 3, or by some. -/
def storedStep (acked : Tbl Nat) : Step := { plan := aPlan, acked := acked }
def ackedBut3 : Tbl Nat := [(5, 999000), (6, 999000), (9, 999000)]

theorem witness_PlansAreDelivered :
    (let s := at_ (decoding nextPool);
      Issues s ∧ s.m.fs.pools.get? 0 = some nextPool ∧ aPlan.entries.filterMap (start s).fixEntry ≠ [] ∧
      (aPlan.engines.filter fun e => match s.m.fs.engines.get? e with | some g => !g.frozen | none => false) ≠ [] ∧
      bit ((start s).reg rFabCfg) 16 = false ∧ s.m.fs.twin.state ≠ .pairedA) ∧
    ((at_ (decoding busyPool)).m.fs.pools.get? 0 = some busyPool ∧ busyPool.exec ≠ none) ∧
    (Decides (at_ (decoding { busyPool with exec := some (storedStep []) })) ∧
      (storedStep []).acked.get? 3 = none ∧ (storedStep []).allDone = false ∧ (storedStep ackedBut3).allDone = false ∧
      AckInTime (at_ (decoding { busyPool with exec := some (storedStep []) })) 3 .plan ∧ (∃ x ∈ aPlan.engines, x ≠ 3 ∧ (storedStep []).acked.get? x = none)) ∧
    ((∀ x ∈ aPlan.engines, x = 3 ∨ (storedStep ackedBut3).acked.get? x ≠ none) ∧
      (storedStep ackedBut3).acked.get? 3 = none ∧ aPlan.entries.length = 1 ∧
      (start (at_ (decoding aPool { seqEntry with st := .queued }))).entry 5 = { seqEntry with st := .queued }) ∧
    (Decides (at_ (decoding { aPool with trimDue := true })) ∧
      (at_ (decoding { aPool with trimDue := true })).m.fs.pools.get? 0 = some { aPool with trimDue := true } ∧
      aPool.trimDue = false) ∧
    nextPool.interp = none ∧ nextPool.paceUntil = none ∧ nextPool.trimDue = false ∧ aPlan.envMode ≠ 2 ∧
      aPlan.interposed = false := by
  decide

/-- A pool whose yield stands as given. -/
def yieldPool (y : Yield) (heldAt : Option Nat := none) : Pool :=
  { busyPool with next := some { aPlan with step := 8 }, interp := some { aPlan with interposed := true }, yield := y
                  exec := some { aStep with heldAt := heldAt } }

/-- A pool that may interpose. -/
def interPool : Pool := { busyPool with next := some { aPlan with step := 8 } }

/-- An LC sequence of 64 prompt tokens, queued in slot 7 for that pool, whose deadline plan k+1 would miss. -/
def lcJoiner : FabricSide :=
  { serving (decoding interPool) with
    pools := [(0, interPool)]
    cfg := [(rSched 0, 0xFFFFFFFF)]
    rqt := [(5, seqEntry), (7, { seqEntry with
      st := .queued, reqHandle := 7 + 2 ^ 18, fl := { issued := true, lc := true }, length := 0, emitted := 0, deadline := 1100000 })]
    seqs := [(5, decSeq), (7, { assigned := some 0, items := List.replicate 64 (.tok 3) })] }

/-- It is interposed into the executing step. -/
theorem witness_interposition :
    let w := start (at_ lcJoiner)
    Issues (at_ lcJoiner) ∧ w.mayInterpose 0 interPool aStep = true ∧ w.interposable 0 = [7] ∧
      ((w.phase1 0).refollow.interposition 0 interPool aStep { aPlan with step := 8 }).isSome = true := by
  decide +kernel

theorem witness_StepsYieldAndResume :
    (Issues (at_ (decoding interPool)) ∧ (at_ (decoding interPool)).m.fs.pools.get? 0 = some interPool ∧
      interPool.exec = some aStep ∧ interPool.interp = none ∧ interPool.yield = .none) ∧
    busyPool.next = none ∧
    (Decides (at_ (decoding (yieldPool (.asked [3, 5])))) ∧
      (at_ (decoding (yieldPool (.asked [3, 5])))).m.fs.pools.get? 0 = some (yieldPool (.asked [3, 5])) ∧
      AckInTime (at_ (decoding (yieldPool (.asked [3, 5])))) 3 .mailbox ∧
      [3].all (· = 3) = true ∧ (∃ x ∈ [3, 5], x ≠ 3)) ∧
    ((at_ (decoding (yieldPool (.resuming [3]) (some 5)))).m.fs.pools.get? 0 = some (yieldPool (.resuming [3]) (some 5)) ∧
      (yieldPool (.resuming [3]) (some 5)).exec = some { aStep with heldAt := some 5 }) ∧
    ((start (at_ (decoding (yieldPool (.timing 0))))).fired 0 100 = true ∧
      (start (at_ (decoding (yieldPool (.timing 999999))))).fired 999999 100 = false) := by
  decide

theorem witness_CompletionsAreTaken :
    (RecordArrives (at_ (decoding busyPool)) 3 (ringAddr 3 ringCompletion) (anEngine 0 0) busyPool ringCompletion ∧
      Settled (at_ (decoding busyPool)) ∧ aPlan.engines.contains 3 = true ∧
      (∃ x ∈ aPlan.engines, x ≠ 3 ∧ aStep.done.contains x = false) ∧ aStep.done.contains 3 = false ∧
      ({ aStep with done := [3] } : Step).done.contains 3 = true ∧ Work.yieldPending busyPool = false ∧
      Work.yieldPending (yieldPool (.timing 0)) = true ∧ aStep.decided = false ∧ busyPool.epoch ≤ aDone.epoch ∧
      (let w := start (at_ (decoding busyPool));
        w.overdue (w.completionTimer 3) = false ∧ w.overdue (w.yieldTimer 0) = false ∧
        w.overdue (some (1000, 1000)) = true)) ∧
    (let w := start (at_ (decoding { busyPool with exec := some { aStep with acked := [(3, 1000)] } }));
      w.completionTimer 3 = some (1000, 1000)) ∧
    (aStep.allDone = false ∧ (aDone 1 0).epoch < busyPool.epoch) ∧
    (Attached (at_ (decoding busyPool)) 3 (anEngine 0 0) busyPool ∧ aStep.acked.get? 3 = some 999000 ∧
      (start (at_ (decoding busyPool))).fired 0 1000 = true ∧
      (start (at_ (decoding busyPool))).fired 999999 1000 = false) :=
  ⟨⟨arrives_record (by decide) (by decide) (by decide) (by decide) (by decide), by decide⟩, by decide, by decide,
    ⟨by decide, by decide, by decide⟩, by decide⟩

/-- The step with all completions in, and its one entry appended. -/
def doneStep : Step := { aStep with done := [3, 5, 6, 9], appended := [5] }
def donePool : Pool := { busyPool with exec := some doneStep }

/-- The step held, an interposed one done in its place. -/
def heldPool : Pool :=
  { busyPool with exec := some { doneStep with plan := { aPlan with interposed := true, entries := [] } }, held := some aStep }

/-- The step failed. -/
def failedPool : Pool := { busyPool with exec := some { aStep with failed := some 2 } }

theorem witness_StepsCommitOrFail :
    (let s := at_ (decoding donePool);
      Decides s ∧ Settled s ∧ KeepsEngines s 0 ∧ s.m.fs.pools.get? 0 = some donePool ∧ doneStep.allDone = true ∧
      (start s).appendsDue 0 doneStep = [] ∧ donePool.interp = none ∧ donePool.held = none ∧ heldPool.held = some aStep) ∧
    aStep.allDone = false ∧
    (Decides (at_ (decoding failedPool)) ∧ Settled (at_ (decoding failedPool)) ∧ KeepsEngines (at_ (decoding failedPool)) 0 ∧
      failedPool.exec = some { aStep with failed := some 2 } ∧ failedPool.degraded = false) ∧
    (∀ st, busyPool.exec = some st ∨ busyPool.held = some st → st.failed = none) :=
  ⟨by decide +kernel, by decide, by decide, fun st h => by rcases h with h | h <;> cases h; rfl⟩
/-! Routing, sampling and appending. -/

/-- The plan with a route segment of layer 4, and its step on pool 0. -/
def routePlan : Plan := { aPlan with
  modes := [{ model := 0, sample := 0, draft := 0, route := 0, descs := anImage.routes }]
  segs := [{ layer := 4, operator := 3, model := 0, mb := 0, skind := 1, offset := 0, dur := 10 }] }
/-- Pool 0 executing it. -/
def routePool : Pool := { busyPool with exec := some { aStep with plan := routePlan } }

/-- A part with the candidates of the step's one token. -/
def aPart (epoch : Nat := 1) : RouterPart :=
  { step := 7, epoch := epoch, pool := 0, model := 0, mb := 0, interposed := false, layer := 4, first := 0, count := 1, tokens := 1
    retAddr := 0x90000, retBytes := 0x10000
    records := [[{ expert := 3, valid := true, score := 0x3F80 }, { expert := 9, valid := true, score := 0x4000 }]] }

/-- A route set of that step that is being answered by some engines. -/
def aSet (l : List Nat) : RouteSet :=
  { step := 7, interposed := false, model := 0, mb := 0, layer := 4, retAddr := 0x90000, retBytes := 0x10000, got := [(0, [])]
    answering := some l }
def fabSet (l : List Nat) : FabricSide := { decoding routePool with units := { pools := [(0, { sets := [aSet l] })] } }

theorem witness_RouterPartsAreTaken :
    (RecordArrives (at_ (decoding routePool)) 3 (ringAddr 3 ringRouter) (anEngine 0 0) routePool ringRouter ∧
      64 * (1 + ceilDiv (32 * aPart.count) 64) ≤ ringRouter.m ∧ routePool.epoch ≤ aPart.epoch ∧
      (start (at_ (decoding routePool))).stepNamed 0 7 false = some { aStep with plan := routePlan } ∧
      (start (at_ (decoding routePool))).routerMalformed 0 routePlan aPart = false ∧ aPart.records.length = aPart.count ∧
      ((start (at_ (decoding routePool))).unit 0).sets = [] ∧
      ((start (at_ (decoding routePool))).unit 0).heldParts = []) ∧
    (aPart 0).epoch < routePool.epoch ∧
    (Serves (at_ (decoding routePool)) ∧ Settled (at_ (decoding routePool)) ∧ Work.ringNext (anEngine 0 0) 7 = none ∧ (start (at_ (decoding routePool))).blockAddr 3 ≤ ringAddr 3 ringRouter + 64 ∧
      ringAddr 3 ringRouter + 64 + 2 ≤ (start (at_ (decoding routePool))).blockAddr 3 + 0x200000) ∧
    (Decides (at_ (fabSet [3, 5])) ∧ ((start (at_ (fabSet [3, 5]))).unit 0).sets[0]? = some (aSet [3, 5]) ∧
      ((start (at_ (fabSet [3]))).unit 0).heldParts = [] ∧ AckInTime (at_ (fabSet [3])) 3 .route) ∧
    (RecordArrives (at_ (decoding routePool)) 3 (ringAddr 3 ringEnergy) (anEngine 0 0) routePool ringEnergy ∧
      (leBytes 64 0).length = 64) :=
  ⟨⟨arrives_record (by decide) (by decide) (by decide) (by decide) (by decide), by decide, by decide, by decide,
      by decide +kernel, by decide, by decide, by decide⟩, by decide, by decide, by decide,
    arrives_record (by decide) (by decide) (by decide) (by decide) (by decide), by decide⟩

/-- A sketch part of a shard, for the plan's one position. -/
def aSketch (shard : Nat) (epoch : Nat := 1) : SketchPart :=
  { step := 7, epoch := epoch, pool := 0, interposed := false, pkind := 0, seq := 5 + 2 ^ 18, index := 0, shard := shard
    shards := 2, format := 0, addr := 0x8000, entries := [(3 + 500 * shard, 0x40000000), (4 + 500 * shard, 0x3F800000)] }

/-- Positions of sketches taken. -/
def aSkPart (shard : Nat) : SkPart := { shard := shard, cands := [], lse := 0xFF800000, addr := 0x8000, fullFormat := 0, engine := 3 }
def fabSketch (shards : List Nat) (q : Pool := busyPool) : FabricSide :=
  { decoding q with
    units := { pools := [(0, { sketches := [{ seq := 5 + 2 ^ 18, index := 0, interposed := false, parts := shards.map aSkPart }] })] } }

/-- The step of a plan that asks for two drafts, and their list. -/
def draftPlan : Plan :=
  { aPlan with entries := aPlan.entries.map fun x => { x with draft := 2, npos := 3 } }
def draftPool : Pool := { busyPool with exec := some { aStep with plan := draftPlan } }
def aList (epoch : Nat := 1) : DraftList := { step := 7, epoch := epoch, pool := 0, seq := 5 + 2 ^ 18, nodes := [(8, 0), (9, 1)] }

/-- Its bytes, by the tables of R507 and R508: STEP, EPOCH, POOL, SEQ, NODES; node 2 has PARENT 1. -/
def listBytes (epoch : Nat := 1) : List Byte :=
  leBytes 64 (7 + epoch * 2 ^ 64 + (5 + 2 ^ 18) * 2 ^ 112 + 2 * 2 ^ 144) ++ leBytes 4 8 ++ leBytes 4 (9 + 2 ^ 20)

theorem test_draft_list : draftListOf listBytes = aList := by decide +kernel

theorem witness_SketchPartsAndDraftListsAreTaken :
    (RecordArrives (at_ (decoding busyPool)) 3 (ringAddr 3 ringSketch) (anEngine 0 0) busyPool ringSketch ∧
      Settled (at_ (decoding busyPool)) ∧ 64 * (1 + ceilDiv (8 * (aSketch 1).entries.length) 64) ≤ ringSketch.m ∧
      busyPool.epoch ≤ (aSketch 1).epoch ∧ (start (at_ (decoding busyPool))).stepNamed 0 7 false = some aStep ∧
      (start (at_ (decoding busyPool))).partMalformed 0 busyPool aPlan (aSketch 1) = false ∧
      (start (at_ (decoding busyPool))).partTaken 0 (aSketch 1) = false ∧
      (start (at_ (fabSketch [1]))).partTaken 0 (aSketch 1) = true ∧ (aSketch 1 0).epoch < busyPool.epoch) ∧
    (RecordArrives (at_ (decoding draftPool)) 3 (ringAddr 3 ringDraft) (anEngine 0 0) draftPool ringDraft ∧
      64 * (1 + ceilDiv (4 * aList.nodes.length) 64) ≤ ringDraft.m ∧
      (start (at_ (decoding draftPool))).stepNamed 0 7 false = some { aStep with plan := draftPlan } ∧
      Work.listMalformed 0 draftPlan aList = false ∧ ((start (at_ (decoding draftPool))).unit 0).drafts = []) :=
  ⟨⟨arrives_record (by decide) (by decide) (by decide) (by decide) (by decide), by decide, by decide, by decide, by decide,
      by decide +kernel, by decide, by decide, by decide⟩,
    arrives_record (by decide) (by decide) (by decide) (by decide) (by decide), by decide, by decide, by decide, by decide⟩

/-- The step with all completions in, and the sequence's group of one token. -/
def sampledPool : Pool := { busyPool with exec := some { aStep with done := [3, 5, 6, 9] } }
def aToken : OutTok := { token := 7, logprob := 0, pos := 70 }
def aGroup : Group := { toks := [aToken], newLength := 71 }
def sampled (e : RqtEntry := seqEntry) : FabricSide := decoding sampledPool e { decSeq with group := some aGroup }

theorem witness_TokensAreAppended :
    let w := start (at_ sampled)
    Decides (at_ sampled) ∧ (w.groupOf 5).map (·.1) = some 0 ∧ (w.groupOf 5).map (·.2.1) = sampledPool.exec ∧
      (w.groupOf 5).map (·.2.2.draft) = some 0 ∧ sampled.pools.get? 0 = some sampledPool ∧ (w.seq 5).group = some aGroup ∧
      (w.entry 5).fl.stencilEn = false ∧ w.isEnd (w.entry 5) 7 = false ∧ hasCounts (w.entry 5) = false ∧ 2 ≤ (w.seq 5).credits ∧
      (w.seq 5).replay = none ∧ w.reg (rDlmCfg 1) = 0 ∧
      ((start (at_ (sampled { seqEntry with st := .done }))).entry 5).st.live = false := by
  decide

/-- A deep fetch of both shards of the plan's position; the load of shard 1 is outstanding. -/
def fabDeep (q : Pool := sampledPool) (at_ : Nat := 0) : FabricSide :=
  let x : SketchPos := { seq := 5 + 2 ^ 18, index := 0, interposed := false, parts := [aSkPart 0, aSkPart 1] }
  { decoding q with
    units := { pools := [(0, {
      sketches := [x], samples := [{ slot := 5, interposed := false, g := 1, draws := [{ index := 0, deep := some { cause := 1, shards := [0, 1] } }] }] })] }
    fab := { loads := [(1, { engine := 3, addr := 0x8000, len := 64, issues := 1, at_ := at_, firstAt := at_
                             why := .deep 0 7 (5 + 2 ^ 18) 0 1 })] } }

theorem witness_DeepFetchesAreAnswered :
    let w := start (at_ fabDeep)
    (Decides (at_ fabDeep) ∧ (w.deepLoad (5 + 2 ^ 18) 0 1).map (·.2.2) = some (0, 7) ∧
      (∀ q, (fabDeep aPool).pools.get? 0 = some q → q.exec = none)) ∧
    (seqHandle 5 (w.entry 5) = 5 + 2 ^ 18 ∧ (w.entryFor 0 aPlan 5).isSome ∧ w.deepOf 0 aPlan 5 0 = some { cause := 1, shards := [0, 1] } ∧
      (aPlan.entries.all fun pe => (w.sketchAt 0 aPlan pe 0).isSome) ∧ ∃ h ∈ [0, 1], h ≠ 1) ∧
    (Settled (at_ fabDeep) ∧ Attached (at_ fabDeep) 3 (anEngine 0 0) sampledPool ∧ w.fired 0 1000 = true ∧
      w.fired 999999 1000 = false) :=
  ⟨⟨by decide, by decide, fun q h => by cases h; rfl⟩, by decide, by decide, ⟨by decide, by decide, by decide⟩, by decide⟩
/-! Energy reports and park copies. -/

/-- Pool 0 with a step that awaits reports of two engines. -/
def aWait (at_ : Nat) : EnergyWait :=
  { step := 6, epoch := 1, interposed := false, planned := [(3, 40), (5, 40)], at_ := at_, failed := true, shares := [] }
def waitPool (at_ : Nat) : Pool := { aPool with step := 6, stepNo := 6, closing := [aWait at_] }

/-- The bytes of a report of engine 3: STEP 6, POOL 0, ENERGY 77 (R639). -/
def aReport (epoch : Nat := 1) : List Byte := leBytes 32 (pack [(0, 64, 6), (64, 32, epoch), (112, 10, 3), (128, 32, 77)])

theorem witness_EnergyReportsAreAwaited :
    (RecordArrives (at_ (decoding (waitPool 0))) 3 (ringAddr 3 ringEnergy) (anEngine 0 0) (waitPool 0) ringEnergy ∧
      (waitPool 0).epoch ≤ (energyReportOf aReport).epoch ∧
      ((waitPool 0).closing.find? fun x => x.step = 6 && x.interposed = false) = some (aWait 0) ∧
      ((aWait 0).planned.map (·.1)) = [3, 5] ∧ (aWait 0).reported = [] ∧ (energyReportOf (aReport 0)).epoch < (waitPool 0).epoch) ∧
    Decides (at_ (decoding (waitPool 0))) ∧ (decoding (waitPool 0)).pools.get? 0 = some (waitPool 0) ∧
    (start (at_ (decoding (waitPool 0)))).fired 0 ((start (at_ (decoding (waitPool 0)))).reg rAcuCfg) = true ∧
    (∀ x ∈ (waitPool 0).closing, x.failed = true) ∧
    (let s := at_ (decoding (waitPool 999999));
      RecordArrives s 3 (ringAddr 3 ringEnergy) (anEngine 0 0) (waitPool 999999) ringEnergy ∧
      (start s).lapsed 999999 ((start s).reg rAcuCfg) = false) :=
  ⟨⟨arrives_record (by decide) (by decide) (by decide) (by decide) (by decide), by decide, by decide, by decide, by decide,
    by decide⟩, by decide, by decide, by decide, by decide,
    arrives_record (by decide) (by decide) (by decide) (by decide) (by decide), by decide⟩

/-- A keep-list of engine 3 for slot 5. -/
def aKeep (num : Nat := 4) : KeepList := { seq := 5 + 2 ^ 18, num := num, ranges := [(2, 10), (60, 9)] }

theorem witness_KeepListsChoosePositions :
    (Decides (at_ (parked (aRec (.keepList 3 4 none)))) ∧ AckInTime (at_ (parked (aRec (.keepList 3 4 none)))) 3 .keep ∧
      ((parked (aRec (.keepList 3 4 none))).seqs.map fun x => x.2.park) = [some (aRec (.keepList 3 4 none))] ∧
      aRec .copying = { aRec .copying with copy := .copying }) ∧
    (((start (at_ (parked (aRec (.keepList 3 4 (some 0)))))).seq 5).park = some (aRec (.keepList 3 4 (some 0))) ∧
      (parked (aRec (.keepList 3 4 (some 0)))).engines.get? 3 = some (anEngine 0 0) ∧
      (start (at_ (parked (aRec (.keepList 3 4 (some 0)))))).fired 0 1000 = true ∧
      (start (at_ (parked (aRec (.keepList 3 4 (some 999999)))))).fired 999999 1000 = false) ∧
    (let s := at_ (parked (aRec (.keepList 3 4 (some 999999))));
      RecordArrives s 3 (ringAddr 3 ringKeep) (anEngine 0 0) parkPool ringKeep ∧
      64 * (1 + ceilDiv (8 * aKeep.ranges.length) 64) ≤ ringKeep.m ∧
      (start s).keepWaiting 3 aKeep = some (5, aRec (.keepList 3 4 (some 999999))) ∧
      (start s).lapsed 999999 1000 = false ∧
      Work.rangesOk 69 0 aKeep.ranges = true ∧ (start s).keepWaiting 3 (aKeep 3) = none) ∧
    (start (at_ (parked (aRec (.keepList 3 4 (some 0)))))).keepWaiting 3 aKeep = some (5, aRec (.keepList 3 4 (some 0))) ∧
    (start (at_ (parked (aRec (.keepList 3 4 (some 0)))))).lapsed 0 1000 = true ∧
    (anEngine 0 0).bad + 1 ≤ (anEngine 0 0).desc.discardLimit :=
  ⟨by decide, by decide, ⟨arrives_record (by decide) (by decide) (by decide) (by decide) (by decide), by decide, by decide,
    by decide, by decide, by decide⟩, by decide, by decide, by decide⟩

theorem witness_ParkCopiesAreWritten :
    (let s := at_ (parked (aRec .copying));
      Decides s ∧ Settled s ∧ s.m.fs.twin.state = .unpaired ∧ ((start s).seq 5).park = some (aRec .copying) ∧
      (aRec .copying).away = none ∧ s.m.fs.pools.get? 0 = some parkPool ∧ KeepsEngines s 0) ∧
    (∀ r, ((start (at_ (parked (aRec .done)))).seq 5).park = some r →
      r.copy ≠ .copying ∧ KeepsEngines (at_ (parked (aRec .done))) r.pool) ∧
    (let s := at_ (parked (aRec .waitSpace));
      ((start s).seq 5).park = some (aRec .waitSpace) ∧ (aRec .waitSpace).entries ≠ [] ∧
      (start s).mayCharge 1 (ceilDiv (recordSize parkPool (aRec .waitSpace)) 65536) = true) ∧
    (let r := { aRec .waitSpace with waited := true }; let s := at_ (parked r {});
      ((start s).seq 5).park = some r ∧ r.condensed = true ∧ r.waited = true ∧
      (start s).mayCharge 1 (ceilDiv (recordSize parkPool r) 65536) = false ∧ bit ((start s).reg rGroupCfg) 0 = false) ∧
    ∀ r, ((start (at_ (parked (aRec .done)))).seq 5).park = some r → r.copy ≠ .waitSpace :=
  ⟨by decide, fun r h => by cases h; decide, by decide, by decide, fun r h => by cases h; decide⟩

/-- A restore onto pool 0 that is being stored. -/
def storing : FabricSide := parked { aRec .done with restore := .storing 0, extents := [0], bytes := [1, 2, 3] }

/-- Pool 0 with a placement of a handle's copy, for which slot 5 waits. -/
def aSeg (placing : Bool) : Seg := { pool := 0, copy := some 0, pages := [3], placing := placing }
def fabPlacing : FabricSide :=
  { fabPool aPool (fabSeq seqEntry { decSeq with placing := some 2 }) with
    handles := [(ownH.toNat, { copy := 0, expiry := some 2000000 })], copies := [(0, aCopy true)], nextCopy := 1
    segs := [(2, aSeg true)], nextSeg := 3 }

theorem witness_CopiesAndRestoresFinish :
    (Decides (at_ storing) ∧ (((start (at_ storing)).seq 5).park).map (·.restore) = some (.storing 0) ∧
      storing.park.lost = []) ∧
    (Decides (at_ fabPlacing) ∧ fabPlacing.handles.get? ownH.toNat = some { copy := 0, expiry := some 2000000 } ∧
      fabPlacing.copies.get? 0 = some (aCopy true) ∧
      (fabPlacing.segs.find fun _ z => z.copy = some 0 && z.pool = 0 && z.placing) = some (2, aSeg true) ∧
      fabPlacing.park.lost = []) ∧
    (Decides (at_ (fabHandle false)) ∧ Settled (at_ (fabHandle false)) ∧
      ((fabHandle false).copies.find fun _ z => z.handle = ownH.toNat && !z.done && z.mirrorAt.isNone) = some (0, aCopy false) ∧
      (start (at_ (fabHandle false))).copyNamed 0 = true) ∧
    (let s := at_ (parked (aRec .done));
      ((start s).seq 5).park = some (aRec .done) ∧ (aRec .done).resumed = false ∧ ((start s).seq 5).home = none ∧
      (start s).fired 0 50 = true ∧ (start (at_ (parked (aRec .done) {} 1000000))).fired 0 1000000 = false) := by
  decide
/-! The fabric, the memory ports and the observation unit. -/

/-- Pool 0 executing a step, engine 3 frozen. -/
def fabFrozen3 : FabricSide :=
  { decoding busyPool with engines := (decoding busyPool).engines.set 3 { anEngine 0 0 with frozen := true } }

theorem witness_EngineWritesAreChecked :
    Serves (at_ (decoding busyPool)) ∧ Settled (at_ (decoding busyPool)) ∧
    (decoding busyPool).engines.get? 4 = none ∧
    (∃ r, Instr.completionDone 3 0 (aDone 1 1) = .completionDone 3 0 r) ∧
    fabFrozen3.engines.get? 3 = some { anEngine 0 0 with frozen := true } ∧ Serves (at_ fabFrozen3) ∧
    Settled (at_ fabFrozen3) ∧ Attached (at_ (decoding busyPool)) 3 (anEngine 0 0) busyPool ∧ busyPool.exec ≠ none ∧
    (start (at_ (decoding busyPool))).ownWindow 3 0 0 64 = false ∧
    (start (at_ (decoding busyPool))).ownWindow 3 0 (ringAddr 3 ringCompletion - 64) 64 = false ∧
    (start (at_ (decoding busyPool))).ownWindow 3 0 (ringAddr 3 ringCompletion) 64 = true :=
  ⟨by decide, by decide, by decide, ⟨_, rfl⟩, by decide, by decide, by decide, ⟨by decide, by decide, by decide⟩, by decide,
    by decide, by decide, by decide⟩

/-- Addresses of a word of pool 0's reduction window and of its atomic window. -/
def redAt (k : Nat) : Nat := (start (at_ fabPool)).redAddr 0 + 8 * k
def atomAt (k : Nat) : Nat := (start (at_ fabPool)).atomAddr 0 + 8 * k

/-- Pool 0 with words in its windows, and engine 3's atomic window. -/
def wordPool : Pool := { aPool with redWin := [(1, 5), (2, -3)], atomWin := [(1, 7)] }
def fabWindow (h : Nat) : FabricSide :=
  { fabPool wordPool with fab := { windows := [(3, { h := h, results := [(h, 7)] })] } }

theorem witness_ReductionsAndAtomicsAct :
    (Serves (at_ (fabWindow 9)) ∧ Attached (at_ (fabWindow 9)) 3 (anEngine 0 0) wordPool ∧ redAt 2 % 8 = 0 ∧
      (start (at_ (fabWindow 9))).redAddr 0 ≤ redAt 8191 ∧
      redAt 8191 + 8 ≤ (start (at_ (fabWindow 9))).redAddr 0 + 0x10000 ∧ 2 ^ 64 ≤ (wordPool.redWin.getD 2 0).toNat + 3) ∧
    (atomAt 511 % 8 = 0 ∧ (start (at_ (fabWindow 9))).atomAddr 0 ≤ atomAt 511 ∧
      atomAt 511 + 8 ≤ (start (at_ (fabWindow 9))).atomAddr 0 + 0x1000 ∧
      10 = (((fabWindow 9).fab.windows.getD 3 {}).h + 1) % 2 ^ 32 ∧ 0 = (((fabWindow (2 ^ 32 - 1)).fab.windows.getD 3 {}).h + 1) % 2 ^ 32 ∧
      9 ≤ ((fabWindow 9).fab.windows.getD 3 {}).h ∧ 1 + 1024 ≤ ((fabWindow 1025).fab.windows.getD 3 {}).h) ∧
    (fabWindow 9).engines.get? 3 = some (anEngine 0 0) :=
  ⟨⟨by decide, ⟨by decide, by decide, by decide⟩, by decide +kernel, by decide +kernel, by decide +kernel, by decide +kernel⟩,
    by decide +kernel, by decide⟩

/-- A load outstanding since a count. -/
def fabLoad (at_ : Nat) (issues : Nat := 1) : FabricSide :=
  { decoding busyPool with fab := { loads := [(1, { engine := 3, addr := 0x8000, len := 64, issues := issues, at_ := at_, firstAt := at_
                                                    why := .park 5 })] } }

/-- Engine 3 owes the acknowledgement of a store. -/
def owed (since : Nat) : Engine := { anEngine 0 0 with stores := [{ why := .plan, at_ := since }] }
def owing (since : Nat) : FabricSide := let f := decoding busyPool; { f with engines := f.engines.set 3 (owed since) }

theorem witness_UnansweredRequestsTimeOut :
    (Issues (at_ (fabLoad 0)) ∧ Settled (at_ (fabLoad 0)) ∧ ((fabLoad 0).fab.loads.get? 1).isSome ∧
      (start (at_ (fabLoad 0))).fired 0 (fld ((start (at_ (fabLoad 0))).reg rFabTiming) 15 0) = true ∧
      1 < fld ((start (at_ (fabLoad 0))).reg rFabTiming) 19 16) ∧
    (Decides (at_ (fabLoad 999999)) ∧ Settled (at_ (fabLoad 999999)) ∧
      (start (at_ (fabLoad 999999))).fired 999999 (fld ((start (at_ (fabLoad 0))).reg rFabTiming) 15 0) = false) ∧
    (Attached (at_ (owing 0)) 3 (owed 0) busyPool ∧ busyPool.exec ≠ none ∧
      (start (at_ (owing 0))).fired 0 (fld ((start (at_ (owing 0))).reg rFabTiming) 15 0) = true ∧ (owed 0).stores ≠ [] ∧
      (anEngine 0 0).stores = []) :=
  ⟨by decide, by decide, ⟨by decide, by decide, by decide⟩, by decide⟩

/-- Memory port 2, trained, with a block in retry or not. -/
def fabMem (retries : List MemRetry) (last : Nat := 0) (badRow : Nat := 0) : FabricSide :=
  { fabUp with memPorts := [(2, { trained := true, retries := retries, lastTrain := last, badRow := badRow })], park := { gib := 1 } }
def aBlock : List Byte := List.replicate 256 0x5A
def memAddr : Nat := (start (at_ (fabMem []))).extentBase + 65536 + 256

theorem witness_MemoryPortsAreServed :
    let s := at_ (fabMem [])
    (2 < s.idn.memPorts ∧ s.m.fs.horn.held = false ∧ s.stalled = [] ∧ s.m.fs.boot.up = true ∧ s.m.fs.boot.shutDone = false ∧ s.m.fs.twin.state ≠ .detached ∧
      (s.m.fs.memPorts.getD 2 {}).trained = true ∧ (s.m.fs.memPorts.getD 2 {}).failed = false ∧
      (start (at_ { fabMem [] with cfg := [(rMemRetrain, 10)] })).fired 0 10 = true ∧
      (start s).fired 1000000 ((start s).reg rMemRetrain) = false) ∧
    (memAddr % 256 = 0 ∧ memAddr < (start s).dataRegion ∧ aBlock.length = 256 ∧ (s.m.fs.memPorts.getD 2 {}).retries = [] ∧
      0 < fld ((start s).reg rMemCfg) 10 8 ∧ fld ((start s).reg rMemCfg) 10 8 ≤ 7) ∧
    (∀ x : Word, x + 1 ≠ x) ∧
    ((start s).heldAt 2 memAddr = .extent (s.idn.memPorts + 2) ∧ s.m.fs.park.lost = [] ∧ s.m.fs.copies = [] ∧
      s.m.fs.seqs = []) ∧
    (∀ j ∈ [MemJob.mk .park 1 70 (.copy 5), MemJob.mk .table 2 1 .tables], 0 < j.left) :=
  ⟨by decide +kernel, by decide +kernel, fun x h => by bv_omega, by decide +kernel, by decide⟩

/-- Export to an address, one counter ahead of what has been sent. -/
def observing (left : Nat := 4096) (ctr : Nat := 9) (waiting : List (Nat × Nat) := []) : State :=
  let s := at_ { fabUp with cfg := [(rExportAddr, 0x100000), (rSinkAddr, 0x200000), (rSinkCfg, 16)]
                            obu := { left := left, exported := [(3, 4)], waiting := waiting } }
  { s with obs := { s.obs with ctr := [(cPoolOps 0 3, BitVec.ofNat 64 ctr)] } }

/-- Only one word of pool 0's counters has increased. -/
theorem export_alone {j o : Nat} (_ : j < 16384) (n : j ≠ 3) (e : Work.exportCounter j = some o) :
    (observing.obs.ctr.getD o 0).toNat ≤ (observing.m.fs.obu.exported.getD j 0).toNat := by
  have k : o ≠ cPoolOps 0 3 := by
    intro c
    subst c
    simp only [Work.exportCounter] at e
    unfold cPoolOps cSkTail cSkParts cSkKept cSampledPos poolBase at e
    by_cases a : j % 256 < 128
    · rw [if_pos a] at e
      injection e with e
      omega
    rw [if_neg a] at e
    by_cases a : j % 256 < 136
    · rw [if_pos a] at e
      injection e with e
      omega
    rw [if_neg a] at e
    repeat' split at e
    all_goals first
      | (injection e with e; omega)
      | cases e
  have r : observing.obs.ctr = [(cPoolOps 0 3, 9)] := rfl
  have z : observing.obs.ctr.getD o 0 = 0 := by
    rw [r]
    generalize cPoolOps 0 3 = a at k
    simp only [Tbl.getD, Tbl.get?, if_neg (Ne.symm k)]
    rfl
  rw [z]
  exact Nat.zero_le _

theorem witness_ObservationsAreExported :
    (Issues observing ∧ (start observing).reg64 rExportAddr ≠ 0 ∧
      (start observing).fired observing.m.fs.obu.lastExport ((start observing).reg rExportCfg) = true) ∧
    (Work.exportCounter 3 = some (cPoolOps 0 3) ∧ (4 : Nat) < (observing.obs.ctr.getD (cPoolOps 0 3) 0).toNat ∧
      256 ≤ observing.m.fs.obu.left) ∧
    (start (at_ fabUp)).reg64 rExportAddr = 0 ∧
    (observing.m.fs.obu.restart = false ∧ (start observing).fired observing.m.fs.obu.intervalAt 100 = true ∧
      observing.m.fs.obu.waiting = [] ∧ (observing 4096 4 [(1, 77)]).m.fs.obu.waiting = [(1, 77)] ∧
      (observing 255 4 [(1, 77)]).m.fs.obu.left < 256 ∧ (start (at_ {})).fired 0 100000000 = false) := by
  decide +kernel
/-! The pair. -/

/-- A fabric side in a pairing state. -/
def inPair (state : TwinState) (f : FabricSide := fabUp) (t : Twin := {}) : FabricSide :=
  { f with twin := { t with state := state } }

/-- An unpaired fabric side that has heard its twin. -/
def heard (state : Nat) : FabricSide := inPair .unpaired fabUp { heartbeat := some (aBeat state, 999000) }

/-- An attach whose BULK has been acknowledged up to a frame. -/
def attaching (acked : Nat) : FabricSide :=
  inPair .attachingA fabUp { bulkEnd := 9, link := { nextSeq := 10, acked := acked } }

theorem noMirrorCopy {f : FabricSide} (h : f.seqs = [] ∧ f.copies = []) (x : HostSide := hostUp) : NoMirrorCopy (at_ f x) := by
  refine ⟨fun y m => ?_, fun y m => ?_⟩
  · have : y ∈ f.seqs := m
    simp [h.1] at this
  · have : y ∈ f.copies := m
    simp [h.2] at this

theorem witness_PairsFormAndPart :
    (Accepted (at_ (heard 0)) 0 opTwinAttach (send opTwinAttach 0) ∧
      (at_ (heard 0)).m.fs.twin.heartbeat = some (aBeat 0, 999000) ∧ (start (at_ (heard 0))).ready = true ∧
      (start (at_ (heard 0))).beatMatches (aBeat 0) = true ∧ (start (at_ (heard 3))).beatMatches (aBeat 3) = false) ∧
    (let s := at_ (attaching 9) (acting 0 (item opTwinAttach (send opTwinAttach 0)) (.attach 5));
      Awake s ∧ s.m.fs.twin.state = .attachingA ∧ (∀ x ∈ s.m.hs.ctxs, x.2.f2 = false) ∧ NoneLeaves s ∧ s.m.hs.up = true ∧ ((start s).hctx 0).queue = [] ∧
      ((start s).hctx 0).acting = some (item opTwinAttach (send opTwinAttach 0), .attach 5) ∧
      (attaching 8).twin.link.acked < (attaching 8).twin.bulkEnd) ∧
    (Accepted (at_ (inPair .pairedA)) 0 opTwinDetach (send opTwinDetach 0) ∧ NoMirrorCopy (at_ (inPair .pairedA)) ∧
      Accepted (at_ (inPair .pairedS)) 0 opTwinDetach (send opTwinDetach 0) ∧ NoMirrorCopy (at_ (inPair .pairedS)) ∧
      Accepted (at_ (inPair .unpaired)) 0 opTwinDetach (send opTwinDetach 0) ∧ NoMirrorCopy (at_ (inPair .unpaired)) ∧
      (∀ t ∈ [TwinState.pairedA, .pairedS, .unpaired], (inPair t).twin.heldStores = [] ∧ (inPair t).twin.heldRelays = [])) ∧
    (Takes (at_ (inPair .pairedA)) ∧ Settled (at_ (inPair .pairedA)) ∧ (start (at_ (inPair .pairedA))).twinHeard = false) :=
  ⟨⟨accepted_send (by decide), by decide, by decide, by decide, by decide⟩, by decide +kernel,
    ⟨accepted_send (by decide), noMirrorCopy (by decide), accepted_send (by decide), noMirrorCopy (by decide),
      accepted_send (by decide), noMirrorCopy (by decide), by decide⟩, by decide⟩

/-- A SHADOW whose last valid frame came at a count. -/
def shadow (last : Nat) (f : FabricSide := fabUp) (cfg : Tbl Word := []) : FabricSide :=
  { inPair .pairedS f { link := { taken := 4, lastValid := some last } } with cfg := cfg }

/-- A takeover over pool 0, engine 3's fence outstanding since a count. -/
def takingOver (fencing : List Nat) (at_ tries : Nat := 0) : FabricSide :=
  let f := fabPool
  inPair .taking { f with engines := f.engines.set 3 { anEngine 0 0 with atomic := some (4, tries, at_) } } { fencing := fencing }

theorem witness_ShadowsTakeOver :
    (Accepted (at_ (shadow 0 fabPool)) 0 opTakeover (send opTakeover 0) ∧
      Accepted (at_ fabPool) 0 opTakeover (send opTakeover 0)) ∧
    (Takes (at_ (shadow 0)) ∧ Settled (at_ (shadow 0)) ∧
      (start (at_ (shadow 0))).fired 0 (2 * fld ((start (at_ (shadow 0))).reg rTwinCfg) 15 0) = true ∧
      (start (at_ (shadow 0))).fired 1000000 (2 * fld ((start (at_ (shadow 0))).reg rTwinCfg) 15 0) = false ∧
      bit ((start (at_ (shadow 0 fabUp [(rTwinCfg, 0x10064)]))).reg rTwinCfg) 16 = true ∧
      bit ((start (at_ (shadow 0 fabUp [(rTwinCfg, 0x64)]))).reg rTwinCfg) 16 = false) ∧
    (let s := at_ (takingOver [3, 5]);
      Awake s ∧ Settled s ∧ s.m.fs.twin.state = .taking ∧
      s.m.fs.engines.get? 3 = some { anEngine 0 0 with atomic := some (4, 0, 0) } ∧ s.m.fs.pools.get? 0 = some aPool ∧
      (start s).fired 0 (fld ((start s).reg rFabAtomic) 15 0) = true ∧ 0 < fld ((start s).reg rFabAtomic) 19 16 ∧
      (start s).fired 1000000 (fld ((start s).reg rFabAtomic) 15 0) = false ∧
      (start s).lapsed 0 (fld ((start s).reg rFabAtomic) 15 0) = true ∧
      (start s).lapsed 999999 (fld ((start s).reg rFabAtomic) 15 0) = false ∧
      (takingOver [3, 5] 999999).engines.get? 3 = some { anEngine 0 0 with atomic := some (4, 0, 999999) }) ∧
    (let s := at_ (takingOver []);
      Awake s ∧ Settled s ∧ s.m.fs.twin.fencing = [] ∧ s.m.fs.twin.replies = [] ∧ s.m.fs.twin.waiting = [] ∧
      s.m.fs.pools = [(0, aPool)] ∧ aPool.plans = [] ∧ s.m.fs.seqs = [] ∧ s.m.fs.copies = [] ∧
      (∀ x ∈ s.m.hs.ctxs, x.2.queue = [])) ∧
    (let s := at_ (inPair .unpaired fabUp { graceAt := some 0 });
      Awake s ∧ s.m.fs.twin.graceAt = some 0) :=
  ⟨⟨accepted_send (by decide), accepted_send (by decide)⟩, by decide +kernel, by decide +kernel, by decide, by decide⟩

/-- A link with two frames that the twin has not acknowledged. -/
def unacked (state : TwinState) : FabricSide :=
  inPair state fabUp { link := { nextSeq := 10, acked := 7, ackAt := 0, unacked := [
    { fseq := 8, ackseq := 0, body := .marker 1 false }, { fseq := 9, ackseq := 0, body := .marker 2 false }] } }

theorem witness_HeartbeatsMoveThePair :
    ((at_ fabUp).m.fs.boot.up = true ∧ (at_ fabUp).m.fs.boot.shutDone = false ∧
      (at_ fabUp).m.fs.twin.link.lastSent = none) ∧
    ((start (at_ fabUp)).fsTakes = true ∧ Settled (at_ fabUp) ∧ beatCrc 0x01 8 (aBeat 3) + 1 ≠ beatCrc 0x01 8 (aBeat 3)) ∧
    (Takes (at_ (unacked .pairedA)) ∧ Settled (at_ (unacked .pairedA)) ∧ NoMirrorCopy (at_ (unacked .pairedA)) ∧
      (unacked .pairedA).twin.heldStores = [] ∧ (unacked .pairedA).twin.heldRelays = [] ∧
      (∀ t ∈ [TwinState.unpaired, .attachingA, .attachingS, .isolated, .taking, .detached],
        Settled (at_ (inPair t)) ∧ (start (at_ (inPair t))).lossDue = false) ∧
      (start (at_ (unacked .pairedA))).lossDue = false ∧ (unacked .pairedA).twin.link.acked < 8 ∧ 9 < (unacked .pairedA).twin.link.nextSeq ∧
      Takes (at_ (inPair .isolated)) ∧ Takes (at_ (inPair .attachingS)) ∧ Takes (at_ (inPair .unpaired)) ∧
      Takes (at_ (inPair .attachingA)) ∧ Takes (at_ (inPair .taking)) ∧ Takes (at_ (inPair .detached))) ∧
    (Awake (at_ (unacked .pairedA)) ∧ ((start (at_ (unacked .pairedA))).link 0).unacked ≠ [] ∧
      (start (at_ (unacked .pairedA))).fired ((start (at_ (unacked .pairedA))).link 0).ackAt 200 = true) :=
  ⟨by decide, ⟨by decide, by decide, by decide +kernel⟩,
    ⟨by decide, by decide, noMirrorCopy (by decide), by decide⟩, by decide⟩

/-- The next frame in order on the pairing link of `shadow`, and one out of order. -/
def inFrame (n : Nat := 5) : FrameIn := { link := 0, fseq := n, ackseq := 0, crcOk := true }

/-- A SHADOW that holds a park copy and a handle's copy. -/
def shadowCopies : FabricSide :=
  shadow 999999 { parked (aRec .copying) with copies := [(5, aCopy false)] }

/-- A MODEL_LOAD that fetches one byte. -/
def loadOne : Packet := send opModelLoad 0 (bitsAt 288 1)

/-- A SHADOW that has fetched an image itself, or is still attaching. -/
def fetched : FabricSide :=
  { shadow 999999 with twin := { (shadow 999999).twin with outcomes := [(0, 1, 2, 3, true)] } }
def attachingS (last : Nat) : FabricSide := { shadow last with twin := { (shadow last).twin with state := .attachingS } }

theorem witness_ShadowsFollowFrames :
    (Takes (at_ (shadow 999999)) ∧ Settled (at_ (shadow 999999)) ∧ (start (at_ (shadow 999999))).lossDue = false ∧
      InTurn (at_ (shadow 999999)) inFrame ∧ Work.fetchesImage opCancel (send opCancel 1) = false ∧
      Work.fetchesImage opModelLoad loadOne = true ∧ (shadow 999999).twin.images = []) ∧
    ((∀ c k a b, Decision.slots 3 [] [] ≠ .imageOutcome c k a b) ∧
      (∀ n h, Decision.slots 3 [] [] = .hostCtx n h → h.f2 = false)) ∧
    (Takes (at_ fetched) ∧ (start (at_ fetched)).lossDue = false ∧ InTurn (at_ fetched) inFrame ∧
      (fetched.twin.outcomes.find? fun o => o.1 = 0 && o.2.1 = 1 && o.2.2.2.2) = some (0, 1, 2, 3, true) ∧
      ((shadow 999999).twin.outcomes.find? fun o => o.1 = 0 && o.2.1 = 1 && o.2.2.2.2) = none) ∧
    (Takes (at_ (attachingS 999999)) ∧ (start (at_ (attachingS 999999))).lossDue = false ∧
      InTurn (at_ (attachingS 999999)) inFrame) ∧
    (Takes (at_ fabUp { bootDone := true }) ∧ (start (at_ fabUp { bootDone := true })).emptyBit = true) ∧
    (Takes (at_ shadowCopies) ∧ shadowCopies.twin.state = .pairedS ∧ (start (at_ shadowCopies)).lossDue = false ∧
      InTurn (at_ shadowCopies) inFrame ∧
      shadowCopies.copies.get? 5 = some (aCopy false) ∧ ((start (at_ shadowCopies)).seq 5).park = some (aRec .copying)) ∧
    (¬ InTurn (at_ (shadow 999999)) (inFrame 6) ∧ Takes (at_ (attachingS 0)) ∧ Settled (at_ (attachingS 0)) ∧
      (start (at_ (attachingS 0))).lossDue = true) ∧
    (Takes (at_ pairedA) ∧ Settled (at_ pairedA) ∧ (start (at_ pairedA)).lossDue = false ∧
      InTurn (at_ pairedA) (inFrame 1) ∧ pairedA.twin.heldStores = [] ∧ pairedA.twin.heldRelays = [] ∧
      NoMirrorCopy (at_ pairedA) ∧ pairedA.copies = [] ∧ pairedA.seqs = []) :=
  ⟨by decide, ⟨fun _ _ _ _ => Decision.noConfusion, fun _ _ => Decision.noConfusion⟩, by decide, by decide, by decide,
    by decide, by decide, by decide, by decide, by decide, by decide, by decide, by decide, noMirrorCopy (by decide),
    by decide, by decide⟩
/-! The group. -/

/-- A fabric side of a group of members 0 and 1, whose peer link 1 is up. -/
def inGroup (f : FabricSide := fabUp) (p : Peer := {}) (last : Nat := 999999) : FabricSide :=
  { f with cfg := f.cfg.set rGroupCfg 0x0301, peer := { p with links := [(0, { up := true, taken := 4, lastValid := some last })] } }

/-- That group, whose other member has been silent. -/
def silent : FabricSide := inGroup fabUp {} 0

/-- Member 1 of that group. -/
def member1 (f : FabricSide) (h : HostSide := hostUp) : State := { at_ f h with idn := { grpPos := 1 } }

/-- A HELLO of the member at a position. -/
def aHello (pos : Nat) : Heartbeat := { aBeat 0 with pos := pos }

theorem witness_PeerLinksComeUpAndGoDown :
    ((at_ fabUp).m.fs.boot.up = true ∧ (at_ fabUp).m.fs.boot.shutDone = false ∧
      ((start (at_ fabUp)).link 1).lastSent = none) ∧
    ((start (at_ fabUp)).fsTakes = true ∧ (aHello 1).pos = (at_ fabUp).idn.grpPos ^^^ 2 ^ (1 - 1) ∧
      (aHello 4).pos = (at_ fabUp).idn.grpPos ^^^ 2 ^ (3 - 1) ∧ (aHello 2).pos ≠ (at_ fabUp).idn.grpPos ^^^ 2 ^ (1 - 1) ∧
      (aHello 1).config = b01 (at_ fabUp).idn.isM ∧ beatCrc 0x10 0 (aHello 1) ≠ beatCrc 0x10 0 (aHello 1) + 1) ∧
    ((start (at_ silent)).fsTakes = true ∧ ((start (at_ silent)).link 1).up = true ∧
      ((start (at_ silent)).link 1).lastValid = some 0 ∧ (start (at_ silent)).fired 0 (start (at_ silent)).peerLoss = true ∧
      (start (at_ silent)).fired 1000000 (start (at_ silent)).peerLoss = false ∧ (start (at_ silent)).linkLate 1 = true ∧
      (start (at_ inGroup)).linkLate 1 = false) ∧
    (Takes (at_ inGroup) ∧ Arriving (at_ inGroup) (nextFrame 1) ∧ Reaches (at_ inGroup) 1 0 ∧ Reaches (member1 inGroup) 0 0) := by
  decide +kernel

/-- A SUBMIT with a prefix handle of context 1 that member 1 homes. -/
def farH : DWord := 0x0120000000000011
def farPkt : Packet :=
  send opSubmit 1 (bitsAt 196 1 + bitsAt 208 1 + bitsAt 240 100000 + bitsAt 272 5) farH (leBytes 32 0)

/-- A forward to member 1 that stands, and what waits for its answer. -/
def aForward (at_ : Nat := 0) : Forward :=
  { dest := 1, num := 3, port := 0, pkt := farPkt, budget := 100000, at_ := at_, firstAt := at_ }
def awaiting : HostSide := acting 1 (item opSubmit farPkt) (.forward 1 3)
def forwarding (at_ : Nat := 0) : FabricSide := inGroup fabUp { forwards := [aForward at_] }

/-- Member 1's answers to member 0, and the records that it relays. -/
def aReplyTo : Reply := { opcode := opSubmit, ctx := 1, cseq := 1, status := stOk }
def answering : FabricSide :=
  inGroup serving { answers := [(0, (3, [(3, aReplyTo)]))], relays := [(0, 2, { seq := 6 }), (0, 3, { seq := 7 })]
                    relayPort := [(0, 3, 2, 1)] }

/-- Slot 5 holds a sequence that member 0 forwarded; the path to member 0 has been lost. -/
def pathLost : FabricSide :=
  { fabSeq seqEntry { home := some (0, 3) } with
    cfg := [(rGroupCfg, 0x0301)]
    peer := { relays := [(0, 3, {})], links := [(0, { up := false, downAt := 0 })] } }

theorem witness_ForwardedAdmissions :
    (Accepted (at_ inGroup) 0 opSubmit farPkt ∧ (submitFields farPkt).form = 1 ∧ prefixOwner farPkt.handle.toNat = farPkt.ctx.toNat ∧
      (start (at_ inGroup)).groupEn = true ∧ prefixHome farPkt.handle.toNat = 1) ∧
    (let s := member1 answering;
      Takes s ∧ Arriving s (nextFrame 1) ∧ (start s).isMember 1 = true ∧ (start s).addressee 1 = true ∧
      4 = (s.m.fs.peer.answers.getD 0 (0, [])).1 + 1 ∧ (s.m.fs.peer.answers.getD 0 (0, [])).2.get? 3 = some aReplyTo ∧
      (start s).readyFor opSubmit = true) ∧
    (start { member1 answering with m := { hs := hostUp, fs := { answering with boot := { phase := .calibrate } } } }).readyFor
      opSubmit = false ∧
    (∃ a, (start (member1 answering)).admissionTests ((start (member1 answering)).requestOf 0 (some (0, 4))
      (send opSubmit 1) 100).2.1 = .error a) ∧
    (let s := at_ (forwarding) awaiting;
      Takes s ∧ Arriving s (nextFrame 1) ∧ s.m.hs.up = true ∧ (start s).isMember 0 = true ∧ (start s).addressee 0 = true ∧
      (s.m.fs.peer.forwards.find? fun y => y.dest = 1 && y.num = 3) = some (aForward) ∧
      ((start s).hctx 1).acting = some (item opSubmit farPkt, .forward 1 3) ∧ ((start s).hctx 1).queue = [] ∧
      Decides s ∧ (start s).fired 0 500 = true ∧ (start s).fired 0 (2 * (start s).peerLoss) = true) ∧
    (start (at_ (forwarding 1000000) awaiting)).forwardLate 1 3 = false ∧
    (Decides (member1 pathLost) ∧ (start (member1 pathLost)).undeliverable 0 = true ∧
      (start (member1 inGroup)).undeliverable 0 = false ∧
      ((start (member1 pathLost)).seq 5).home = some (0, 3)) ∧
    (Arriving (member1 answering) (nextFrame 1) ∧
      (answering.peer.relayPort.find? fun x => x.1 = 0 && x.2.1 = 3) = some (0, 3, 2, 1) ∧
      answering.peer.relays = [(0, 2, { seq := 6 })] ++ (0, 3, { seq := 7 }) :: []) :=
  ⟨⟨accepted_send (by decide), by decide, by decide, by decide, by decide⟩, by decide, by decide, error_of (by decide +kernel),
    by decide +kernel, by decide +kernel, by decide, by decide⟩

theorem witness_QuotasAreRebalanced :
    (let s := member1 { inGroup with ctxs := [(1, { seqs := 2, gqSlice := 8 })] };
      Decides s ∧ (start s).groupEn = true ∧ (start s).isMember 1 = true ∧ (start s).coordinates = false ∧
      (start s).fired s.m.fs.peer.lastRebal (start s).rebalInterval = true ∧
      (start s).fired 1000000 (start s).rebalInterval = false ∧ Reaches s (start s).coordinator 0 ∧
      (start { s with m := { hs := hostUp, fs := { s.m.fs with cfg := s.m.fs.cfg.set (rGqCfg 1) 9 } } }).quota 1 false ≠ 0) ∧
    (let s := member1 inGroup;
      Takes s ∧ Arriving s (nextFrame 1) ∧ (start s).isMember 1 = true ∧ (start s).addressee 1 = true ∧
      s.m.fs.peer.wants = []) := by
  decide +kernel

/-- Slot 5 parked in this member, or with its extents at member 1 and no path to it. -/
def migrating : FabricSide := inGroup (parked { aRec .done with extents := [0], bytes := [1, 2, 3] })
def awayLost : FabricSide :=
  { parked { aRec .done with away := some 1 } with
    cfg := [(rGroupCfg, 0x0301)], peer := { links := [(0, { up := false, downAt := 0 })] } }

/-- A copy of member 0 that member 1 holds. -/
def aGuest : Guest := { member := 0, seq := 9, ctx := 1, extents := [4], bytes := [7, 7] }
def guests : FabricSide :=
  { inGroup with park := { gib := 1, used := [(4, ())], guests := [aGuest] }, ctxs := [(1, { parkUsed := 1, tenant := { limPark := 10 } })] }

theorem witness_ParkCopiesMigrate :
    (let s := at_ migrating;
      Decides s ∧ (start s).groupEn = true ∧ handleSlot seqH.toNat = 5 ∧ ((start s).entry 5).fl.issued = true ∧
      handleGen seqH.toNat = ((start s).entry 5).gen ∧ ((start s).entry 5).st = .parked ∧ (aRec .done).restore = .none ∧
      (aRec .done).away = none ∧ (start s).migrating 5 = false ∧ Reaches s 1 0) ∧
    (let s := member1 guests;
      Takes s ∧ Arriving s (nextFrame 1) ∧ (start s).isMember 1 = true ∧ (start s).addressee 1 = true ∧
      (start s).mayCharge 1 2 = true ∧ (start s).mayCharge 1 200 = false ∧
      (s.m.fs.park.guests.find? fun g => g.member = 0 && g.seq = 9) = some aGuest) ∧
    (Decides (at_ awayLost) ∧ (start (at_ awayLost)).undeliverable 1 = true ∧ (start (at_ migrating)).undeliverable 1 = false ∧
      ((start (at_ awayLost)).seq 5).park = some { aRec .done with away := some 1 }) := by
  decide

/-! An ill-formed command for each check of `Instr.wellFormed`, which refuses it. -/

/-- A packet whose body is not whole units of 16 bytes. -/
def badBody : Packet := send opPing 1 0 0 [1]
/-- A packet with nothing in its fields. -/
def plainPk : Packet := send opPing 1
/-- A frame. -/
def aFrame : FrameIn := { link := 0, fseq := 1, ackseq := 0, crcOk := true }

theorem test_ports_refused :
    ([.submit 4 plainPk [], .append 4 plainPk, .cancel 4 plainPk, .pause 4 plainPk, .resume 4 plainPk, .credit 4 plainPk,
      .prefixPut 4 plainPk, .prefixDrop 4 plainPk, .query 4 plainPk, .statsRead 4 plainPk, .ping 4 plainPk, .cfgRead 4 plainPk,
      .cfgWrite 4 plainPk, .modelLoad 4 plainPk, .poolAttach 4 plainPk, .poolDetach 4 plainPk, .engineFreeze 4 plainPk,
      .engineThaw 4 plainPk, .tenantSet 4 plainPk, .tenantThaw 4 plainPk, .tenantReset 4 plainPk, .stencilLoad 4 plainPk,
      .stencilDrop 4 plainPk, .envelopeSet 4 plainPk, .horn 4 plainPk, .hornRelease 4 plainPk, .counterMode 4 plainPk,
      .traceSet 4 plainPk, .twinAttach 4 plainPk, .twinDetach 4 plainPk, .takeover 4 plainPk, .framingDrop 4 true 1,
      .partialPacketTimeout 4 1] : List Instr).all (fun i => !i.wellFormed) = true := by
  decide

theorem test_bodies_refused :
    ([.submit 0 badBody [], .append 0 badBody, .cancel 0 badBody, .pause 0 badBody, .resume 0 badBody, .credit 0 badBody,
      .prefixPut 0 badBody, .prefixDrop 0 badBody, .query 0 badBody, .statsRead 0 badBody, .ping 0 badBody,
      .cfgRead 0 badBody, .cfgWrite 0 badBody, .modelLoad 0 badBody, .poolAttach 0 badBody, .poolDetach 0 badBody,
      .engineFreeze 0 badBody, .engineThaw 0 badBody, .tenantSet 0 badBody, .tenantThaw 0 badBody, .tenantReset 0 badBody,
      .stencilLoad 0 badBody, .stencilDrop 0 badBody, .envelopeSet 0 badBody, .horn 0 badBody, .hornRelease 0 badBody,
      .counterMode 0 badBody, .traceSet 0 badBody, .twinAttach 0 badBody, .twinDetach 0 badBody,
      .takeover 0 badBody] : List Instr).all (fun i => !i.wellFormed) = true := by
  decide

theorem test_selectors_refused :
    ([.variantSet 0 plainPk, .variantWithdraw 0 (send 0 0 (bitsAt 208 1)), .sharedHandleCreate 0 (send 0 0 (bitsAt 192 1)),
      .sharedHandleSetGrants 0 plainPk, .sharedHandleDrop 0 plainPk, .reservedOpcode 0 0x01 plainPk,
      .reservedOpcode 0 0x1FF plainPk] : List Instr).all (fun i => !i.wellFormed) = true := by
  decide

theorem test_numbers_refused :
    ([.keyGraceExpiry 256, .replyRelease 256, .ringRecordSend 256, .peerMigrateWrite 0 8, .peerMigrateWrite (2 ^ 32) 0,
      .composePlan 64 [], .trim 64, .planDeliver 64, .planHeaderAcked 64 0, .planHeaderAcked 0 1024, .interposeCompose 64,
      .mailboxAcked 0 1024, .yieldTimeout 64, .completionTimeout 1024, .stepCommit 64, .stepFail 64,
      .routeReturnAcked 0 0 1024, .deepFetchData (2 ^ 32) 0 0 [], .appendGroup (2 ^ 32), .energyWaitExpiry 64,
      .keepListTimeout (2 ^ 18), .reduction 1024 0 4 0, .reduction 0 (2 ^ 64) 4 0, .reduction 0 0 4 (2 ^ 32), .apertureLoad 1024,
      .storeAckTimeout 1024, .atomicRetry 1024, .parkCopyDone (2 ^ 18) [], .parkCopyRetry (2 ^ 18), .restoreDone (2 ^ 18),
      .placementDone 64 0, .placementDone 0 (2 ^ 64), .handleCopyDone (2 ^ 64) [], .memReadReturn 24 0 [] 0,
      .memReadReturn 0 0 [] 0, .memRetrain 24 true 0, .memRefresh 24 0, .dfiPhyRequest 24, .deadlineExpiry (2 ^ 18),
      .stallExpiry (2 ^ 18), .parkTtlExpiry (2 ^ 18), .handleExpiry (2 ^ 64), .maskPartitionApply 16, .speedRecompute [],
      .thermUpdate [], .delayLineEnter true true (2 ^ 64), .frameResend 4, .peerLinkLoss 0, .peerLinkLoss 4, .forwardRetry 8 0,
      .forwardLost 8 0, .forwardPathLost 8, .migrationDestLost 8, .resetFsRelease 8 0, .resetFsRelease 0 2,
      .selfTestDone (some 7), .calibrateDone [], .trainDone (List.replicate 25 none), .ringBodyStore 1024 0 [],
      .keepRequestAcked 1024, .deepFetchTimeout (2 ^ 32) 0 0] : List Instr).all (fun i => !i.wellFormed) = true := by
  decide +kernel

theorem test_frames_refused :
    ([.twinCommandFrame aFrame 4 0 plainPk, .twinCommandFrame aFrame 0 256 plainPk, .peerForward aFrame 8 0 0 0 plainPk 0,
      .peerForward aFrame 0 8 0 0 plainPk 0, .peerForward aFrame 0 0 0 4 plainPk 0, .peerAnswer aFrame 8 0 0 {},
      .peerRelay aFrame 0 8 0 none, .migratedExtentRead aFrame 8 0 0, .migratedExtentsReturn aFrame 0 0 (2 ^ 32)] :
      List Instr).all (fun i => !i.wellFormed) = true := by
  decide

/-! Published test vectors of the algorithms that the spec names. -/

/-- The check value of CRC-32C: the digits 1 to 9 (R704). -/
theorem test_crc32c : crc32c [0x31, 0x32, 0x33, 0x34, 0x35, 0x36, 0x37, 0x38, 0x39] = 0xE3069283 := by decide +kernel

/-- The check value of CRC-64 of ECMA-182 (R801). -/
theorem test_crc64 : crc64 [0x31, 0x32, 0x33, 0x34, 0x35, 0x36, 0x37, 0x38, 0x39] = 0x6C40DF5F0B497347 := by decide +kernel

/-- The example of FIPS 197, Appendix C.1 (R454). -/
theorem test_aes128 : aes128 ((List.range 16).map (BitVec.ofNat 8)) ((List.range 16).map fun n => BitVec.ofNat 8 (n * 17)) =
    [0x69, 0xC4, 0xE0, 0xD8, 0x6A, 0x7B, 0x04, 0x30, 0xD8, 0xCD, 0xB7, 0x80, 0x70, 0xB4, 0xC5, 0x5A] := by
  decide +kernel

/-- The example of SP 800-38B with a message of one block (R96). -/
theorem test_cmac : cmac (BitVec.ofNat 128 (ofLe [0x2B, 0x7E, 0x15, 0x16, 0x28, 0xAE, 0xD2, 0xA6, 0xAB, 0xF7, 0x15, 0x88, 0x09, 0xCF, 0x4F, 0x3C]))
    [0x6B, 0xC1, 0xBE, 0xE2, 0x2E, 0x40, 0x9F, 0x96, 0xE9, 0x3D, 0x7E, 0x11, 0x73, 0x93, 0x17, 0x2A] =
    [0x07, 0x0A, 0x16, 0xB4, 0x6B, 0x4D, 0x41, 0x44, 0xF7, 0x9B, 0xDD, 0x9D, 0xD0, 0x4A, 0x28, 0x7C] := by
  decide +kernel

/-! Single steps. -/

/-- A command answers a next state with a property. -/
def leaves (i : Instr) (s : State) (f : State → Bool) : Bool :=
  match exec i s with
  | .next t => f t
  | _ => false

/-- A port that no configuration has stops a command by name (R4). -/
theorem test_no_such_port : (match exec (.framingDrop 4 true 1) State.reset with | .fault .noSuchPort => true | _ => false) = true := by decide

/-- A framing drop counts at its port, and its beats (R92, R710). -/
theorem test_framing_drop :
    leaves (.framingDrop 1 true 3) State.reset (fun t => t.obs.ctr.get? (cFramingDrop 1) = some 1) = true := by decide +kernel

/-- RST_FS_N's release starts the self-test and reads the straps (R759, R834). -/
theorem test_reset_release :
    leaves (.resetFsRelease 3 1) (at_ { boot := { up := false } })
      (fun t => t.m.fs.boot.up && decide (t.idn.grpPos = 3) && decide (t.idn.pairSide = 1)) = true := by decide +kernel

/-- BOOT_DRAIN moves READY to DRAIN (R847). -/
theorem test_boot_drain : leaves .bootDrain (at_ fabUp) (fun t => decide (t.m.fs.boot.phase = .drain)) = true := by
  decide +kernel

/-- A reply that waits is released to its port, and the stream is then empty. -/
theorem test_reply_release :
    leaves (.replyRelease 1) (at_ fabUp { hostUp with ctxs := [(1, { keyed 1 with stream := [{ port := 2, msg := .reply { opcode := opPing, ctx := 1, cseq := 3 }, credit := true }] })] })
      (fun t => decide (t.out.host.map (·.port) = [2])) = true := by decide +kernel

/-- A side on delay-line time counts on while nothing waits; on TREF it does not move of itself (R79). -/
theorem test_idle :
    (match step { at_ fabUp with clk := { hs := 5, fs := 5, fsDegraded := true } } with
     | .next t => decide (t.clk.fs = 6 ∧ t.clk.hs = 5)
     | _ => false) = true := by decide +kernel

end Sys2Proof.Tests
end

section
/-! PROOFS. Handshake timing: TREF edges, delay-line time, the speed index and the published temperature (R52 to R56, R72,
R73, R78 to R81, R902). -/

namespace Sys2Proof.Machine

/-! The least and the greatest of a list of numbers. -/

theorem minOf_eq_min?_getD (d : Nat) (l : List Nat) : minOf d l = l.min?.getD d := by cases l <;> rfl

theorem maxOf_eq_max?_getD (l : List Nat) : maxOf l = l.max?.getD 0 :=
  (List.foldl_max (l := l) (a := 0)).trans (Nat.zero_max _)

theorem minOf_eq_of_least {l : List Nat} {low : Nat} (d : Nat) (hmem : low ∈ l) (hle : ∀ x ∈ l, low ≤ x) :
    minOf d l = low := by
  rw [minOf_eq_min?_getD, List.min?_eq_some_iff.2 ⟨hmem, hle⟩, Option.getD_some]

theorem maxOf_eq_of_greatest {l : List Nat} {hot : Nat} (hmem : hot ∈ l) (hle : ∀ x ∈ l, x ≤ hot) : maxOf l = hot := by
  rw [maxOf_eq_max?_getD, List.max?_eq_some_iff.2 ⟨hmem, hle⟩, Option.getD_some]

theorem minOf_le_of_mem {l : List Nat} {a : Nat} (d : Nat) (h : a ∈ l) : minOf d l ≤ a :=
  minOf_eq_min?_getD d l ▸ List.min?_getD_le_of_mem h

theorem le_minOf {l : List Nat} {b d : Nat} (hd : b ≤ d) (hl : ∀ x ∈ l, b ≤ x) : b ≤ minOf d l := by
  rw [minOf_eq_min?_getD]
  cases h : l.min? with
  | none => exact hd
  | some a => exact hl a (List.min?_eq_some_iff.1 h).1

/-! What the end of a command says of single parts of the state. -/

theorem speed_of_fabricIs {t : State} {f : FabricSide} (h : t.fabricIs f) : t.m.fs.speed = f.speed :=
  (congrArg FabricSide.speed h :)

theorem boot_of_fabricIs {t : State} {f : FabricSide} (h : t.fabricIs f) : t.m.fs.boot = f.boot :=
  (congrArg FabricSide.boot h :)

theorem messages_of_hostIs {t : State} {w : Work} (h : t.hostIs w.m.hs) (c : Nat) :
    messages t c = (w.hctx c).stream.map (·.msg) :=
  unneeded_messages (hctx_of_hostIs h c)

/-- A powered unit of an awake fabric side acts at once (R823, R832). -/
theorem atUnit_powered_awake {s : State} (h : Awake s) (c : Instr) (f : Work → Work) :
    atUnit s c Work.powered f = run s f := by
  obtain ⟨hup, hshut, hheld, hstalled, hkept⟩ := h
  exact atUnit_eq s c _ f (by simp [Work.powered, hup, hshut]) (by simp [Work.halted, hheld, Nat.not_le.2 hkept]) hstalled

/-! TREF edges (R72, R79). -/

theorem trefEdge_fabric (s : State) : s.trefEdge true =
    if s.m.fs.boot.up && !s.m.fs.boot.shutDone && !s.clk.fsDegraded then { s with clk := { s.clk with fs := s.clk.fs + 1 } }
    else s := rfl

theorem trefEdge_host (s : State) : s.trefEdge false =
    if s.m.hs.up && !s.clk.hsDegraded then { s with clk := { s.clk with hs := s.clk.hs + 1 } } else s := rfl

theorem exec_trefEdge (fabric : Bool) (s : State) : exec (.trefEdge fabric) s = .next (s.trefEdge fabric) := rfl

/-! Delay-line time (R78 to R81): the clocks of a side that enters or leaves it, and what the two commands do from there. -/

/-- The clocks once the fabric side has taken the estimate and counts on its delay line (R79). -/
def Clock.fsEnter (k : Clock) (est : Nat) : Clock :=
  { k with fs := k.fs + BitVec.ofNat 64 est, fsDegraded := true, fsFrom := k.fs.toNat }

/-- The clocks once the host side has taken the estimate and counts on its delay line (R79). -/
def Clock.hsEnter (k : Clock) (est : Nat) : Clock :=
  { k with hs := k.hs + BitVec.ofNat 64 est, hsDegraded := true, hsFrom := k.hs.toNat }

/-- The clocks once the fabric side counts edges again (R81). -/
def Clock.fsLeave (k : Clock) : Clock := { k with fsDegraded := false, fsFrom := 0, fsEst := k.fsTimes }

/-- The clocks once the host side counts edges again (R81). -/
def Clock.hsLeave (k : Clock) : Clock := { k with hsDegraded := false, hsFrom := 0, hsEst := k.hsTimes }

theorem exec_delayLineEnter_fabric {s : State} (freq : Bool) (est : Nat) (hup : s.m.fs.boot.up = true)
    (hshut : s.m.fs.boot.shutDone = false) (hdeg : s.clk.fsDegraded = false) :
    exec (.delayLineEnter true freq est) s =
      run { s with clk := s.clk.fsEnter est } fun w => w.enterDelayLine true freq := by
  show Host.Outcome.next (s.delayLineEnter true freq est) = _
  simp [State.delayLineEnter, hup, hshut, hdeg, run_eq, Clock.fsEnter]

theorem exec_delayLineEnter_fabric_again {s : State} (freq : Bool) (est : Nat) (hup : s.m.fs.boot.up = true)
    (hshut : s.m.fs.boot.shutDone = false) (hdeg : s.clk.fsDegraded = true) :
    exec (.delayLineEnter true freq est) s = .next (if freq then { s with m := { s.m with fs := { s.m.fs with
      speed := { s.m.fs.speed with freqBad := true } } } } else s) := by
  show Host.Outcome.next (s.delayLineEnter true freq est) = _
  simp [State.delayLineEnter, hup, hshut, hdeg]

theorem exec_delayLineEnter_host {s : State} (freq : Bool) (est : Nat) (hup : s.m.hs.up = true)
    (hdeg : s.clk.hsDegraded = false) :
    exec (.delayLineEnter false freq est) s =
      run { s with clk := s.clk.hsEnter est } fun w => w.enterDelayLine false freq := by
  show Host.Outcome.next (s.delayLineEnter false freq est) = _
  simp [State.delayLineEnter, hup, hdeg, run_eq, Clock.hsEnter]

theorem exec_delayLineLeave_fabric {s : State} (hdeg : s.clk.fsDegraded = true) :
    exec (.delayLineLeave true) s = run { s with clk := s.clk.fsLeave } fun w => w.leaveDelayLine true := by
  show Host.Outcome.next (s.delayLineLeave true) = _
  simp [State.delayLineLeave, hdeg, run_eq, Clock.fsLeave]

theorem exec_delayLineLeave_fabric_on_tref {s : State} (hdeg : s.clk.fsDegraded = false) :
    exec (.delayLineLeave true) s = .next s := by
  show Host.Outcome.next (s.delayLineLeave true) = _
  simp [State.delayLineLeave, hdeg]

theorem exec_delayLineLeave_host {s : State} (hdeg : s.clk.hsDegraded = true) :
    exec (.delayLineLeave false) s = run { s with clk := s.clk.hsLeave } fun w => w.leaveDelayLine false := by
  show Host.Outcome.next (s.delayLineLeave false) = _
  simp [State.delayLineLeave, hdeg, run_eq, Clock.hsLeave]

/-! An HS_STATUS message that crosses changes nothing here (R715). -/

theorem hsStatus_up {w : Work} (h : w.m.fs.boot.up = true) : w.hsStatus = w := by simp [Work.hsStatus, h]

/-! What entering delay-line time does on each side (R80). -/

/-- The event and the notice of TIME_DEGRADED, on the ring of the side. -/
def Work.tellDegraded (w : Work) (ring : Nat) (freq : Bool) : Work :=
  (w.event ring 0x0002 true (b01 freq) 0).notice 0 { status := stTimeDegraded }

theorem enterDelayLine_fabric (w : Work) (freq : Bool) : w.enterDelayLine true freq =
    (w.tellDegraded 16 freq).modFs fun f => { f with speed := { f.speed with degradedSeen := true, freqBad := freq } } := rfl

theorem enterDelayLine_host (w : Work) (freq : Bool) : w.enterDelayLine false freq =
    ((w.tellDegraded 17 freq).modHs fun h => { h with degradedSeen := true }).hsStatus := rfl

@[simp] theorem tellDegraded_fx (w : Work) (ring : Nat) (freq : Bool) :
    (w.tellDegraded ring freq).fx = .event ring 0x0002 true (b01 freq) 0 :: w.fx := by
  simp [Work.tellDegraded]

theorem tellDegraded_fs {w : Work} (ring : Nat) (freq : Bool) (h : w.m.hs.up = true) :
    (w.tellDegraded ring freq).m.fs = w.m.fs :=
  (Aged.notice (w.event ring 0x0002 true (b01 freq) 0) 0 { status := stTimeDegraded } h).fs

theorem tellDegraded_messages {w : Work} (ring : Nat) (freq : Bool) (h : w.m.hs.up = true) :
    ((w.tellDegraded ring freq).hctx 0).stream.map (·.msg) =
      (w.hctx 0).stream.map (·.msg) ++ [.reply { status := stTimeDegraded, ctx := 0, kind := 1 }] := by
  exact messages_notice (w.event ring 0x0002 true (b01 freq) 0) 0 0 { status := stTimeDegraded } h

/-! What leaving delay-line time does on each side (R81, R834). -/

theorem leaveDelayLine_fabric (w : Work) : w.leaveDelayLine true =
    ((w.event 16 0x0003 true 0 0).modFs fun f => { f with speed := { f.speed with freqBad := false } }).beginCalibrate := rfl

theorem leaveDelayLine_host (w : Work) : w.leaveDelayLine false = (w.event 17 0x0003 true 0 0).hsStatus := rfl

/-- CALIBRATE begins where START has been written in WAIT_START, on TREF (R834). -/
theorem beginCalibrate_of_asked {w : Work} (hdeg : w.clk.fsDegraded = false) (hphase : w.m.fs.boot.phase = .waitStart)
    (hasked : w.m.fs.boot.startAsked = true) :
    w.beginCalibrate = w.modBoot fun b => { b with phase := .calibrate, startAsked := false } := by
  simp [Work.beginCalibrate, hdeg, hphase, hasked]

theorem beginCalibrate_of_not_asked {w : Work}
    (h : w.m.fs.boot.phase ≠ .waitStart ∨ w.m.fs.boot.startAsked = false) : w.beginCalibrate = w := by
  rcases h with h | h <;> simp [Work.beginCalibrate, h]

/-- CALIBRATE begins or it does not: nothing but the bring-up state moves. -/
theorem beginCalibrate_only_boot (w : Work) : ∃ b, w.beginCalibrate = w.modBoot fun _ => b := by
  unfold Work.beginCalibrate
  split
  · exact ⟨_, rfl⟩
  · exact ⟨w.m.fs.boot, rfl⟩

/-! The four ends of delay-line time as commands. -/

theorem fabric_enters_delayLine {s : State} (freq : Bool) (est : Nat) (hup : s.m.fs.boot.up = true)
    (hshut : s.m.fs.boot.shutDone = false) (hdeg : s.clk.fsDegraded = false) (hhost : s.m.hs.up = true) :
    ∃ t, exec (.delayLineEnter true freq est) s = .next t ∧ Apart { s with clk := s.clk.fsEnter est } t [] [16] ∧
      t.fabricIs { s.m.fs with speed := { s.m.fs.speed with degradedSeen := true, freqBad := freq } } ∧
      messages t 0 = messages s 0 ++ [.reply { status := stTimeDegraded, ctx := 0, kind := 1 }] := by
  have hfs := tellDegraded_fs (w := start { s with clk := s.clk.fsEnter est }) 16 freq hhost
  obtain ⟨t, hrun, hapart, hfab, hhs⟩ := run_apart { s with clk := s.clk.fsEnter est }
    (fun w => w.enterDelayLine true freq) [] [16] [] (by simp [enterDelayLine_fabric, Fx.within])
    (by simp [enterDelayLine_fabric, hfs])
  refine ⟨t, (exec_delayLineEnter_fabric freq est hup hshut hdeg).trans hrun, hapart, ?_, ?_⟩
  · simpa [enterDelayLine_fabric, hfs] using hfab
  · rw [messages_of_hostIs hhs, enterDelayLine_fabric, hctx_modFs, tellDegraded_messages 16 freq hhost]
    rfl

theorem host_enters_delayLine {s : State} (freq : Bool) (est : Nat) (hup : s.m.hs.up = true)
    (hdeg : s.clk.hsDegraded = false) (hfabric : s.m.fs.boot.up = true) :
    ∃ t, exec (.delayLineEnter false freq est) s = .next t ∧ Apart { s with clk := s.clk.hsEnter est } t [] [17] ∧
      t.fabricIs s.m.fs ∧ t.m.hs.degradedSeen = true ∧
      messages t 0 = messages s 0 ++ [.reply { status := stTimeDegraded, ctx := 0, kind := 1 }] := by
  have hfs := tellDegraded_fs (w := start { s with clk := s.clk.hsEnter est }) 17 freq hup
  have hdone : (start { s with clk := s.clk.hsEnter est }).enterDelayLine false freq =
      ((start { s with clk := s.clk.hsEnter est }).tellDegraded 17 freq).modHs fun h => { h with degradedSeen := true } := by
    rw [enterDelayLine_host, hsStatus_up (by simpa [hfs] using hfabric)]
  obtain ⟨t, hrun, hapart, hfab, hhs⟩ := run_apart { s with clk := s.clk.hsEnter est }
    (fun w => w.enterDelayLine false freq) [] [17] [] (by simp [hdone, Fx.within]) (by simp [hdone, hfs])
  refine ⟨t, (exec_delayLineEnter_host freq est hup hdeg).trans hrun, hapart, ?_, ?_, ?_⟩
  · simpa [hdone, hfs] using hfab
  · rw [hdone] at hhs
    exact congrArg HostSide.degradedSeen hhs
  · rw [messages_of_hostIs hhs, hdone]
    exact tellDegraded_messages (w := start { s with clk := s.clk.hsEnter est }) 17 freq hup

theorem fabric_leaves_delayLine {s : State} (hdeg : s.clk.fsDegraded = true) :
    ∃ t, exec (.delayLineLeave true) s = .next t ∧ Apart { s with clk := s.clk.fsLeave } t [] [16] ∧
      t.hostIs s.m.hs ∧ t.m.fs.speed = { s.m.fs.speed with freqBad := false } ∧
      (s.m.fs.boot.phase = .waitStart → s.m.fs.boot.startAsked = true →
        t.m.fs.boot = { s.m.fs.boot with phase := .calibrate, startAsked := false }) ∧
      (s.m.fs.boot.phase ≠ .waitStart ∨ s.m.fs.boot.startAsked = false → t.m.fs.boot = s.m.fs.boot) ∧
      t.fabricIs { s.m.fs with speed := t.m.fs.speed, boot := t.m.fs.boot } := by
  obtain ⟨b, hb⟩ := beginCalibrate_only_boot (((start { s with clk := s.clk.fsLeave }).event 16 0x0003 true 0 0).modFs
    fun f => { f with speed := { f.speed with freqBad := false } })
  have hdone := (leaveDelayLine_fabric (start { s with clk := s.clk.fsLeave })).trans hb
  obtain ⟨t, hrun, hapart, hfab, hhs⟩ := run_apart { s with clk := s.clk.fsLeave }
    (fun w => w.leaveDelayLine true) [] [16] [] (by simp [hdone, Fx.within]) (by simp [hdone])
  simp only [hdone] at hfab hhs
  have hspeed := speed_of_fabricIs hfab
  have hboot : t.m.fs.boot = b := boot_of_fabricIs hfab
  refine ⟨t, (exec_delayLineLeave_fabric hdeg).trans hrun, hapart, hhs, hspeed, ?_, ?_, ?_⟩
  · intro hphase hasked
    rw [beginCalibrate_of_asked rfl hphase hasked] at hb
    rw [hboot]
    exact (congrArg (fun w : Work => w.m.fs.boot) hb).symm
  · intro hnot
    rw [beginCalibrate_of_not_asked hnot] at hb
    rw [hboot]
    exact (congrArg (fun w : Work => w.m.fs.boot) hb).symm
  · rw [hspeed, hboot]
    exact hfab

theorem host_leaves_delayLine {s : State} (hdeg : s.clk.hsDegraded = true) (hfabric : s.m.fs.boot.up = true) :
    ∃ t, exec (.delayLineLeave false) s = .next t ∧ Apart { s with clk := s.clk.hsLeave } t [] [17] ∧
      t.hostIs s.m.hs ∧ t.fabricIs s.m.fs := by
  have hdone : (start { s with clk := s.clk.hsLeave }).leaveDelayLine false =
      (start { s with clk := s.clk.hsLeave }).event 17 0x0003 true 0 0 := by
    rw [leaveDelayLine_host, hsStatus_up hfabric]
  obtain ⟨t, hrun, hapart, hfab, hhs⟩ := run_apart { s with clk := s.clk.hsLeave }
    (fun w => w.leaveDelayLine false) [] [17] [] (by simp [hdone, Fx.within]) (by simp [hdone])
  simp only [hdone] at hfab hhs
  exact ⟨t, (exec_delayLineLeave_host hdeg).trans hrun, hapart, hhs, hfab⟩

/-- Settles O11: an edge is one addition or nothing; each end of delay-line time is its new clocks and a command whose only
effect is the side's own event. -/
theorem delayLineTimeIsEnteredAndLeft : Obligations.DelayLineTimeIsEnteredAndLeft := by
  unfold Obligations.DelayLineTimeIsEnteredAndLeft
  refine ⟨?_, ?_, ?_, ?_, ?_, ?_, ?_, ?_, ?_, ?_⟩
  · intro s hup hshut hdeg
    simp [exec_trefEdge, trefEdge_fabric, hup, hshut, hdeg]
  · intro s hup hdeg
    simp [exec_trefEdge, trefEdge_host, hup, hdeg]
  · rintro s (hdeg | hdown)
    · simp [exec_trefEdge, trefEdge_fabric, hdeg]
    · simp [exec_trefEdge, trefEdge_fabric, hdown]
  · rintro s (hdeg | hdown)
    · simp [exec_trefEdge, trefEdge_host, hdeg]
    · simp [exec_trefEdge, trefEdge_host, hdown]
  · intro s freq est hup hshut hdeg hhost
    exact fabric_enters_delayLine freq est hup hshut hdeg hhost
  · intro s freq est hup hdeg hfabric
    exact host_enters_delayLine freq est hup hdeg hfabric
  · intro s hdeg
    exact fabric_leaves_delayLine hdeg
  · intro s hdeg hfabric
    exact host_leaves_delayLine hdeg hfabric
  · intro s freq est hdeg hup hshut
    exact exec_delayLineEnter_fabric_again freq est hup hshut hdeg
  · intro s hdeg
    exact exec_delayLineLeave_fabric_on_tref hdeg

/-! The speed index (R52 to R54). -/

/-- The recomputations with the one that gives `new`, oldest first (R53). -/
def Work.indexHistory (w : Work) (new : Nat) : List (Nat × Nat) := w.m.fs.speed.recent ++ [(w.now, new)]

/-- The recomputations of the preceding 20 µs (R53). -/
def Work.indexWindow (w : Work) (new : Nat) : List (Nat × Nat) :=
  (w.indexHistory new).filter fun (t, _) => !w.fired t 200

/-- The recomputations before that (R53). -/
def Work.indexOlder (w : Work) (new : Nat) : List (Nat × Nat) :=
  (w.indexHistory new).filter fun (t, _) => w.fired t 200

/-- The index that a recomputation leaves: lower at once, higher only after a window of higher values (R53). -/
def Work.nextIndex (w : Work) (new : Nat) : Nat :=
  if new < w.m.fs.speed.idx then new
  else if w.m.fs.speed.idx < new ∧ !(w.indexOlder new).isEmpty ∧
      (w.indexWindow new).all (fun (_, v) => w.m.fs.speed.idx < v) then minOf new ((w.indexWindow new).map (·.2))
  else w.m.fs.speed.idx

theorem nextIndex_of_lt {w : Work} {new : Nat} (h : new < w.m.fs.speed.idx) : w.nextIndex new = new := if_pos h

theorem nextIndex_self (w : Work) : w.nextIndex w.m.fs.speed.idx = w.m.fs.speed.idx := by simp [Work.nextIndex]

theorem le_nextIndex {w : Work} {new : Nat} (h : w.m.fs.speed.idx ≤ new) : w.m.fs.speed.idx ≤ w.nextIndex new := by
  unfold Work.nextIndex
  rw [if_neg (Nat.not_lt.2 h)]
  split
  next hrise =>
    refine le_minOf h fun x hx => ?_
    obtain ⟨e, he, rfl⟩ := List.mem_map.1 hx
    exact Nat.le_of_lt (by simpa using List.all_eq_true.1 hrise.2.2 e he)
  next => exact Nat.le_refl _

/-- A timer that has fired at its own start has no time to wait for, as every timer then (R86). -/
theorem fired_of_fired_now {w : Work} {t : Nat} (ht : 0 < t) (h : w.fired w.now t = true) (since : Nat) :
    w.fired since t = true := by
  have hkhz : w.khz = 0 := by
    simp only [Work.fired, Work.firedAt, Nat.sub_self, Nat.mul_zero, Nat.zero_sub, Nat.zero_mul, Nat.le_zero,
      decide_eq_true_eq, Nat.mul_eq_zero] at h
    omega
  simp [Work.fired, Work.firedAt, hkhz]

/-- The window holds the value that has just been computed, or nothing at all. -/
theorem mem_indexWindow_or_nil (w : Work) (new : Nat) : (w.now, new) ∈ w.indexWindow new ∨ w.indexWindow new = [] := by
  cases h : w.fired w.now 200 with
  | false => exact .inl (List.mem_filter.2 ⟨by simp [Work.indexHistory], by simp [h]⟩)
  | true => exact .inr (List.filter_eq_nil_iff.2 fun e _ => by simp [fired_of_fired_now (by decide) h e.1])

theorem minOf_indexWindow_le (w : Work) (new : Nat) : minOf new ((w.indexWindow new).map (·.2)) ≤ new := by
  rcases mem_indexWindow_or_nil w new with h | h
  · exact minOf_le_of_mem new (List.mem_map.2 ⟨_, h, rfl⟩)
  · rw [h]; exact Nat.le_refl new

theorem nextIndex_le {w : Work} {new : Nat} (h : w.m.fs.speed.idx ≤ new) : w.nextIndex new ≤ new := by
  unfold Work.nextIndex
  rw [if_neg (Nat.not_lt.2 h)]
  split
  next => exact minOf_indexWindow_le w new
  next => exact h

/-- The speed unit after a recomputation from the lowest reading `low` (R52 to R55). -/
def Work.recomputedSpeed (w : Work) (low : Nat) : Speed :=
  let idx := w.nextIndex (low * 15 / 16)
  { w.m.fs.speed with
    meas := low, idx := idx
    recent := (w.indexOlder (low * 15 / 16)).drop ((w.indexOlder (low * 15 / 16)).length - 1) ++ w.indexWindow (low * 15 / 16)
    tgl := if idx = w.m.fs.speed.idx then w.m.fs.speed.tgl else !w.m.fs.speed.tgl
    underrunSeen := w.m.fs.speed.underrunSeen || decide (low < w.m.fs.speed.idx)
    underrunHold := w.m.fs.speed.underrunHold || decide (low < w.m.fs.speed.idx)
    underrunAt := if low < w.m.fs.speed.idx then w.now else w.m.fs.speed.underrunAt }

/-- A recomputation logs the first underrun and writes the speed unit (R54). -/
theorem speedRecompute_eq {w : Work} {l : List Nat} {low : Nat} (hcal : w.m.fs.speed.calDone = true) (hmem : low ∈ l)
    (hle : ∀ x ∈ l, low ≤ x) (hlow : low < 2 ^ 16) :
    w.speedRecompute l =
      (if (decide (low < w.m.fs.speed.idx) && !w.m.fs.speed.underrunSeen) = true then
        w.event 16 0x0001 true low w.m.fs.speed.idx else w).modFs fun f => { f with speed := w.recomputedSpeed low } := by
  have hmin : minOf 0 l % 2 ^ 16 = low := by rw [minOf_eq_of_least 0 hmem hle, Nat.mod_eq_of_lt hlow]
  unfold Work.speedRecompute
  simp only [Work.fs_eq, hcal, hmin, Bool.not_true, Bool.false_eq_true, if_false]
  split <;> rfl

theorem exec_speedRecompute {s : State} {l : List Nat} {low : Nat} (h : Awake s) (hcal : s.m.fs.speed.calDone = true)
    (hmem : low ∈ l) (hle : ∀ x ∈ l, low ≤ x) (hlow : low < 2 ^ 16) :
    ∃ t, exec (.speedRecompute l) s = .next t ∧ Apart s t [] [16] ∧ t.hostIs s.m.hs ∧
      t.fabricIs { s.m.fs with speed := (start s).recomputedSpeed low } := by
  have hdone := speedRecompute_eq (w := start s) hcal hmem hle hlow
  obtain ⟨t, hrun, hapart, hfab, hhs⟩ := run_apart s (fun w => w.speedRecompute l) [] [16] []
    (by rw [hdone]; split <;> simp [Fx.within]) (by rw [hdone]; split <;> simp)
  refine ⟨t, (atUnit_powered_awake h _ _).trans hrun, hapart, ?_, ?_⟩
  · simp only [hdone] at hhs
    split at hhs <;> exact hhs
  · simp only [hdone] at hfab
    split at hfab <;> exact hfab

/-! The end of an underrun's hold (R55), and the temperature (R902). -/

theorem underrunHoldClear_eq {w : Work} (h : w.m.fs.speed.underrunHold = true) :
    w.underrunHoldClear = w.modFs fun f => { f with speed := { f.speed with
      underrunHold := !w.fired w.m.fs.speed.underrunAt 1000 } } := by
  unfold Work.underrunHoldClear
  cases hfired : w.fired w.m.fs.speed.underrunAt 1000 with
  | true => simp [h, hfired]
  | false =>
    have same : ({ w.m.fs.speed with underrunHold := true } : Speed) = w.m.fs.speed := by rw [← h]
    simp [hfired, Work.modFs, same]

theorem thermUpdate_eq {l : List Nat} {hot : Nat} (w : Work) (hmem : hot ∈ l) (hle : ∀ x ∈ l, x ≤ hot) (hhot : hot < 256) :
    w.thermUpdate l = w.modFs fun f => { f with speed := { f.speed with therm := hot, thermTgl := !f.speed.thermTgl } } := by
  rw [Work.thermUpdate, maxOf_eq_of_greatest hmem hle, Nat.mod_eq_of_lt hhot]

/-- A command that only changes the fabric side, and not its horn. -/
theorem run_modFs (s : State) (f : Work → Work) (g : FabricSide → FabricSide) (hf : f (start s) = (start s).modFs g)
    (hhorn : (g s.m.fs).horn = s.m.fs.horn) :
    ∃ t, run s f = .next t ∧ Apart s t [] [] ∧ t.hostIs s.m.hs ∧ t.fabricIs (g s.m.fs) := by
  obtain ⟨t, hrun, hapart, hfab, hhs⟩ := run_apart s f [] [] [] (by simp [hf]) (by simp [hf, hhorn])
  rw [hf] at hfab hhs
  exact ⟨t, hrun, hapart, hhs, hfab⟩

/-- Settles O12: the recomputed speed unit by the three orders of the new index and the one in force, the hold by its timer,
the temperature by the greatest code. -/
theorem readingsMoveTheSpeedIndex : Obligations.ReadingsMoveTheSpeedIndex := by
  unfold Obligations.ReadingsMoveTheSpeedIndex
  refine ⟨?_, ?_, ?_⟩
  · intro s l low hawake hcal _ hbound hmem hle old new
    obtain ⟨t, hexec, hapart, hhs, hfab⟩ := exec_speedRecompute hawake hcal hmem hle (hbound low hmem)
    have hspeed : t.m.fs.speed = (start s).recomputedSpeed low := speed_of_fabricIs hfab
    have hidx : t.m.fs.speed.idx = (start s).nextIndex new := by rw [hspeed]; rfl
    refine ⟨t, hexec, hapart, hhs, hspeed ▸ hfab, by rw [hspeed]; rfl, ?_, ?_, ?_, ?_, ?_, ?_⟩
    · intro hlt
      rw [hidx, nextIndex_of_lt hlt]
    · intro heq
      rw [hidx, heq]
      exact nextIndex_self (start s)
    · intro hlt
      rw [hidx]
      exact ⟨le_nextIndex (w := start s) (Nat.le_of_lt hlt), nextIndex_le (w := start s) (Nat.le_of_lt hlt)⟩
    · rw [hspeed]
      rfl
    · intro hunder
      have hlt : low < s.m.fs.speed.idx := hunder
      simp [hspeed, Work.recomputedSpeed, hlt, Work.now]
    · intro hnot
      have hge : ¬ low < s.m.fs.speed.idx := Nat.not_lt.2 hnot
      simp [hspeed, Work.recomputedSpeed, hge]
  · intro s hawake hhold
    obtain ⟨t, hrun, hrest⟩ := run_modFs s Work.underrunHoldClear _ (underrunHoldClear_eq (w := start s) hhold) rfl
    exact ⟨t, (atUnit_powered_awake hawake _ _).trans hrun, hrest⟩
  · intro s l hot hawake hbound hmem hle
    obtain ⟨t, hrun, hrest⟩ := run_modFs s (fun w => w.thermUpdate l) _
      (thermUpdate_eq (start s) hmem hle (hbound hot hmem)) rfl
    exact ⟨t, (atUnit_powered_awake hawake _ _).trans hrun, hrest⟩

end Sys2Proof.Machine
end

section
/-! PROOFS. Opcodes: QUERY (R187), and the end of a hold that an F2 tear-down has waited for (R214, R825, R867). -/

namespace Sys2Proof.Machine

/-! QUERY (R187). -/

theorem Passed.queryResult {w v : Work} (h : Passed w v) (slot : Nat) : v.queryResult slot = w.queryResult slot := by
  simp only [Work.queryResult, h.entry, h.remaining]

/-- A handle that names an entry is answered from that entry. -/
theorem actQuery_of_entry {w : Work} {i : QItem} {slot : Nat} (hready : w.readyFor opQuery = true)
    (hentry : w.resolve i.pkt.ctx.toNat (Work.handleOf i.pkt) = .entry slot) :
    w.actQuery i = (w, .answer { result := w.queryResult slot }) := by
  simp only [Work.actQuery, Work.onHandle, hentry, hready, if_true]

/-- The unit of an accepted QUERY that names an entry answers what the entry held when the packet came. -/
theorem act_query {s : State} {port slot : Nat} {p : Packet} (h : Accepted s port opQuery p)
    (hentry : (start s).resolve p.ctx.toNat (Work.handleOf p) = .entry slot) :
    (Work.acting s port opQuery p).act (arrived s port opQuery p) =
      (Work.acting s port opQuery p, .answer { result := (start s).queryResult slot }) := by
  have hpass := acting_passed s port opQuery p h.up
  have hunit : (Work.acting s port opQuery p).act (arrived s port opQuery p) =
      (Work.acting s port opQuery p).actQuery (arrived s port opQuery p) := act_accepted h
  rw [hunit, ← hpass.queryResult slot]
  exact actQuery_of_entry ((hpass.readyFor _).trans h.ready.2.1) ((hpass.resolve _ _).trans hentry)

/-- Settles O13: the unit of QUERY answers at once, from the entry that the handle names, and does nothing else. -/
theorem queryAnswersTheEntry : Obligations.QueryAnswersTheEntry := by
  unfold Obligations.QueryAnswersTheEntry
  intro s port p slot hacc hentry _
  obtain ⟨t, hexec, hans, hapart, hfab⟩ :=
    packet_answered hacc (by decide) [] [] [] (.inl rfl) _ _ (act_query hacc hentry) .rfl .rfl
  exact ⟨t, hexec, hapart, fabricIs_trans hfab (acting_passed s port opQuery p hacc.up).fs, hans⟩

/-! HORN_RELEASE while an F2 tear-down waits for the end of the hold. -/

/-- A held horn has kept back the tear-down of context 1, in which an F2 fault was found: nothing of the context is being
acted on and its stream is empty, and its sequence in slot 5 is still queued (R823, R867). -/
def tearDownHeld : State :=
  { m := {
      hs := { bootDone := true, ctxs := [(0, { HsCtx.initial 0 with key := some 7, lastPort := some 0 }),
        (1, { HsCtx.initial 1 with resetting := true, f2 := true })] }
      fs := { boot := { phase := .ready }, horn := { held := true, cut := 1 }
              rqt := [(5, { st := .queued, gen := 1, ctx := 1, fl := { issued := true } })] } } }

/-- The steward's HORN_RELEASE, signed with the key of context 0. -/
def releasePacket : Packet :=
  let p : Packet := { ctx := 0, cseq := 1, tag := 0, handle := 0, op := 0, mac := 0, body := [] }
  { p with mac := macOf 7 opHornRelease p }

theorem accepted_releasePacket :
    Accepted { tearDownHeld with m := { tearDownHeld.m with fs := { tearDownHeld.m.fs with
      horn := { tearDownHeld.m.fs.horn with held := false } } } } 0 opHornRelease releasePacket where
  port_ok := by decide
  up := rfl
  body_ok := by decide
  auth := by decide +kernel
  taken := by decide
  open_ := by decide
  fresh := by decide
  permitted := by decide
  idle := ⟨rfl, rfl⟩
  credits := by decide
  free := rfl
  ready := by decide
  pairing := rfl

theorem exec_releasePacket : exec (.hornRelease 0 releasePacket) tearDownHeld =
    .next (finish tearDownHeld ((start tearDownHeld).receive 0 opHornRelease releasePacket [])) := rfl

/-- The end of the hold lets the waiting tear-down go on, which ends the context's sequence (R825, R867). -/
theorem release_ends_sequence :
    ((start (finish tearDownHeld ((start tearDownHeld).receive 0 opHornRelease releasePacket []))).entry 5).st = .free := by
  decide +kernel

/-- Refutes O29: its clause on HORN_RELEASE keeps the fabric side but for the horn and says nothing of F2 faults. The end of
the hold also does what waited for it: at `tearDownHeld` the tear-down of context 1 frees the entry of its sequence. -/
theorem not_hornsRecordEveryUnitAndEnd : ¬ Obligations.HornsRecordEveryUnitAndEnd := by
  unfold Obligations.HornsRecordEveryUnitAndEnd
  rintro ⟨-, ⟨-, hrelease, -⟩, -⟩
  obtain ⟨t, hexec, hfab, -⟩ := hrelease tearDownHeld 0 releasePacket accepted_releasePacket rfl (by decide)
  have hend : finish tearDownHeld _ = t := Host.Outcome.next.inj (exec_releasePacket.symm.trans hexec)
  have hrqt : t.m.fs.rqt = tearDownHeld.m.fs.rqt := (congrArg FabricSide.rqt hfab :)
  have hqueued : ((start t).entry 5).st = .queued := by
    rw [Work.entry, Work.fs_eq, start_m, hrqt]
    rfl
  have hfree : ((start t).entry 5).st = .free := hend ▸ release_ends_sequence
  exact SeqState.noConfusion (hqueued.symm.trans hfree)

end Sys2Proof.Machine
end

section
/-! PROOFS. A packet whose unit changes nothing: how it is answered, CREDIT included, and how a violation that the unit finds
freezes its context (R118, R122, R130 to R133). -/

namespace Sys2Proof.Machine

/-! CREDIT bypasses its queue (R118). -/

theorem modHctx_congr {w : Work} {c : Nat} {f g : HsCtx → HsCtx} (h : f (w.hctx c) = g (w.hctx c)) :
    w.modHctx c f = w.modHctx c g := by
  simp only [Work.hctx, Work.hs_eq] at h
  simp only [Work.modHctx, Work.modHs, Tbl.modD, h]

/-- An accepted CREDIT stands alone in its queue, and its unit takes it from there. -/
theorem admitted_credit {s : State} {port : Nat} {p : Packet} (h : Accepted s port opCredit p) :
    (((start s).admitPacket port opCredit p []).hctx p.ctx.toNat).queue = [arrived s port opCredit p] ∧
    ((start s).admitPacket port opCredit p []).hornHolds (arrived s port opCredit p) = false ∧
    ((start s).admitPacket port opCredit p []).modHctx p.ctx.toNat (fun x => { x with queue := x.queue.dropLast }) =
      (start s).taken port opCredit p [] := by
  rw [admit_accepted h]
  generalize hv : (((start s).keyed port opCredit p).modHctx p.ctx.toNat fun h =>
    { h with hiSeq := p.cseq, hiMac := some p.mac, lastPort := some port }).forwardCommand (arrived s port opCredit p) = v
  have hempty : (v.hctx p.ctx.toNat).queue = [] := by
    have hk := keyed_ctx (start s) port opCredit p h.up p.ctx.toNat
    rw [← hv, hctx_congr (forwardCommand_keeps _ _).1, hctx_modHctx_self]
    exact hk.queue.trans h.idle.1
  have hpass : Passed (start s) (v.enqueue (arrived s port opCredit p)) := by
    rw [← hv]
    exact (((keyed_passed (start s) port opCredit p h.up).trans (.modHctx _ _ _)).trans (.forwardCommand _ _)).trans
      (.modHctx _ _ _)
  refine ⟨?_, ?_, ?_⟩
  · show ((v.modHctx p.ctx.toNat fun x => { x with queue := x.queue ++ [arrived s port opCredit p] }).hctx _).queue = _
    rw [hctx_modHctx_self, hempty]
    rfl
  · rw [hpass.hornHolds]
    simp [Work.hornHolds, h.free]
  · show (v.modHctx p.ctx.toNat fun x => { x with queue := x.queue ++ [arrived s port opCredit p] }).modHctx _ _ = _
    rw [modHctx_modHctx, modHctx_congr (g := fun x => { x with queue := [] }) (by simp [hempty]), ← hv]
    rfl

theorem taken_fabricTakes_credit {s : State} {port : Nat} {p : Packet} (h : Accepted s port opCredit p) :
    ((start s).taken port opCredit p []).fabricTakes (arrived s port opCredit p) = true := by
  rw [(taken_passed (start s) port opCredit p [] h.up).fabricTakes]
  simp [Work.fabricTakes, h.ready.1, arrived, show opCredit ≠ opPing by decide]

theorem creditFirst_violates {s : State} {port x : Nat} {p : Packet} (h : Accepted s port opCredit p)
    (hact : (Work.acting s port opCredit p).act (arrived s port opCredit p) =
      (Work.acting s port opCredit p, .violate x)) :
    ((start s).admitPacket port opCredit p []).creditFirst p.ctx.toNat =
      (Work.acting s port opCredit p).violation (arrived s port opCredit p) x := by
  have hunit : ((start s).taken port opCredit p []).actCredit (arrived s port opCredit p) =
      (Work.acting s port opCredit p, .violate x) := (act_accepted h).symm.trans hact
  obtain ⟨hqueue, hhorn, hpop⟩ := admitted_credit h
  have hop : (arrived s port opCredit p).opcode = opCredit := rfl
  have hnew : (arrived s port opCredit p).answer = none := rfl
  simp [Work.creditFirst, hqueue, hhorn, hpop, hop, hnew, taken_fabricTakes_credit h, hunit]

theorem creditFirst_answers {s : State} {port : Nat} {p : Packet} {a : Ans} (h : Accepted s port opCredit p)
    (hact : (Work.acting s port opCredit p).act (arrived s port opCredit p) =
      (Work.acting s port opCredit p, .answer a)) :
    ((start s).admitPacket port opCredit p []).creditFirst p.ctx.toNat =
      (Work.acting s port opCredit p).enqueue
        { arrived s port opCredit p with answer := some (replyTo opCredit p a) } := by
  have hunit : ((start s).taken port opCredit p []).actCredit (arrived s port opCredit p) =
      (Work.acting s port opCredit p, .answer a) := (act_accepted h).symm.trans hact
  obtain ⟨hqueue, hhorn, hpop⟩ := admitted_credit h
  have hop : (arrived s port opCredit p).opcode = opCredit := rfl
  have hnew : (arrived s port opCredit p).answer = none := rfl
  have hpkt : (arrived s port opCredit p).pkt = p := rfl
  simp [Work.creditFirst, hqueue, hhorn, hpop, hop, hnew, hpkt, taken_fabricTakes_credit h, hunit]

/-! An accepted packet whose unit changes nothing itself. -/

theorem acting_hctx (s : State) (port op : Nat) (p : Packet) (d : Nat) :
    (Work.acting s port op p).hctx d = ((start s).taken port op p []).hctx d :=
  hctx_congr (congrArg Machine.hs (boundary_m _ _)) d

/-- The packet's own context as its unit begins. -/
theorem acting_self (s : State) (port op : Nat) (p : Packet) (hup : s.m.hs.up = true) :
    CtxSame { (start s).hctx p.ctx.toNat with lastPort := some port, hiSeq := p.cseq, hiMac := some p.mac, queue := [] }
      ((Work.acting s port op p).hctx p.ctx.toNat) := by
  have hctx := taken_ctx (start s) port op p [] hup p.ctx.toNat
  rwa [if_pos rfl, ← acting_hctx] at hctx

theorem acting_other {s : State} {p : Packet} {d : Nat} (port op : Nat) (hup : s.m.hs.up = true) (hd : d ≠ p.ctx.toNat) :
    CtxSame ((start s).hctx d) ((Work.acting s port op p).hctx d) := by
  have hctx := taken_ctx (start s) port op p [] hup d
  rwa [if_neg hd, ← acting_hctx] at hctx

theorem acting_accepted (s : State) (port op : Nat) (p : Packet) (hup : s.m.hs.up = true) :
    ((Work.acting s port op p).hctx p.ctx.toNat).accepted =
      ((start s).hctx p.ctx.toNat).accepted + (if (start s).authOf op p = .current then 1 else 0) := by
  rw [acting_hctx, taken_accepted s port op p [] hup]
  simp

theorem acting_side (s : State) (port op : Nat) (p : Packet) (hup : s.m.hs.up = true) :
    (Work.acting s port op p).m.hs = { s.m.hs with
      ctxs := (Work.acting s port op p).m.hs.ctxs, skipping := s.m.hs.skipping.filter (· ≠ port) } := by
  have hskip : (Work.acting s port op p).m.hs.skipping = s.m.hs.skipping.filter (· ≠ port) := by
    rw [Work.acting, boundary_m]
    exact taken_skipping (start s) port op p [] hup
  rw [← hskip]
  exact (acting_passed s port op p hup).side

theorem acting_messages (s : State) (port op : Nat) (p : Packet) (hup : s.m.hs.up = true) (d : Nat) :
    ((Work.acting s port op p).hctx d).stream.map (·.msg) =
      messages s d ++ (if d = 0 then (keyNotices s op p).map .reply else []) := by
  rw [acting_hctx]
  exact taken_messages s port op p [] hup d

theorem serveCtx_of_empty {w : Work} {c : Nat} (h : (w.hctx c).queue = []) : w.serveCtx c = w := by
  rw [Work.serveCtx, h]
  rfl

/-- A context that a packet has frozen: the violation is kept, and the notice has joined the stream (R130). -/
def HsCtx.violated (x : HsCtx) (vclass : Nat) (cseq : Word) (i : StreamItem) : HsCtx :=
  { x with frozen := true, lastVclass := vclass, lastVseq := cseq, stream := x.stream ++ [i] }

/-- A command in which a packet has frozen its context: the FREEZE event is its newest effect (R130). -/
def Work.violated (w : Work) (c vclass : Nat) (cseq : Word) (i : StreamItem) : Work :=
  (w.modHctx c fun x => x.violated vclass cseq i).event 17 0x0010 true (c + vclass * 256) cseq.toNat

theorem violated_hctx_self (w : Work) (c vclass : Nat) (cseq : Word) (i : StreamItem) :
    (w.violated c vclass cseq i).hctx c = (w.hctx c).violated vclass cseq i := hctx_modHctx_self w c _

theorem violated_fx (w : Work) (c vclass : Nat) (cseq : Word) (i : StreamItem) :
    (w.violated c vclass cseq i).fx = .event 17 0x0010 true (c + vclass * 256) cseq.toNat :: w.fx := rfl

theorem dropFrom_of_empty {w : Work} {c : Nat} {f : HsCtx → HsCtx} (q : QItem → Bool)
    (h : (f (w.hctx c)).queue = []) : (w.modHctx c f).dropFrom c q = w.modHctx c f := by
  unfold Work.dropFrom
  extract_lets gone
  rw [modHctx_modHctx, hctx_modHctx_self, h]
  refine modHctx_congr ?_
  show { f (w.hctx c) with queue := (f (w.hctx c)).queue.filter fun i => !gone i } = f (w.hctx c)
  rw [h, List.filter_nil, ← h]

/-- The freeze of an open context in which nothing waits (R130, R131). -/
theorem freezeCtx_open {w : Work} {c : Nat} (vclass : Nat) (cseq : Word) (hup : w.m.hs.up = true)
    (hopen : (w.hctx c).frozen = false) (hqueue : (w.hctx c).queue = []) :
    ∃ i : StreamItem, i.msg = .reply { status := stFrozen, ctx := c, cseq := cseq.toNat, vclass := vclass, kind := 1 } ∧
      w.freezeCtx c vclass cseq = w.violated c vclass cseq i := by
  unfold Work.freezeCtx
  simp only [hopen, Bool.false_eq_true, if_false]
  rw [dropFrom_of_empty _ (by exact hqueue), notice_up _ _ _ (by exact hup)]
  exact ⟨_, by rfl, congrArg (fun v : Work => v.event 17 0x0010 true (c + vclass * 256) cseq.toNat)
    (modHctx_modHctx w c _ _)⟩

/-- A packet whose unit finds a violation freezes its context, and nothing else happens after the unit began. -/
theorem receive_violation {s : State} {port op x : Nat} {p : Packet} (h : Accepted s port op p)
    (hact : (Work.acting s port op p).act (arrived s port op p) = (Work.acting s port op p, .violate x)) :
    ∃ i : StreamItem,
      i.msg = .reply { status := stFrozen, ctx := p.ctx.toNat, cseq := p.cseq.toNat, vclass := x, kind := 1 } ∧
      (start s).receive port op p [] = (Work.acting s port op p).violated p.ctx.toNat x p.cseq i := by
  have hup : (Work.acting s port op p).m.hs.up = true := (acting_passed s port op p h.up).up.trans h.up
  have hctx := acting_self s port op p h.up
  obtain ⟨i, hmsg, hfreeze⟩ := freezeCtx_open x p.cseq hup (hctx.frozen.trans h.open_.2) hctx.queue
  refine ⟨i, hmsg, ?_⟩
  rw [← hfreeze]
  by_cases hop : op = opCredit
  · subst hop
    rw [Work.receive, if_neg (by simp [h.up])]
    show Work.serveCtx _ p.ctx.toNat = _
    rw [creditFirst_violates h hact]
    refine serveCtx_of_empty ?_
    show (((Work.acting s port opCredit p).freezeCtx p.ctx.toNat x p.cseq).hctx p.ctx.toNat).queue = _
    rw [hfreeze, violated_hctx_self]
    exact hctx.queue
  · rw [receive_accepted h hop]
    exact actOn_violate hact

/-- A packet that is enqueued with its answer, alone in its queue, is replied to. -/
theorem serveCtx_answered {w : Work} {i : QItem} {r : Reply} (hqueue : (w.hctx i.pkt.ctx.toNat).queue = [])
    (hidle : (w.hctx i.pkt.ctx.toNat).acting = none) (hanswer : i.answer = some r) :
    (w.enqueue i).serveCtx i.pkt.ctx.toNat =
      (w.modHctx i.pkt.ctx.toNat fun x => { x with queue := [] }).reply i r := by
  have hctx : (w.enqueue i).hctx i.pkt.ctx.toNat = { w.hctx i.pkt.ctx.toNat with queue := [i] } := by
    rw [Work.enqueue, hctx_modHctx_self, hqueue]
    rfl
  have hpop : (w.enqueue i).modHctx i.pkt.ctx.toNat (fun x => { x with queue := [] }) =
      w.modHctx i.pkt.ctx.toNat fun x => { x with queue := [] } := modHctx_modHctx w _ _ _
  simp [Work.serveCtx, Work.serve, hctx, hidle, hanswer, hpop]

/-- A CREDIT that its unit answers, changing nothing: its reply takes its place through the queue (R122). -/
theorem receive_credit_answer {s : State} {port : Nat} {p : Packet} {a : Ans} (h : Accepted s port opCredit p)
    (hact : (Work.acting s port opCredit p).act (arrived s port opCredit p) = (Work.acting s port opCredit p, .answer a)) :
    (start s).receive port opCredit p [] =
      (Work.acting s port opCredit p).reply (arrived s port opCredit p) (replyTo opCredit p a) := by
  have hctx := acting_self s port opCredit p h.up
  rw [Work.receive, if_neg (by simp [h.up])]
  show Work.serveCtx _ p.ctx.toNat = _
  rw [creditFirst_answers h hact]
  have hpop : (Work.acting s port opCredit p).modHctx p.ctx.toNat (fun x => { x with queue := [] }) =
      Work.acting s port opCredit p := modHctx_modHctx _ _ _ _
  exact (serveCtx_answered hctx.queue (hctx.acting.trans h.idle.2) rfl).trans
    (congrArg (fun w : Work => w.reply (arrived s port opCredit p) (replyTo opCredit p a)) hpop)

/-! The log of the freeze (R814). -/

/-- What frames to the twin bring to the stores reaches no head but that of ring 16 (R793). -/
theorem applyObs_toTwin_head {w : Work} {e : Fx} {ring : Nat} (o : Obs) (h : e.toTwin = true) (hring : ring ≠ 16) :
    (w.applyObs e o).head.getD ring 0 = o.head.getD ring 0 := by
  cases e with
  | frame k f => rfl
  | count off n =>
    show (w.addCtr o off n).head.getD ring 0 = _
    unfold Work.addCtr
    split
    · rfl
    · dsimp only
      split
      · rfl
      · unfold Work.satCtr
        split
        · rfl
        · exact Tbl.getD_set_ne _ _ _ hring
  | _ => simp [Fx.toTwin] at h

theorem applyAll_toTwin_head {w : Work} {l : List Fx} {ring : Nat} (o : Obs) (h : ∀ e ∈ l, e.toTwin = true)
    (hring : ring ≠ 16) : (w.applyAll l o).head.getD ring 0 = o.head.getD ring 0 := by
  induction l with
  | nil => rfl
  | cons e l ih =>
    rw [← ih fun x hx => h x (List.mem_cons_of_mem _ hx)]
    exact applyObs_toTwin_head _ (h e List.mem_cons_self) hring

theorem logEvent_newest (w : Work) (o : Obs) (ring code a0 a1 : Nat) :
    ∃ r, (w.logEvent o ring code a0 a1).recs.get?
        (ring * 256 + (w.logEvent o ring code a0 a1).head.getD ring 0 % 256) = some r ∧
      r.code = code ∧ r.arg0 = a0 ∧ r.arg1 = a1 := by
  unfold Work.logEvent
  simp

/-- The event that a command logs last is the newest of its ring when the command has ended. -/
theorem settle_newest (s : State) {w : Work} {ring code a0 a1 : Nat} {l : List Fx}
    (hfx : w.fx = .event ring code true a0 a1 :: l) (hring : ring ≠ 16) :
    ∃ r, (s.settle w).obs.recs.get? (ring * 256 + (s.settle w).obs.head.getD ring 0 % 256) = some r ∧
      r.code = code ∧ r.arg0 = a0 ∧ r.arg1 = a1 := by
  obtain ⟨m, hm, hx⟩ := (mirror_twinOnly { w with obs := w.applyAll w.fx s.obs, fx := [] } s.m s.obs).fx
  rw [List.append_nil] at hm
  have hlog : w.applyAll w.fx s.obs = w.logEvent (w.applyAll l s.obs) ring code a0 a1 := by
    rw [hfx]
    rfl
  unfold State.settle
  simp only [hm]
  rw [applyAll_toTwin_head _ hx hring, (applyAll_apart (ctrs := []) (rings := []) (ctxs := []) _ m _ fun e he =>
    Fx.within_of_toTwin (hx e he)).recs _ (by simp) (by omega), hlog]
  exact logEvent_newest w _ ring code a0 a1

/-! How such a packet's command ends. -/

theorem acting_calm (s : State) (port op : Nat) (p : Packet) : (Work.acting s port op p).calm := by
  obtain ⟨l, hl, hx⟩ := acting_grows s port op p [p.ctx.toNat] (.inr List.mem_cons_self)
  exact calm_of_within _ (by rw [hl]; simpa using hx)

/-- An accepted packet's command ends as what its arrival has done settles. -/
theorem packet_settles {s : State} {port op : Nat} {p : Packet} {w : Work} (h : Accepted s port op p)
    (hrec : (start s).receive port op p [] = w) (hcalm : w.calm) :
    packet s port op p = .next (s.settle w) ∧ (s.settle w).fabricIs w.m.fs ∧ (s.settle w).hostIs w.m.hs := by
  subst hrec
  obtain ⟨t, rfl, hrun, hfab, hhost⟩ := run_sides s (fun w => w.receive port op p []) hcalm (by simp [h.free])
  refine ⟨?_, hfab, hhost⟩
  unfold packet onHostPort
  rw [if_pos h.port_ok]
  exact hrun

/-! What the end of a command says of single words of a context. -/

section
variable {α : Type} (φ : HsCtx → α) (hφ : ∀ x, φ x.unneeded = φ x) {t : State}
include hφ

/-- A word that is not about frames stands as the command left it. -/
theorem word_of_hostIs {w : Work} (h : t.hostIs w.m.hs) (d : Nat) : φ ((start t).hctx d) = φ (w.hctx d) := by
  rw [← hφ, hctx_of_hostIs h, hφ]

theorem word_of_modHctx_self {w : Work} {c : Nat} {g : HsCtx → HsCtx} (h : t.hostIs (w.modHctx c g).m.hs) :
    φ ((start t).hctx c) = φ (g (w.hctx c)) := by
  rw [word_of_hostIs φ hφ h, hctx_modHctx_self]

theorem word_of_modHctx_ne {w : Work} {c d : Nat} {g : HsCtx → HsCtx} (h : t.hostIs (w.modHctx c g).m.hs) (hd : d ≠ c) :
    φ ((start t).hctx d) = φ (w.hctx d) := by
  rw [word_of_hostIs φ hφ h, hctx_modHctx_ne w g hd]

end

/-- The messages of the streams, where one item has joined the stream of the packet's context. -/
theorem messages_of_joined {s t : State} {port op : Nat} {p : Packet} {i : StreamItem} {g : HsCtx → HsCtx}
    (hup : s.m.hs.up = true) (h : t.hostIs ((Work.acting s port op p).modHctx p.ctx.toNat g).m.hs)
    (hg : ∀ x, (g x).stream = x.stream ++ [i]) (d : Nat) :
    messages t d = messages s d ++ (if d = 0 then (keyNotices s op p).map .reply else []) ++
      (if d = p.ctx.toNat then [i.msg] else []) := by
  have hφ : ∀ x : HsCtx, x.unneeded.stream.map (·.msg) = x.stream.map (·.msg) := fun x => by simp [HsCtx.unneeded]
  rw [← acting_messages s port op p hup d]
  by_cases hd : d = p.ctx.toNat
  · subst hd
    rw [if_pos rfl]
    refine (word_of_modHctx_self (fun x => x.stream.map (·.msg)) hφ h).trans ?_
    rw [hg]
    exact List.map_append
  · rw [if_neg hd, List.append_nil]
    exact word_of_modHctx_ne (fun x => x.stream.map (·.msg)) hφ h hd

/-- A packet's context is frozen once the violation stands, the notice has joined its stream and the event is logged. -/
theorem frozen_of_hostIs {s t : State} {port op x : Nat} {p : Packet} {i : StreamItem} (h : Accepted s port op p)
    (hmsg : i.msg = .reply { status := stFrozen, ctx := p.ctx.toNat, cseq := p.cseq.toNat, vclass := x, kind := 1 })
    (hhost : t.hostIs ((Work.acting s port op p).modHctx p.ctx.toNat fun h => h.violated x p.cseq i).m.hs)
    (hlog : ∃ r, t.obs.recs.get? (17 * 256 + t.obs.head.getD 17 0 % 256) = some r ∧ r.code = 0x10 ∧
      r.arg0 = p.ctx.toNat + x * 256 ∧ r.arg1 = p.cseq.toNat) : Frozen s t port op p x := by
  have hown := acting_self s port op p h.up
  refine ⟨⟨?_, ?_, ?_, ?_, ?_, ?_, ?_⟩, fun d => ?_, fun d => ?_, hlog⟩
  · exact word_of_modHctx_self (·.frozen) (fun _ => rfl) hhost
  · exact word_of_modHctx_self (·.lastVclass) (fun _ => rfl) hhost
  · exact word_of_modHctx_self (·.lastVseq) (fun _ => rfl) hhost
  · exact (word_of_modHctx_self (·.hiSeq) (fun _ => rfl) hhost).trans hown.hiSeq
  · exact (word_of_modHctx_self (·.queue) (fun _ => rfl) hhost).trans hown.queue
  · exact (word_of_modHctx_self (·.acting) (fun _ => rfl) hhost).trans (hown.acting.trans h.idle.2)
  · exact (word_of_modHctx_self (·.lastPort) (fun _ => rfl) hhost).trans hown.last
  · by_cases hd : d = p.ctx.toNat
    · subst hd
      exact ⟨(word_of_modHctx_self (·.key) (fun _ => rfl) hhost).trans hown.key.1,
        (word_of_modHctx_self (·.prevKey) (fun _ => rfl) hhost).trans hown.key.2, fun hne => absurd rfl hne⟩
    · have hsame := acting_other port op h.up hd
      exact ⟨(word_of_modHctx_ne (·.key) (fun _ => rfl) hhost hd).trans hsame.key.1,
        (word_of_modHctx_ne (·.prevKey) (fun _ => rfl) hhost hd).trans hsame.key.2, fun _ =>
        ⟨(word_of_modHctx_ne (·.frozen) (fun _ => rfl) hhost hd).trans hsame.frozen,
          (word_of_modHctx_ne (·.hiSeq) (fun _ => rfl) hhost hd).trans hsame.hiSeq,
          (word_of_modHctx_ne (·.queue) (fun _ => rfl) hhost hd).trans hsame.queue⟩⟩
  · rw [messages_of_joined h.up hhost (fun _ => rfl) d, hmsg]
    by_cases hd : d = p.ctx.toNat
    · simp only [hd, if_true]
    · simp only [hd, if_false]

/-- A packet that violates a check at its unit, which has changed nothing, freezes its context (R130 to R133). -/
theorem packet_frozen {s : State} {port op x : Nat} {p : Packet} (h : Accepted s port op p)
    (hact : (Work.acting s port op p).act (arrived s port op p) = (Work.acting s port op p, .violate x)) :
    ∃ t, packet s port op p = .next t ∧ t.fabricIs s.m.fs ∧ Frozen s t port op p x := by
  obtain ⟨i, hmsg, hrec⟩ := receive_violation h hact
  have hcalm : ((Work.acting s port op p).violated p.ctx.toNat x p.cseq i).calm := by
    intro b hb
    rcases List.mem_cons.1 (violated_fx _ _ _ _ _ ▸ hb) with hb | hb
    · cases hb
    · exact acting_calm s port op p b hb
  obtain ⟨hrun, hfab, hhost⟩ := packet_settles h hrec hcalm
  exact ⟨_, hrun, fabricIs_trans hfab (acting_passed s port op p h.up).fs, frozen_of_hostIs h hmsg hhost
    (settle_newest s (violated_fx _ _ _ _ _) (by decide))⟩

/-- A context whose stream a reply has joined. -/
def HsCtx.joined (x : HsCtx) (i : StreamItem) : HsCtx := { x with stream := x.stream ++ [i] }

/-- The words of a context that no answered packet changes. -/
def HsCtx.keptWords (x : HsCtx) : Option (BitVec 128) × Option (BitVec 128) × Bool × Nat × Option Nat × Bool :=
  (x.key, x.prevKey, x.frozen, x.sqDepth, x.nextDepth, x.f2)

theorem keptWords_of_same {a b : HsCtx} (h : CtxSame a b) : b.keptWords = a.keptWords := by
  simp only [HsCtx.keptWords, h.key, h.frozen, h.depth, h.f2]

theorem keptWords_eq {a b : HsCtx} (h : b.keptWords = a.keptWords) :
    b.key = a.key ∧ b.prevKey = a.prevKey ∧ b.frozen = a.frozen ∧ b.sqDepth = a.sqDepth ∧ b.nextDepth = a.nextDepth ∧
      b.f2 = a.f2 := by
  simpa only [HsCtx.keptWords, Prod.mk.injEq] using h

/-- A packet is answered once its reply, and nothing else since its unit began, has joined its context's stream. -/
theorem answered_of_hostIs {s t : State} {port op : Nat} {p : Packet} {a : Ans} {i : StreamItem} (h : Accepted s port op p)
    (hmsg : i.msg = .reply (replyTo op p a)) (hport : i.port = port) (hcredit : i.credit = true ↔ op ≠ opCredit)
    (hhost : t.hostIs ((Work.acting s port op p).modHctx p.ctx.toNat fun x => x.joined i).m.hs) :
    Answered s t port op p a := by
  have hown := acting_self s port op p h.up
  refine ⟨⟨⟨?_, ?_, ?_, ?_⟩, ?_, fun d hd => ?_, ?_⟩, fun d => ?_, ?_, fun d => ?_, ?_⟩
  · exact (word_of_modHctx_self (·.hiSeq) (fun _ => rfl) hhost).trans hown.hiSeq
  · exact (word_of_modHctx_self (·.hiMac) (fun _ => rfl) hhost).trans hown.hiMac
  · exact (word_of_modHctx_self (·.lastPort) (fun _ => rfl) hhost).trans hown.last
  · exact (word_of_modHctx_self (·.queue) (fun _ => rfl) hhost).trans hown.queue
  · exact (word_of_modHctx_self (·.accepted) (fun _ => rfl) hhost).trans (acting_accepted s port op p h.up)
  · have hsame := acting_other port op h.up hd
    exact ⟨(word_of_modHctx_ne (·.hiSeq) (fun _ => rfl) hhost hd).trans hsame.hiSeq,
      (word_of_modHctx_ne (·.queue) (fun _ => rfl) hhost hd).trans hsame.queue,
      (word_of_modHctx_ne (·.acting) (fun _ => rfl) hhost hd).trans hsame.acting⟩
  · rw [unheld_side hhost, Work.modHctx_hs, acting_side s port op p h.up]
  · refine keptWords_eq ?_
    by_cases hd : d = p.ctx.toNat
    · subst hd
      exact (word_of_modHctx_self HsCtx.keptWords (fun _ => rfl) hhost).trans (keptWords_of_same hown :)
    · exact (word_of_modHctx_ne HsCtx.keptWords (fun _ => rfl) hhost hd).trans
        (keptWords_of_same (acting_other port op h.up hd))
  · exact (word_of_modHctx_self (·.acting) (fun _ => rfl) hhost).trans (hown.acting.trans h.idle.2)
  · rw [messages_of_joined h.up hhost (fun _ => rfl) d, hmsg]
  · have hlast := word_of_modHctx_self (fun x => x.stream.getLast?.map fun i => (i.port, i.credit))
      (fun x => by simp [HsCtx.unneeded, List.getLast?_map, Function.comp_def]) hhost
    simp only [HsCtx.joined, List.getLast?_append, List.getLast?_singleton, Option.some_or, Option.map_some,
      Option.map_eq_some_iff] at hlast
    obtain ⟨j, hj, hij⟩ := hlast
    obtain ⟨hp, hc⟩ := Prod.mk.inj hij
    exact ⟨j, hj, hp.trans hport, by rw [hc]; exact hcredit⟩

/-- A CREDIT that its unit answers, changing nothing. -/
theorem credit_answered {s : State} {port : Nat} {p : Packet} {a : Ans} (h : Accepted s port opCredit p)
    (hact : (Work.acting s port opCredit p).act (arrived s port opCredit p) = (Work.acting s port opCredit p, .answer a)) :
    ∃ t, packet s port opCredit p = .next t ∧ t.fabricIs s.m.fs ∧ Answered s t port opCredit p a := by
  have hpass := acting_passed s port opCredit p h.up
  obtain ⟨u, hunit, hfs, hfx, n, hreply⟩ := reply_up (Work.acting s port opCredit p) (arrived s port opCredit p)
    (replyTo opCredit p a) (hpass.up.trans h.up)
  obtain ⟨i, hmsg, hport, hcredit, hrec⟩ : ∃ i : StreamItem, i.msg = .reply (replyTo opCredit p a) ∧ i.port = port ∧
      i.credit = false ∧ (start s).receive port opCredit p [] = u.modHctx p.ctx.toNat fun x => x.joined i :=
    ⟨_, rfl, rfl, rfl, (receive_credit_answer h hact).trans hreply⟩
  have hcalm : (u.modHctx p.ctx.toNat fun x => x.joined i).calm := fun b hb =>
    acting_calm s port opCredit p b (hfx ▸ hb)
  obtain ⟨hrun, hfab, hhost⟩ := packet_settles h hrec hcalm
  rw [Work.modHctx_hs, hunit.hs] at hhost
  exact ⟨_, hrun, fabricIs_trans (fabricIs_trans hfab hfs) hpass.fs,
    answered_of_hostIs h hmsg hport (by simp [hcredit]) hhost⟩

/-- A packet that its unit answers, changing nothing. -/
theorem packet_answered_unchanged {s : State} {port op : Nat} {p : Packet} {a : Ans} (h : Accepted s port op p)
    (hact : (Work.acting s port op p).act (arrived s port op p) = (Work.acting s port op p, .answer a)) :
    ∃ t, packet s port op p = .next t ∧ t.fabricIs s.m.fs ∧ Answered s t port op p a := by
  by_cases hop : op = opCredit
  · subst hop
    exact credit_answered h hact
  · obtain ⟨t, hrun, hans, -, hfab⟩ :=
      packet_answered h hop [] [] [p.ctx.toNat] (.inr List.mem_cons_self) _ _ hact .rfl .rfl
    exact ⟨t, hrun, fabricIs_trans hfab (acting_passed s port op p h.up).fs, hans⟩

end Sys2Proof.Machine
end

section
/-! PROOFS. Sequence handles: the rows of their resolution, and what a packet that names one comes to (R6, R148, R231). -/

namespace Sys2Proof.Machine

/-! The rows of R231. -/

/-- The first two rows: a slot that the configuration has not or that was never issued, or a generation still to come. -/
abbrev Work.handleUnissued (w : Work) (h : Nat) : Prop :=
  let e := w.entry (handleSlot h)
  let ahead := (handleGen h + 2 ^ 14 - e.gen) % 2 ^ 14
  w.idn.slots ≤ handleSlot h ∨ e.fl.issued = false ∨ (1 ≤ ahead ∧ ahead ≤ 8191)

theorem resolve_of_unissued {w : Work} {h : Nat} (c : Nat) (hrow : w.handleUnissued h) : w.resolve c h = .neverIssued := by
  unfold Work.resolve
  rcases hrow with hslot | hissued | hahead
  · simp [hslot]
  · simp [hissued]
  · simp only [hahead, and_self, if_true, ite_self]

theorem resolve_of_issued {w : Work} {h : Nat} (c : Nat) (hrow : ¬ w.handleUnissued h) :
    w.resolve c h = if handleGen h ≠ (w.entry (handleSlot h)).gen then .reissued
      else if (w.entry (handleSlot h)).ctx ≠ c ∧ c ≠ 0 then .foreign else .entry (handleSlot h) := by
  obtain ⟨hslot, hissued, hahead⟩ : ¬ _ ∧ ¬ _ ∧ ¬ _ := by simpa only [Work.handleUnissued, not_or] using hrow
  unfold Work.resolve
  simp only [hslot, hahead, eq_true_of_ne_false hissued, Bool.not_true, Bool.false_eq_true, or_self, if_false]

/-! What the units answer for a handle that names no entry. -/

/-- A tenant that names a sequence of another context, or none ever issued, violates its namespace (R6). -/
theorem onHandle_violates {w : Work} {p : Packet} {x : Nat} (o : Nat) (k : Nat → Work × Act) (hc : p.ctx.toNat ≠ 0)
    (hrow : w.resolve p.ctx.toNat x = .neverIssued ∨ w.resolve p.ctx.toNat x = .foreign) :
    w.onHandle p o x k = (w, .violate 0x03) := by
  rcases hrow with hrow | hrow
  · simp only [Work.onHandle, hrow, if_neg hc]
  · simp only [Work.onHandle, hrow]

/-- A handle whose slot has been issued again names nothing that is live. -/
theorem onHandle_reissued {w : Work} {p : Packet} {o x : Nat} (k : Nat → Work × Act) (hready : w.readyFor o = true)
    (hrow : w.resolve p.ctx.toNat x = .reissued) : w.onHandle p o x k = (w, .answer (Ans.refuse stNotLive)) := by
  simp only [Work.onHandle, hrow, hready, if_true]

/-- For the steward, neither does a handle that was never issued (R148). -/
theorem onHandle_steward_unissued {w : Work} {p : Packet} {o x : Nat} (k : Nat → Work × Act) (hready : w.readyFor o = true)
    (hc : p.ctx.toNat = 0) (hrow : w.resolve p.ctx.toNat x = .neverIssued) :
    w.onHandle p o x k = (w, .answer (Ans.refuse stNotLive)) := by
  simp only [Work.onHandle, hrow, hready, if_pos hc, if_true]

/-- The opcodes whose HANDLE is a sequence handle (R231). -/
def handleOps : List Nat := [opAppend, opCancel, opPause, opResume, opCredit, opQuery]

/-- The unit of each of them resolves the handle first. -/
theorem act_onHandle {s : State} {port op : Nat} {p : Packet} (h : Accepted s port op p) (hop : op ∈ handleOps) :
    ∃ k, (Work.acting s port op p).act (arrived s port op p) =
      (Work.acting s port op p).onHandle p op (Work.handleOf p) k := by
  rw [act_accepted h]
  simp only [handleOps, List.mem_cons, List.not_mem_nil, or_false] at hop
  rcases hop with rfl | rfl | rfl | rfl | rfl | rfl <;> exact ⟨_, rfl⟩

theorem act_violates {s : State} {port op : Nat} {p : Packet} (h : Accepted s port op p) (hop : op ∈ handleOps)
    (hc : p.ctx.toNat ≠ 0)
    (hrow : (start s).resolve p.ctx.toNat (Work.handleOf p) = .neverIssued ∨
      (start s).resolve p.ctx.toNat (Work.handleOf p) = .foreign) :
    (Work.acting s port op p).act (arrived s port op p) = (Work.acting s port op p, .violate 0x03) := by
  obtain ⟨k, hact⟩ := act_onHandle h hop
  rw [hact]
  refine onHandle_violates op k hc ?_
  rwa [(acting_passed s port op p h.up).resolve]

theorem act_notLive {s : State} {port op : Nat} {p : Packet} (h : Accepted s port op p) (hop : op ∈ handleOps)
    (hrow : (start s).resolve p.ctx.toNat (Work.handleOf p) = .reissued ∨
      p.ctx.toNat = 0 ∧ (start s).resolve p.ctx.toNat (Work.handleOf p) = .neverIssued) :
    (Work.acting s port op p).act (arrived s port op p) =
      (Work.acting s port op p, .answer (Ans.refuse stNotLive)) := by
  obtain ⟨k, hact⟩ := act_onHandle h hop
  have hpass := acting_passed s port op p h.up
  have hready := (hpass.readyFor op).trans h.ready.2.1
  rw [← hpass.resolve] at hrow
  rw [hact]
  rcases hrow with hrow | ⟨hc, hrow⟩
  · exact onHandle_reissued k hready hrow
  · exact onHandle_steward_unissued k hready hc hrow

/-- Each of their commands is the packet of its opcode. -/
theorem exec_of_handleOp {s : State} {port op : Nat} {p : Packet} {cmd : Instr}
    (h : (op, cmd) ∈ [(opAppend, Instr.append port p), (opCancel, .cancel port p), (opPause, .pause port p),
      (opResume, .resume port p), (opCredit, .credit port p), (opQuery, .query port p)]) :
    op ∈ handleOps ∧ exec cmd s = packet s port op p := by
  simp only [List.mem_cons, Prod.mk.injEq, List.not_mem_nil, or_false] at h
  rcases h with ⟨rfl, rfl⟩ | ⟨rfl, rfl⟩ | ⟨rfl, rfl⟩ | ⟨rfl, rfl⟩ | ⟨rfl, rfl⟩ | ⟨rfl, rfl⟩ <;>
    exact ⟨by decide, rfl⟩

/-- Settles O30: the rows one by one, and each packet by what its unit, which resolves the handle first, answers for its row. -/
theorem sequenceHandlesAreResolved : Obligations.SequenceHandlesAreResolved := by
  unfold Obligations.SequenceHandlesAreResolved
  refine ⟨fun w c h => ⟨?_, ?_, ?_, ?_⟩, ?_, ?_⟩
  · exact resolve_of_unissued c
  · intro hrow hgen
    rw [resolve_of_issued c hrow, if_pos hgen]
  · intro hrow hgen hctx hc
    rw [resolve_of_issued c hrow, if_neg (fun hne => hne hgen), if_pos ⟨hctx, hc⟩]
  · intro hrow hgen hctx
    rw [resolve_of_issued c hrow, if_neg (fun hne => hne hgen), if_neg fun hother => hctx.elim hother.1 hother.2]
  · intro s port p hacc hc hrow
    rw [← hc] at hrow
    exact packet_answered_unchanged hacc (act_notLive hacc (by decide) (hrow.symm.imp_right fun h => ⟨hc, h⟩))
  · intro s port op p cmd hmem hacc hc r
    obtain ⟨hop, hexec⟩ := exec_of_handleOp (s := s) hmem
    rw [hexec]
    exact ⟨fun hrow => packet_frozen hacc (act_violates hacc hop hc hrow),
      fun hrow => packet_answered_unchanged hacc (act_notLive hacc hop (.inl hrow))⟩

end Sys2Proof.Machine
end

section
/-! PROOFS. Requests of the engines at their windows: a late record of a frozen engine (R89, R141, R603). -/

namespace Sys2Proof.Machine

/-! A keep-list that comes from a frozen engine after its timer has run out. -/

/-- Engine 3 of pool 0, which is frozen. Its descriptor holds zeros but for COMPLETION_TIMEOUT. -/
def frozenEngine : Engine :=
  { pool := 0, desc := { descFields [] with completionTimeout := 1000 }, frozen := true, keepNum := 4 }

/-- Slot 5 waits for the keep-list with NUM 4 of engine 3, which has acknowledged the request at count 0. -/
def awaitingKeepList : ParkRec := { condensed := true, written := 64, copy := .keepList 3 4 (some 0) }

/-- COMPLETION_TIMEOUT has run out, and the command KEEP_LIST_TIMEOUT has not come yet. -/
def keepListOverdue : State :=
  { clk := { hs := 1000000, fs := 1000000 }
    m := {
      hs := { bootDone := true }
      fs := { boot := { phase := .ready }
              pools := [(0, { typ := 2, kvLayout := 1, vocabShards := 1, kvShards := 1 })], engines := [(3, frozenEngine)]
              rqt := [(5, { st := .parked, gen := 1, ctx := 1, fl := { issued := true } })]
              seqs := [(5, { park := some awaitingKeepList })] } } }

/-- The keep-list that slot 5 waits for. -/
def overdueKeepList : KeepList := { seq := seqHandle 5 { gen := 1 }, num := 4, ranges := [(0, 10)] }

/-- Where the next record begins in engine 3's keep-list ring. -/
def keepListAddr : Nat := (start keepListOverdue).blockAddr 3 + ringKeep.base

theorem exec_overdueKeepList : exec (.keepList 3 keepListAddr overdueKeepList) keepListOverdue =
    .next (finish keepListOverdue ((start keepListOverdue).keepList 3 keepListAddr overdueKeepList).settled) := rfl

/-- The record is counted as one whose timer has run out (R89, R603), and again as a write of a frozen engine (R141). -/
theorem overdueKeepList_counted_twice :
    ((finish keepListOverdue ((start keepListOverdue).keepList 3 keepListAddr overdueKeepList).settled).obs.ctr.getD
      (cIgnoredWrites 3) 0).toNat = 2 := by
  decide

/-- Refutes O48: its clause on a frozen engine has each write counted once in IGNORED_WRITES. A keep-list that comes after
its timer is counted before the freeze of its engine is looked at, and then as a write of that engine: at `keepListOverdue`
one keep-list is counted twice. -/
theorem not_engineWritesAreChecked : ¬ Obligations.EngineWritesAreChecked := by
  unfold Obligations.EngineWritesAreChecked
  rintro ⟨-, -, hwrites⟩
  obtain ⟨-, hfrozen, -⟩ := hwrites keepListOverdue 3 keepListAddr 64 (.keepList 3 keepListAddr overdueKeepList)
    (by decide) (by decide) (by simp)
  obtain ⟨t, hexec, -, hcounted, -⟩ := hfrozen frozenEngine rfl rfl
  have hend : finish keepListOverdue _ = t := Host.Outcome.next.inj (exec_overdueKeepList.symm.trans hexec)
  have honce : (t.obs.ctr.getD (cIgnoredWrites 3) 0).toNat = 1 := hcounted rfl (by decide)
  have htwice : (t.obs.ctr.getD (cIgnoredWrites 3) 0).toNat = 2 := hend ▸ overdueKeepList_counted_twice
  omega

end Sys2Proof.Machine
end

section
/-! PROOFS. The observation unit's stores over a whole step, and the record of a new event (R814). -/

namespace Sys2Proof.Machine

/-! What every step keeps of the observation unit's stores. -/

/-- The passing of time does not reach the observation unit. -/
@[simp] theorem tick_obs (s : State) : s.tick.obs = s.obs := by
  simp only [State.tick, State.memTick]
  split <;> rfl

/-- A property of the observation unit's stores that every command keeps holds after an idle moment too: either time passes,
or something that waited at a unit's input is taken as a command (R823, R824). -/
theorem idle_keeps_obs {P : Obs → Prop} (hexec : ∀ i (s t : State), P s.obs → exec i s = .next t → P t.obs) {s t : State}
    (hs : P s.obs) (h : idle s = .next t) : P t.obs := by
  have hticked : P s.tick.obs := (tick_obs s).symm ▸ hs
  unfold idle at h
  split at h
  · cases h
    exact hticked
  · split at h
    · cases h
      exact hticked
    · split at h
      · next u hu =>
        cases h
        exact hexec _ { s with stalled := [] } u hs hu
      · next hstops => exact absurd h (hstops t)

/-- A property of the observation unit's stores that every command keeps, every step keeps. -/
theorem step_keeps_obs {P : Obs → Prop} (hexec : ∀ i (s t : State), P s.obs → exec i s = .next t → P t.obs) {s t : State}
    (hs : P s.obs) (h : step s = .next t) : P t.obs := by
  unfold step at h
  split at h
  · exact idle_keeps_obs hexec hs h
  · next c rest _ => exact hexec c { s with pending := rest } t hs h

/-! Event records stay in their slots. -/

theorem hostReset_slotted {s : State} (h : s.obs.slotted) : s.hostReset.obs.slotted := by
  rw [hostReset_obs]
  exact dropHost_slotted _ (settle_slotted s _ h)

theorem fabricReset_slotted {s : State} (h : s.obs.slotted) : s.fabricReset.obs.slotted := by
  rw [fabricReset_obs]
  exact dropFabric_slotted _ (settle_slotted s _ h)

@[simp] theorem hostRelease_obs (s : State) : s.hostRelease.obs = s.obs := by
  unfold State.hostRelease
  split <;> rfl

@[simp] theorem fabricRelease_obs (s : State) (grpPos pairSide : Nat) : (s.fabricRelease grpPos pairSide).obs = s.obs := by
  unfold State.fabricRelease
  split <;> rfl

/-- Each piece of a command's end leaves every event record in its slot. -/
theorem exec_slotted (i : Instr) (s t : State) (hs : s.obs.slotted) (h : exec i s = .next t) : t.obs.slotted :=
  (exec_ends i s t h).keep (P := fun s => s.obs.slotted)
    (settle := settle_slotted)
    (clocks := fun _ _ h => h)
    (waits := fun _ _ h => h)
    (speed := fun _ _ h => h)
    (hostReset := fun _ h => hostReset_slotted h)
    (fabricReset := fun _ h => fabricReset_slotted h)
    (hostRelease := fun s h => (hostRelease_obs s).symm ▸ h)
    (fabricRelease := fun s g p h => (fabricRelease_obs s g p).symm ▸ h) hs

/-! The record of a new event. -/

/-- An event stores one record, whose EVNO is not 0, in the slot that its EVNO names, and that EVNO as its ring's EVT_HEAD. -/
theorem logEvent_stores (w : Work) (o : Obs) (ring code a0 a1 : Nat) :
    ∃ r : EventRec, w.logEvent o ring code a0 a1 =
        { o with head := o.head.set ring r.evno, recs := o.recs.set (ring * 256 + r.evno % 256) r } ∧
      r.ring = ring ∧ r.code = code ∧ r.evno ≠ 0 := by
  unfold Work.logEvent
  extract_lets next n r
  have hn : n ≠ 0 := by
    unfold n
    split <;> omega
  exact ⟨r, rfl, rfl, rfl, hn⟩

/-- Settles O3: each piece of a command's end keeps the records in their slots, so each command and each step does; a new
event writes one record and one EVT_HEAD, by the EVNO that the record carries. -/
theorem eventRecordsKeepTheirSlots : Obligations.EventRecordsKeepTheirSlots := by
  unfold Obligations.EventRecordsKeepTheirSlots
  refine ⟨fun s t => step_keeps_obs exec_slotted, fun w o ring code a0 a1 => ?_⟩
  obtain ⟨r, hlog, hring, hcode, hevno⟩ := logEvent_stores w o ring code a0 a1
  simp only [hlog, Tbl.getD_set_self]
  refine ⟨hevno, ⟨r, Tbl.get?_set_self _ _ _, hring, rfl, hcode⟩, ?_, ?_⟩
  · exact fun k hk => Tbl.get?_set_ne _ _ hk
  · exact fun k hk => Tbl.get?_set_ne _ _ hk

end Sys2Proof.Machine
end
